-- ==== Sys2Proof/Word.lean ====
section
/-! DEFINITION. The words of the block: bytes, 32-bit register words, 36-bit control words and byte strings
(00 R3, R5, R462). -/
namespace Sys2Proof

/-- One byte. -/
abbrev Byte := BitVec 8

/-- A register word, or one dword of a ring entry (00 R5). -/
abbrev W32 := BitVec 32

/-- A 36-bit word of the control complexes (00, "Words, containers and registers"). -/
abbrev W36 := BitVec 36

/-- A byte string, lowest address first. -/
abbrev Bytes := List Byte

/-- `n` zero bytes. -/
def zeros (n : Nat) : Bytes := List.replicate n 0

/-- Bytes in one 4 KiB block (00, "Numbers and notation"). -/
abbrev blockBytes : Nat := 4096

end Sys2Proof
end

