-- ==== Sys2Proof/Syntax.lean ====
section
/-! DEFINITION. The commands of the AV-636: one constructor of `Instr` for each row of spec/opcode_table.json, in the
table's order, and the small closed types their operands are made of. The table gives the rows no bits and no fields;
an operand carries what the step's trigger brings from outside the block (a register value, the entries a poll read, a
drive's data, a measured signature) or names the thing the step is about. -/
namespace Sys2Proof

/-- A host port (04). -/
inductive Port where | a | b
deriving DecidableEq, Repr

/-- A control complex (12). -/
inductive Cx where | umber | slate
deriving DecidableEq, Repr

/-- A submission ring, 0 to 63 (05, "Rings"). -/
abbrev RingN := Fin 64

/-- A volume index (06 R170). -/
abbrev VolN := Fin 64

/-- A member slot, M0 to M5 (09). -/
abbrev SlotN := Fin 6

/-- A position of the array (07 R202). -/
abbrev PosN := Fin 6

/-- A vector of the host interrupts (04 R112). -/
abbrev VecN := Fin 32

/-- A stripe-cache allocation class (01 Table 1-5). -/
abbrev ClassN := Fin 6

/-- The image slots of the firmware store (03, "Secure boot"). -/
inductive ImgSlot where | a | b
deriving DecidableEq, Repr

/-- A 64-byte ring entry as its 16 dwords (05 R134). -/
structure Entry where
  dw : List W32
deriving DecidableEq, Repr

/-- One member block as a read of the media inside an indivisible step finds it: position, data-area block (member
block less DS, 08 R244) and its 4096 bytes, or `none` where the read fails. -/
structure MediaRead where
  pos  : PosN
  d    : Nat
  data : Option Bytes
deriving DecidableEq, Repr

/-- An error a lookup in the stripe cache meets (08 R247), at a set and way: a single-bit error of a word, a double-bit
error of a sector, a parity error of the tag. -/
inductive CacheFault where
  | single (set way : Nat)
  | double (set way sector : Nat)
  | tag (set way : Nat)
deriving DecidableEq, Repr

/-- A line MAC of the memory engine that fails for a host command (10 Table 10-5): of its data in staging, of the journal
slot that holds a block, or of a block's lines in the bulk read cache. -/
inductive MacFault where
  | none
  | staging
  | journal (lbn : Nat)
  | readCache (lbn : Nat)
deriving DecidableEq, Repr

/-- What the memories a READ uses turn out to hold: errors of the stripe cache, of the memory engine, and of the
descriptor table or its bank (08 R247, 10 R325, 07 R221). -/
structure ReadView where
  cache : List CacheFault
  mac   : MacFault
  tableBad : Bool
deriving DecidableEq, Repr

/-- No error. -/
def ReadView.clean : ReadView := { cache := [], mac := .none, tableBad := false }

/-- The extremes of one S1 measurement window (03 Table 3-2): cycles counted, rails in tenths of a millivolt, VIN in
millivolts, junction in degrees Celsius. -/
structure WindowSample where
  cycles : Nat
  coreMin : Nat
  coreMax : Nat
  ioMin : Nat
  ioMax : Nat
  memMin : Nat
  memMax : Nat
  vinMin : Nat
  vinMax : Nat
  tjMin : Int
  tjMax : Int
deriving DecidableEq, Repr

/-- What a memory's cells show before repair (03 Table 3-4): its block id, the way (stripe cache only), the numbers of its
defective rows (lines, entries, words) and columns, and, in the journal, which of the rows hold content beyond correction
(R75). -/
structure MemFault where
  id   : Nat
  way  : Nat
  rows : List Nat
  cols : List Nat
  lost : List Nat
deriving DecidableEq, Repr

/-- What one complex's boot ROM meets in S4: the image bytes it reads from slot A and from slot B where they are not what
the store holds, and the 32-bit digest of the loaded memory image at the first and at the second attempt (03 R79, R80). -/
structure BootTrial where
  readA : Option Bytes
  readB : Option Bytes
  digest1 : W32
  digest2 : W32
deriving DecidableEq, Repr

/-- What S7 reads: whether the journal's counters were found changed since they were written, the journal lines (by line
number) found failing their MAC check, and the member blocks its redo steps read (08 R241, R242). -/
structure ReplayView where
  altered : Bool
  bad   : List Nat
  media : List MediaRead
deriving DecidableEq, Repr

/-- How the copies and markers of the frame's orders stand at cycle 7000 (12 R379, R381): which complex's marker has
reached the gate, and whether the two order sets (counts, digest lists and write-class digests) agree; and what the frame
state record is made of (R391, R392): the state words the holder changed, by address, those its twin changed, and whether
the digests of the frame's inputs agree. -/
structure GateView where
  umber  : Bool
  slate  : Bool
  agree  : Bool
  inputsAgree : Bool
  words  : List (BitVec 16 × BitVec 36)
  twinWords : List (BitVec 16 × BitVec 36)
deriving DecidableEq, Repr

/-- How a member command ends (09 Table 9-6, R275); `windowMac`: with an error because the drive's read of its data window
was answered Completer Abort, the window's line MAC having failed (10 Table 10-5). -/
inductive MemberStatus where
  | ok
  | unrecovered
  | otherError
  | windowMac
deriving DecidableEq, Repr

/-- What the drive reports in steps 4 to 7 of bring-up (09 R267, R265, 14 R439): whether the namespace has an acceptable
current format, whether it offers one, the granted I/O queue pairs, the namespace size in 4 KiB blocks, DLFEAT 001b,
the drive serial, the maximum power in hundredths of a watt. -/
structure DriveId where
  formatOk : Bool
  offers   : Bool
  needMeta : Bool
  queues   : Nat
  blocks   : Nat
  dlfeat   : Bool
  serial   : Bytes
  mpCentiW : Nat
deriving DecidableEq, Repr

/-- The two superblock copies step 7 of bring-up read, `none` for a Read that completed with an error status (09 R267,
R270). -/
structure SbCopies where
  a : Option Bytes
  b : Option Bytes
deriving DecidableEq, Repr

/-- What completing a bring-up step brings (09 R267). -/
inductive StepInfo where
  | plain
  | identified (d : DriveId)
  | superblocks (c : SbCopies)
deriving DecidableEq, Repr

/-- What a rail did (14 R441). -/
inductive RailFault where | short | overCurrent | outOfWindow
deriving DecidableEq, Repr

/-- The row of Table 9-6 by which a member reaches its failure threshold (09 R275), numbered from 1 by `row`. -/
inductive LossRow where
  | removal | rail | writeError | readOnly | ladder | linkLadder | unrecovered | otherError | smart | mapFull
deriving DecidableEq, Repr

/-- The correctable port errors (04 Table 4-10). -/
inductive CorErr where | receiver | badTlp | badDllp | rollover | replayTimer | internal
deriving DecidableEq, Repr

/-- The port errors that an error event brings: those of 04 Table 4-10, and a parity error of the prefetch buffer. -/
inductive PortErr where
  | correctable (e : CorErr)
  | unsupportedSent
  | unexpectedCompletion
  | dataLink
  | flowControl
  | receiverOverflow
  | malformedTlp
  | ecrc
  | poisonedWrite
  | internal
  /-- Not an error of Table 4-10: a parity error on the `n`th known entry of a ring of the port, in the descriptor prefetch
  buffer (05 R144). The table has no row of its own for it (log entry 60). -/
  | prefetchParity (r : RingN) (n : Nat)
deriving DecidableEq, Repr

/-- The two wired inputs of the always-on domain (11 R349). -/
inductive Wire where | lid | button
deriving DecidableEq, Repr

/-- The classification of one channel in a sample (11 Table 11-6). -/
inductive Chan where | closed | opened | faulty
deriving DecidableEq, Repr

/-- What one channel reads in a sample: at the end of the first half, LID_DRV low, and of the second, LID_DRV high (11
R349). -/
structure Reading where
  first  : Bool
  second : Bool
deriving DecidableEq, Repr

/-- A link as it was trained: its port, and the speed (1 to 4: 2.5 to 16.0 GT/s) and width it negotiated (04 R101). -/
structure Trained where
  p     : Port
  speed : Nat
  width : Nat
deriving DecidableEq, Repr

/-- An instruction of the test port, the bits its data scan shifts in, first bit first, and the levels on the 29 balls (14
R449, R450). -/
structure Scan where
  code   : BitVec 8
  tdi    : List Bool
  levels : BitVec 29
deriving DecidableEq, Repr

/-- The tamper sources (11 Table 11-7). -/
inductive TamperSrc where
  | lidOpen | lidDisc | mesh | vinHigh | coreV | temp | clock | frzMisuse | unlockLimit
deriving DecidableEq, Repr

/-- The self-detected faults of a complex (12 Table 12-6). -/
inductive CxFault where | tcm | bus | overrun | marker | selfTest | recordCrc
deriving DecidableEq, Repr

/-- The conditions of FRZ_MISUSE (13 R422). -/
inductive Misuse where | unarmedPin | capClk
deriving DecidableEq, Repr

/-- The background engines that hold staging buffers (02 Table 2-10). -/
inductive Engine where | rebuild | rekey | scrub
deriving DecidableEq, Repr

/-- The device-level error codes 0x01 to 0x07 (13 Table 13-2). -/
inductive DevErr where
  | integrityAlarm | bothChecks | simplexFault | bothResigned | gateParity | rootWord | keyTable
deriving DecidableEq, Repr

/-- The failures of 10 Table 10-5 that can raise an integrity alarm. -/
inductive AlarmCause where | counterBlock | lineMacs
deriving DecidableEq, Repr

/-- Where a register lies: an offset of BAR0 (04 R107), or of configuration space (04 R103, R105). -/
inductive RegSpace where
  | bar0 (offset : Nat)
  | config (offset : Nat)
deriving DecidableEq, Repr

/-- What an MSI-X write touches (04 R114): a table entry's fields, or Function Mask in Message Control. -/
inductive MsixWrite where
  | addrLo (v : W32)
  | addrHi (v : W32)
  | data   (v : W32)
  | ctrl   (masked : Bool)
  | functionMask (set : Bool)
  | enable (set : Bool)
deriving DecidableEq, Repr

/-- The commands, one per row of spec/opcode_table.json. -/
inductive Instr where
  -- supply and Start (02, 03, 14)
  | vinValid
  | vinLost (landed : Nat) (reversed : Bool)
  | powerOnEnd (strapHigh : Bool)
  | startSlotTakedownEnd
  | windowsClose (w : WindowSample)
  | logicSelfTestEnd (sigs : List (Nat × W32))
  | memoryTestEnd (faults : List MemFault)
  | secureBootEnd (u s : BootTrial)
  | bulkMemoryTestEnd (bad : List Nat)
  | memberBringUpEnd (atMaximum : Bool)
  | journalReplayEnd (v : ReplayView)
  | release (vbatReversed : Bool)
  | stageTimeout (blk : BitVec 8)
  -- the frame (01, 12)
  | intakePhase
  | planPhase (selfTestSteps corrected nearMisses : Nat)
  | dispatchPhase
  | commitPoint (g : GateView)
  | privilegedExec
  | modeTransition
  | volumeKeyClear (v : VolN)
  | drowseIdleElapsed
  -- polling (05)
  | poll (p : Port) (r : RingN)
  | pollData (p : Port) (r : RingN) (window : List Entry) (poisoned : Bool)
  | drowsePoll (p : Port) (r : RingN) (e : Entry)
  -- I/O commands (06)
  | read (p : Port) (r : RingN) (i : Nat) (v : ReadView)
  | write (p : Port) (r : RingN) (i : Nat) (macFails : Bool)
  | writeThrough (p : Port) (r : RingN) (i : Nat) (macFails : Bool)
  | flush (p : Port) (r : RingN) (i : Nat)
  | deallocate (p : Port) (r : RingN) (i : Nat)
  | verify (p : Port) (r : RingN) (i : Nat)
  -- management commands (06)
  | identify (p : Port) (i : Nat)
  | status (p : Port) (i : Nat)
  | logRead (p : Port) (i : Nat)
  | queueCtlCreate (p : Port) (i : Nat)
  | queueCtlModify (p : Port) (i : Nat)
  | queueCtlDelete (p : Port) (i : Nat)
  | queueCtlResumeRetry (p : Port) (i : Nat)
  | queueCtlResumeSkip (p : Port) (i : Nat)
  | queueCtlReset (p : Port) (i : Nat)
  | abort (p : Port) (i : Nat)
  | portRelease (p : Port) (i : Nat)
  | bufAlloc (p : Port) (i : Nat)
  | bufFree (p : Port) (i : Nat)
  | bufCopyHostToBuffer (p : Port) (i : Nat)
  | bufCopyBufferToHost (p : Port) (i : Nat)
  | cacheMaintCleanRange (p : Port) (i : Nat)
  | cacheMaintInvalidateRange (p : Port) (i : Nat)
  | cacheMaintCleanInvalidateRange (p : Port) (i : Nat)
  | cacheMaintCleanSetWay (p : Port) (i : Nat)
  | cacheMaintInvalidateSetWay (p : Port) (i : Nat)
  | cacheMaintInvalidatePrefetch (p : Port) (i : Nat)
  | cacheMaintSetMask (p : Port) (i : Nat)
  | unlock (p : Port) (i : Nat) (media : List MediaRead)
  | lock (p : Port) (i : Nat)
  | credSet (p : Port) (i : Nat)
  | arrayCreate (p : Port) (i : Nat)
  | arrayInitDone
  | volumeCreate (p : Port) (i : Nat)
  | volumeDelete (p : Port) (i : Nat)
  | grantSet (p : Port) (i : Nat)
  | keyRotate (p : Port) (i : Nat)
  | sharesSet (p : Port) (i : Nat)
  | vaultList (p : Port) (i : Nat)
  | vaultGet (p : Port) (i : Nat) (media : List MediaRead)
  | vaultPut (p : Port) (i : Nat)
  | vaultDelete (p : Port) (i : Nat)
  | vaultSetPolicy (p : Port) (i : Nat) (media : List MediaRead)
  | memberAttach (p : Port) (i : Nat)
  | memberDetach (p : Port) (i : Nat)
  | memberReplace (p : Port) (i : Nat)
  | memberLocateOn (p : Port) (i : Nat)
  | memberLocateOff (p : Port) (i : Nat)
  | rebuildStart (p : Port) (i : Nat)
  | rebuildStop (p : Port) (i : Nat)
  | scrubStart (p : Port) (i : Nat)
  | scrubStop (p : Port) (i : Nat)
  | engineSplit (p : Port) (i : Nat)
  | layoutLoad (p : Port) (i : Nat)
  | layoutValidationEnd
  | layoutSwap (p : Port) (i : Nat)
  | shadowVerificationEnd
  | swapDrainEnd
  | selfTest (p : Port) (i : Nat)
  | selfTestDone (signature : W32) (faults : List MemFault)
  | fwLoad (p : Port) (i : Nat)
  | fwActivate (p : Port) (i : Nat)
  | modeSetLocked (p : Port) (i : Nat)
  | modeSetService (p : Port) (i : Nat)
  | reset (p : Port) (i : Nat) (standing : BitVec 9)
  | lifecycleGrey (p : Port) (i : Nat)
  | lifecycleBlack (p : Port) (i : Nat)
  | lifecycleRed (p : Port) (i : Nat)
  | freezeArm (p : Port) (i : Nat)
  | freezeDisarm (p : Port) (i : Nat)
  | identitySet (p : Port) (i : Nat)
  | auxDriveGpioOut (p : Port) (i : Nat)
  | auxReadGpioIn (p : Port) (i : Nat) (level : Bool)
  | alarmSetHost (p : Port) (i : Nat)
  | alarmCancelHost (p : Port) (i : Nat)
  | alarmSetWake (p : Port) (i : Nat)
  | alarmCancelWake (p : Port) (i : Nat)
  | hostAlarm
  | wakeAlarm
  -- ring registers (05)
  | qctlResumeRetry (p : Port) (r : RingN) (v : W32)
  | qctlResumeSkip (p : Port) (r : RingN) (v : W32)
  | qctlReset (p : Port) (r : RingN) (v : W32)
  | ringReset (p : Port) (r : RingN)
  | ring0Enable (p : Port) (v : W32)
  | evqEnable (p : Port) (v : W32)
  | evqDoneWrite (p : Port) (v : W32)
  -- other register writes
  | pfinvWrite (p : Port) (v : W32)
  | cmaskWrite (p : Port) (cls : ClassN) (v : W32)
  | modeReqWrite (p : Port) (v : W32)
  | drowseIdleWrite (p : Port) (v : W32)
  | auxEnWrite (p : Port) (v : W32)
  | stgLimitWrite (p : Port) (v : W32)
  | portRelWrite (p : Port) (v : W32)
  | portOrdWrite (p : Port) (v : W32)
  | portPwrWrite (p : Port) (v : W32)
  | intStatWrite (p : Port) (v : W32)
  | intMaskWrite (p : Port) (v : W32)
  | intCoalWrite (p : Port) (vec : VecN) (v : W32)
  | msixVectorWrite (p : Port) (vec : VecN) (w : MsixWrite)
  | tampCfgWrite (p : Port) (v : W32)
  | lidCfgWrite (p : Port) (v : W32)
  | confCfgWrite (p : Port) (v : W32)
  | hlthCfgWrite (p : Port) (v : W32)
  | registerWrite (p : Port) (reg : RegSpace) (v : W32)
  | bar0UnsupportedRequest (p : Port) (offset dwords : Nat) (allBytes write : Bool)
  -- host port events (04)
  | busMasterEnable (p : Port) (set : Bool)
  | d3hotWrite (p : Port)
  | d3hotEntry (p : Port)
  | d0Return (p : Port)
  | flr (p : Port)
  | flrComplete (p : Port)
  | perstAssert (p : Port)
  | perstDeassert (p : Port) (clockSeen : Bool)
  | hotReset (p : Port)
  | linkUp (x : Trained)
  | linkL12Exit (p : Port)
  | aspmL1Request (p : Port)
  | ltrMessage (p : Port)
  | interruptMessage (p : Port) (vec : VecN)
  | portError (p : Port) (e : PortErr) (header : List W32)
  | surpriseLinkDown (p : Port)
  | completionTimeout (p : Port)
  | containmentHold (p : Port)
  | containmentRelease (p : Port)
  -- members (09, 14)
  | presenceChange (slot : SlotN) (present : Bool)
  | bringupStepDone (slot : SlotN) (info : StepInfo)
  | bringupStepOverrun (slot : SlotN)
  | formatNvmDone (slot : SlotN) (ok : Bool)
  | slotPowerWaitEnd (slot : SlotN)
  | slotPowerDownStep (slot : SlotN)
  | memberReadCompletion (id : Nat) (st : MemberStatus) (data : List (Option Bytes))
  | memberWriteCompletion (id : Nat) (st : MemberStatus)
  | memberCommandTimeout (slot : SlotN)
  | memberLinkDown (slot : SlotN)
  | ladderRungDone (slot : SlotN) (ok : Bool) (serial : Bytes)
  | healthPoll (slot : SlotN) (warnings : BitVec 8)
  | memberDmaRequest (slot : SlotN) (inside lineMacFails : Bool)
  | railFault (slot : SlotN) (f : RailFault)
  | slotConverterOvercurrent
  | memberLost (slot : SlotN) (why : LossRow)
  | superblockWriteDone
  -- shifts and engines (07, 08, 09, 10)
  | destageShiftStart (tableBad : Bool)
  | rebuildShift (tableBad : Bool)
  | resyncShift (tableBad : Bool)
  | checkShift (tableBad : Bool)
  | shiftCompute (id : Nat) (faults : List CacheFault)
  | shiftEnd (id : Nat)
  | engineBufferRelease (e : Engine)
  | bufferReclaimAlloc (p : Port) (i : Nat)
  | journalDurable
  | journalWriteFailed
  | journalWaitEnd (p : Port) (r : RingN) (i : Nat)
  | foldStart (v : VolN) (media : List MediaRead)
  | rekeyStep (media : List MediaRead)
  | stripeWayRetire (w : Fin 16)
  -- security (11)
  | integrityAlarm (c : AlarmCause)
  | tamperTrip (src : TamperSrc)
  | discrepancyFault (w : Wire) (a b : Reading)
  | discrepancyRunEnd (w : Wire) (d : Nat) (x : Reading × Reading)
  | confirmPress
  | confirmTimeout
  | throttleExpiry
  | coolDownExpiry (obj : Nat)
  | wakeIn
  -- the complexes (12)
  | resign (c : Cx) (f : CxFault)
  | claim (c : Cx)
  | leaseExpiry
  | selfCheckEnd (umberPass slatePass : Bool)
  | handover
  | takeback
  | reloadEnd (c : Cx) (accepted : Bool)
  | stateCopyEnd (c : Cx)
  | firmwareCopyEnd (c : Cx)
  | probationEnd (c : Cx)
  | frameLimitWarning
  | frameLimitStop
  | frameLimitHalt
  -- errors, freeze, test port (13, 14)
  | deviceLevelError (e : DevErr)
  | freezePinTrigger
  | freezeFrameMatch
  | freezeEntry
  | captureReady
  | captureRestart
  | frzMisuse (m : Misuse)
  | hostDmaReadCompletion (p : Port) (r : RingN) (i : Nat) (data : Option Bytes)
  | linkL12Entry (p : Port)
  | randomBitGeneratorHealthFail
  | vbatLost
  | vbatRestored
  | capClkFallingEdge
  | boundaryScanInstruction (x : Scan)
  | testLogicReset
deriving DecidableEq, Repr

end Sys2Proof
end

