-- ==== Sys2Proof/Config.lean ====
section
/-! DEFINITION. The values the spec leaves to chance: constants with no body, applied to the counter `State.free`, which
every use advances (log entry 6). Nothing can be proved of them but that they have the stated width. -/
namespace Sys2Proof

/-- A 256-bit secret drawn from the random bit generator (10 R303): AMK, VS, BUK. -/
opaque Config.freshSecret : Nat → BitVec 256

/-- The 128 random bits of an array's uuid (09 Table 9-4). -/
opaque Config.freshUuid : Nat → BitVec 128

/-- The cause word of a NOTE for a logged case to which the spec gives no code (13 Table 13-5), by the model's own number
of the case (log entry 41). -/
opaque Config.noteCause : Nat → BitVec 36

/-- A byte of the freeze image whose content the spec does not give: by the image's seed and the byte's place (13 Table
13-8: memories of the complexes, the gate's records, the metadata cache, unused entries). -/
opaque Config.captureByte : Nat → Nat → BitVec 8

/-- The status that stands in START_CODE or the Start record for a complex that resigns during Start, by its row of 12
Tables 12-6 and 12-8: 03 R97 asks for one and no table gives it (log entry 76). -/
opaque Config.complexStatus : Nat → BitVec 16

/-- The CRC-32C of a frame's Intake inputs: 12 R391 puts it into the frame state record and no rule lays the inputs out
(log entry 14). -/
opaque Config.inputsDigest : Nat → BitVec 32

/-- A bit an internal test register shifts out: 14 R449 names these registers and gives none of their contents. -/
opaque Config.testBit : Nat → Bool

end Sys2Proof
end

