-- ==== Sys2Proof/Machine/State.lean ====
section
/-! DEFINITION. The state of the AV-636 as plain data, block by block, and its value at reset. INVENTORY.md lists every
field with the rule of spec/ that names it. Three fields are the model's own and not the spec's: `pending` (the queue of
waiting commands), `out` (what the block has sent on its links) and `free` (the counter behind free values). -/
namespace Sys2Proof.Machine

/-- Why a step stops with a fault. No step of this block does: the spec describes a state for every error it names, so
the type has no constructor (NOTES.md, "Stops"). -/
inductive Fault where
deriving DecidableEq, Repr

/-- Why a command has no meaning. -/
inductive Refusal where
  /-- Raised by `exec` for a row of the opcode table without a meaning in this model; safe. No arm raises it. -/
  | notModelled (mnemonic : String)
deriving DecidableEq, Repr

/-- A status (00 R11, 06 Table 6-7). -/
abbrev Status := BitVec 16

/-- Where the frame stands (01 Table 1-2); `stopped` while no frame runs (Vault, stage H, Freeze, a halt). -/
inductive Phase where | stopped | intake | plan | dispatch | commit
deriving DecidableEq, Repr

/-- The twelve modes (02 Table 2-1). -/
inductive Mode where
  | vault | start | locked | online | degraded | rebuild | salvage | drowse | service | freeze | lockdown | factory
deriving DecidableEq, Repr

/-- MODE_STAT.cond (02 R39). -/
inductive Cond where | none | online | degraded | rebuild | salvage
deriving DecidableEq, Repr

/-- The lifecycle (11 R338). -/
inductive Lifecycle where | white | grey | black | red
deriving DecidableEq, Repr

/-- The order codes (00 Table 0-1). -/
inductive Grade where | c | e
deriving DecidableEq, Repr

/-- A byte-addressed memory of the block: the written bytes that differ from 0, addresses strictly rising
(`Memory.wf`). An address that is not listed reads 0. -/
abbrev Memory := List Host.Cell

/-- Names a command entry: its port, ring and the slot of its first entry. -/
structure Ref where
  p : Port
  r : RingN
  i : Nat
deriving DecidableEq, Repr

/-- What a write into host memory carries (01 R18), in the order of one commit point. -/
inductive HostKind where | data | reply | head | event | message
deriving DecidableEq, Repr

/-- One write into host memory. -/
structure HostWrite where
  kind : HostKind
  addr : Nat
  data : Bytes
  /-- The vector of an interrupt message. -/
  vec  : Option VecN := none
deriving DecidableEq, Repr

/-- The error messages of PCI Express (04 R121). -/
inductive ErrMsg where | cor | nonFatal | fatal
deriving DecidableEq, Repr

/-- The ordering attributes of a TLP (04 R102). -/
structure TlpAttr where
  ro  : Bool
  ns  : Bool
  ido : Bool
deriving DecidableEq, Repr

/-- The NVMe commands the device sends (09 Table 9-2), on member blocks of 4 KiB. Every one carries namespace 1, and
every read and write FUA = 1 and PRINFO = 0 (09 R264). -/
inductive MemberCmd where
  | read (block n : Nat)
  | write (block : Nat) (data : Bytes)
  | writeZeros (block n : Nat)
  | deallocate (block n : Nat)
  | flush
  | format
  | getLog
  | shutdown
  | controllerReset
deriving DecidableEq, Repr

/-- What the block sends on its links and pins (the model's own record, log entry 5). -/
inductive Out where
  | hostWrite (p : Port) (w : HostWrite) (attr : TlpAttr)
  | hostRead (p : Port) (addr len tag : Nat) (attr : TlpAttr)
  | intx (p : Port) (assert : Bool)
  /-- Snoop and no-snoop latency are the same; `req` is the Requirement bit of each. -/
  | ltr (p : Port) (value scale : Nat) (req : Bool)
  | errMsg (p : Port) (m : ErrMsg)
  | l1Request (p : Port)
  | unsupported (p : Port)
  | member (slot : SlotN) (c : MemberCmd)
  | memberAnswer (slot : SlotN) (unsupported : Bool)
  | memberAbort (slot : SlotN)
  /-- The bits of one data scan on TDO, first bit first. -/
  | tdo (bits : List Bool)
deriving DecidableEq, Repr

/-- Time and the frame (00 R10, 01 R17, 11 R366, 14 R445). -/
structure Clock where
  frame     : Nat
  phase     : Phase
  rtc       : Nat
  aonLost   : Bool
  /-- The orders of the current frame were cancelled at its commit point (12 R393). -/
  cancelled : Bool
deriving DecidableEq, Repr

/-- Supplies and straps (14 R437, R443, R445; 04 R99). -/
structure Supply where
  vin  : Bool
  vbat : Bool
  /-- VIN was reversed; a NOTE 0xF01 is due at the next release. -/
  vinReversed : Bool
  /-- VBAT was measured below −0.2 V at the last release (14 Table 14-10). -/
  vbatReversed : Bool
  strap : Bool
  grade : Grade
deriving DecidableEq, Repr

/-- A repair of a memory: block id, way (stripe cache only), and the row or column mapped to a spare (03 R73, R77). -/
structure Repair where
  id   : Nat
  way  : Nat
  col  : Bool
  line : Nat
deriving DecidableEq, Repr

/-- Fuses (11 R338, R339; 10 R304; 03 R71, R77; 06 R188). -/
structure Fuses where
  g : Bool
  b : Bool
  x : Bool
  deviceSeed : Bytes
  fleetSeed  : Bytes
  pk         : Bytes
  pkgKey     : Bytes
  seedFused  : Bool
  helper     : Bool
  pkgFused   : Bool
  sigRef     : List (Nat × W32)
  /-- The fuse-repair entries in use, at most 64 (03 R77). -/
  repairs    : List Repair
deriving DecidableEq, Repr

/-- An installed firmware image with its header (03, "Secure boot"). -/
structure FwImage where
  version : W32
  cmac    : BitVec 128
  data    : Bytes
deriving DecidableEq, Repr

/-- The firmware store (03, 06 R188). -/
structure FwStore where
  a : Option FwImage
  b : Option FwImage
  active : ImgSlot
  booted : ImgSlot
deriving DecidableEq, Repr

/-- The stages of Start (03 Table 3-1), with the two ends START_STAT.stage names. -/
inductive Stage where | h | s1 | s2 | s3 | s4 | s5 | s6 | s7 | s8 | released | halted
deriving DecidableEq, Repr

/-- Start (03). -/
structure StartSt where
  stage     : Stage
  takedown  : Bool
  halt      : Bool
  simplex   : Bool
  repaired  : Bool
  replayed  : Bool
  slotB     : Bool
  jpend     : Bool
  untested  : Bool
  status    : Status
  blk       : BitVec 8
  time      : W32
  soft      : Nat
  pages     : Nat
  rows      : Nat
  pend      : Nat
  windows   : Nat
  /-- A Service outcome was found (03 R72). -/
  service   : Bool
  /-- S5 has ended. -/
  s5        : Bool
  /-- S6 has ended (or is skipped). -/
  s6        : Bool
  failedUmber : Bool
  failedSlate : Bool
  failedPortA : Bool
  failedPortB : Bool
  parityOut0 : Bool
  parityOut1 : Bool
  memberBad  : BitVec 6
  /-- Later failures of the same Start, for the Start record (R90, R97). -/
  late       : List (Status × BitVec 8)
  /-- What START_WAYS and START_REPAIR show of this Start: the retired ways and the retired victim lines (R89). -/
  ways       : BitVec 16
  vict       : Nat
  /-- The slots that read present when S6 began (R83). -/
  s6Slots    : BitVec 6
  /-- Replay has read the journal and its redone windows are being written (08 R241). -/
  redo       : Bool := false
deriving DecidableEq, Repr

/-- A user of an always-on comparator (02 Table 2-9): user code, target in aon ticks (`none` while taken but not yet
started), vault object for user 3. -/
structure Acmp where
  user   : BitVec 4
  target : Option Nat
  obj    : Nat
deriving DecidableEq, Repr

/-- What a planned mode transition is for (02 Table 2-2). -/
inductive PlanKind where
  | plain
  | unlock
  | lock
  | service
  | leaveService
  | reset
  | activate (slot : ImgSlot)
  | lifecycle (target : Lifecycle)
  | startEnd
  | wake
deriving DecidableEq, Repr

/-- A planned mode transition (02 R40). -/
structure ModePlan where
  target : Mode
  kind   : PlanKind
  rank   : Nat
  cause  : BitVec 8
  src    : BitVec 4
  slot   : BitVec 3
  /-- F+0, the frame in whose Intake phase the trigger was observed. -/
  frame  : Nat
  ref    : Option Ref
  /-- Orders of taken I/O entries must complete first (Service entry). -/
  waitIo : Bool
deriving DecidableEq, Repr

/-- What last changed the array's condition, as MODE_CAUSE tells it (02 Table 2-6). -/
structure CondWhy where
  cause : Nat
  src   : Nat
  slot  : Nat
deriving DecidableEq, Repr

/-- The MODE block and the shared resources (02). -/
structure ModeSt where
  mode   : Mode
  prior  : Mode
  cond   : Cond
  resync : Bool
  ddeg   : Bool
  hard   : Bool
  pend   : Bool
  chg    : Bool
  wrej   : Bool
  cause  : BitVec 8
  src    : BitVec 4
  slot   : BitVec 3
  entry  : Nat
  drowseIdle : BitVec 16
  auxEn  : BitVec 10
  auxPin : BitVec 20
  auxOwn : Vector (BitVec 4) 4
  gpioOut : Bool
  gpioIn : Bool
  locate : BitVec 6
  acmp   : Vector (Option Acmp) 4
  lima   : BitVec 9
  limb   : BitVec 9
  plan   : Option ModePlan
  /-- The cause of the last change of the array's condition: a transition that comes in a later frame has it (02 R49). -/
  condWhy : CondWhy
  idleSince : Option Nat
  drowseFrom : Mode
  drowseFrame : Nat
  keyClear : List VolN
deriving DecidableEq, Repr

/-- Containment states (04 Table 4-11). -/
inductive CState where | run | freeze | hold | release
deriving DecidableEq, Repr

/-- An MSI-X table entry (04 R114). -/
structure MsixEntry where
  addr   : BitVec 64
  data   : W32
  masked : Bool
deriving DecidableEq, Repr

/-- Coalescing of one vector (04 R112). -/
structure Coal where
  count : BitVec 8
  time  : BitVec 12
deriving DecidableEq, Repr

/-- Causes counted for one vector since its last message, and the frame of the first of them (04 R112). -/
structure Causes where
  n     : Nat
  first : Nat
  urgent : Bool
deriving DecidableEq, Repr

/-- An event entry without its phase (05 Table 5-5). -/
structure Event where
  code   : BitVec 16
  ring   : BitVec 6
  status : Status
  tag    : BitVec 16
  index  : BitVec 12
  info   : W32
  frame  : Nat
  count  : Nat
deriving DecidableEq, Repr

/-- A prefetched entry; `bad` when it is taken as malformed with ENTRY_CHECK (05 R143). -/
structure Known where
  e   : Entry
  bad : Bool
  /-- An abort named it before it was taken (05 R156). -/
  aborted : Bool
deriving DecidableEq, Repr

/-- A block a command needs from the media: its volume and LBN, where it lies, and the ciphertext once it is there. -/
structure Item where
  vol  : VolN
  lbn  : Nat
  pos  : PosN
  d    : Nat
  data : Option Bytes
  lost : Bool
  /-- Its content was solved from the rest of its row. -/
  solved : Bool
  /-- The counter and the tag that its content as read failed (10 Table 10-3). -/
  retag  : Option (Nat × Bytes) := none
deriving DecidableEq, Repr

/-- How far a taken entry has come (06 R173, R174). -/
inductive EStage where
  | refetch                      -- a resume-retry: fetched again from host memory (05 R154)
  | retake                       -- fetched again, to be taken anew
  | waiting                      -- taken, not planned yet
  | param                        -- its parameter block is being read
  | hostData                     -- its write data is being read
  | engine (need : Nat)          -- waits for charges
  | room                         -- waits for journal room (08 R237, 10 R317)
  | journal                      -- its journal commit is not durable yet
  | destage                      -- waits for the retirement of its records
  | reads                        -- waits for member reads
  | commit                       -- its effect comes at the commit point of the frame (01 R18)
  | exec                         -- its PREP is released, EXEC follows
  | transition                   -- waits for its mode transition
  | superblock                   -- waits for superblock writes
  | drain                        -- waits for orders of its volume or buffer
  | confirm                      -- waits for the confirm window
  | reclaim                      -- waits for a buffer asked back
  | format                       -- waits for Format NVM
  | init                         -- waits for the data-area initialisation
  | validation                   -- a program is being validated
  | swap                         -- a program swap runs
  | selfTest                     -- its target is under test
  | dropped                      -- its ring is reset: it was discarded unexecuted (05 R155, R165)
  | finished                     -- has its status; done at the commit point
deriving DecidableEq, Repr

/-- An entry or chain taken from a ring and not yet passed by the head. -/
structure Taken where
  i         : Nat
  entries   : List Entry
  stage     : EStage
  frame     : Nat
  param     : Option Bytes
  data      : Bytes
  items     : List Item
  seqs      : List Nat
  status    : Status
  reply     : Bytes
  /-- A write-class order of it has been committed (05 R156). -/
  committed : Bool
  /-- Every order complete and the reply written (05 R147). -/
  done      : Bool
  /-- The confirm press this command needs has been made (11 R354). -/
  pressed   : Bool
  /-- The frame whose Dispatch phase sent its host-memory read. -/
  issued    : Option Nat
  /-- The volumes it acts on under the grants of its taking (01 R24, R25): for a FLUSH with all = 1 every readable one. -/
  vols      : List VolN
  /-- The port's effective grant on volume 0 when it was taken (01 R24, 02 Table 2-2). -/
  grant0    : Nat
  /-- The charge of a VAULT command has been planned (01 R28). -/
  charged   : Bool
  /-- A member write of its destage failed (06 R176). -/
  wfail     : Bool
  /-- The credential attempt it is has been counted (11 R340). -/
  counted   : Bool := false
  /-- The order in which entries were taken (01 R26). -/
  ord       : Nat
deriving DecidableEq, Repr

/-- QSTAT.state (05 Table 5-9). -/
inductive RState where | disabled | run | frozen | resetting
deriving DecidableEq, Repr

/-- A submission ring (05). -/
structure Ring where
  state  : RState
  base   : BitVec 64
  cfg    : W32
  poll   : W32
  /-- Entries passed since creation or reset, not reduced: head slot, phase and done count follow from it. -/
  passed : Nat
  errStatus : Status
  errIndex  : BitVec 12
  known  : List Known
  taken  : List Taken
  /-- The slot count that failed its check byte at the last fetch. -/
  badCheck : Option Nat
  poisonOnce : Bool
  k      : Nat
  nextPoll : Nat
  /-- The poll in flight: its slots, and the frame it was issued in (01 R19). -/
  polling : Option (Nat × Nat)
  credit : Nat
  /-- Entries an abort ended before they were taken, by their count (05 R156). -/
  gone   : List Nat
  /-- The frame at whose commit point an entry last became done (05 R155). -/
  doneAt : Nat
  /-- The head record last written: passed count and frozen bit. -/
  headPub : Option (Nat × Bool)
  deleting : Bool
  /-- Sequence number of the record of the open freeze (13 R410); 0 if none. -/
  freezeRec : Nat
deriving DecidableEq, Repr

/-- The writable fields of configuration space (04 R103 to R106, R116, R117, Table 4-3), AER's status apart; the subsystem
IDs are those of this Start (R104). -/
structure CfgSpace where
  mse : Bool
  bme : Bool
  perr : Bool
  serr : Bool
  intxDis : Bool
  bar0 : BitVec 64
  intLine : BitVec 8
  errRep : BitVec 4
  mps : BitVec 3
  mrrs : BitVec 3
  extTag : Bool
  /-- Enable Relaxed Ordering, Enable No Snoop, IDO Request and Completion Enable: they change no TLP (R102). -/
  roEn : Bool
  nsEn : Bool
  idoReq : Bool
  idoCpl : Bool
  cto : BitVec 4
  ltrEn : Bool
  aspmL1 : Bool
  /-- The other writable bits of Link Control. -/
  linkCtl : BitVec 16
  /-- The lane margining control of lanes 0 to 3 (R105). -/
  margin : Vector (BitVec 16) 4
  maxSnoop : BitVec 16
  maxNoSnoop : BitVec 16
  l11En : Bool
  l12En : Bool
  /-- LTR_L1.2_THRESHOLD: value [9:0], scale [12:10]. -/
  l12Thr : BitVec 13
  uncMask : W32
  uncSev : W32
  corMask : W32
  ecrcGen : Bool
  ecrcChk : Bool
  msixEn : Bool
  funcMask : Bool
  subVendor : BitVec 16
  subId : BitVec 16
deriving DecidableEq, Repr

/-- What a read of host memory is for (04 R110): a poll of a ring, or an entry's parameter block or data. -/
inductive ReadOwner where
  | poll (r : RingN)
  | entry (ref : Ref)
deriving DecidableEq, Repr

/-- One read request of a port: outstanding with its tag, or waiting for one (04 R110). -/
structure HostReq where
  owner : ReadOwner
  addr  : Nat
  len   : Nat
  tag   : Option Nat
deriving DecidableEq, Repr

/-- A host port (04, 05). -/
structure PortSt where
  phy    : Bool
  perst  : Bool
  linkUp : Bool
  refclk : Bool
  /-- Negotiated speed (1 to 4: 2.5 to 16.0 GT/s) and width (R101); 0 while the link is down. -/
  linkSpeed : BitVec 4
  linkWidth : BitVec 6
  l1     : Bool
  l11    : Bool
  l12    : Bool
  crs    : Bool
  cfg    : CfgSpace
  aerUnc : W32
  aerCor : W32
  aerHdr : List W32
  /-- The TLP prefix log, the First Error Pointer, the error bits of Device Status and of Status (R101, R103, R121). -/
  aerPfx : List W32
  firstErr : BitVec 5
  devStat : BitVec 4
  pciStat : BitVec 16
  cstate : CState
  ccause : BitVec 8
  ccount : BitVec 16
  contFrame : Nat
  /-- The containment record of the open handling (13 R410). -/
  contSeq : Nat
  /-- The frame in whose Intake phase a contained port was seen to have no order in flight (R122). -/
  quietAt : Option Nat
  relReq : Option (Nat × Option Ref)
  wrej   : Bool
  d3     : Bool
  d3Pend : Bool
  ordLimit : BitVec 8
  pwrIdle : BitVec 8
  ltr    : BitVec 2
  ltrFrame : Option Nat
  busyFrame : Option Nat
  /-- The frame in which a TLP last passed (R117). -/
  lastTlp : Option Nat
  /-- The frame whose Intake phase observed Bus Master Enable set (R465). -/
  bmeSince : Option Nat
  /-- Read requests, outstanding and waiting, oldest first (R110). -/
  reads  : List HostReq
  intStat : W32
  intMask : W32
  coal   : Vector Coal 32
  /-- The coalescing values the frame's check uses (R131). -/
  coalNow : Vector Coal 32
  causes : Vector Causes 32
  intx   : Bool
  msix   : Vector MsixEntry 32
  pba    : W32
  withheld : List HostWrite
  qwrej  : Bool
  headBase : BitVec 64
  qback  : W32
  evBase : BitVec 64
  evCfg  : W32
  evDoneIdx : BitVec 12
  evDonePhase : Bool
  /-- Event entries written since the event ring was enabled. -/
  evWritten : Nat
  evLost : BitVec 16
  evLostPend : Nat
  /-- Events waiting for the event ring, oldest first (05 R159). -/
  evWait : List Event
  /-- The frame in which an event entry last raised its cause (05 R160). -/
  evCause : Option Nat
  rings  : Vector Ring 64
  rrPtr  : Nat
  vote   : Bool
  misuse : BitVec 16
deriving DecidableEq, Repr

/-- State of a position in the superblock (09 Table 9-4). -/
inductive PState where | current | missing | rebuildTarget | resyncTarget
deriving DecidableEq, Repr

/-- A position entry of the superblock. -/
structure PEntry where
  state  : PState
  slot   : SlotN
  lostAg : Nat
  serial : Bytes
deriving DecidableEq, Repr

/-- Superblock rebuild kind. -/
inductive RbKind where | none | rebuild | resync
deriving DecidableEq, Repr

/-- A volume entry (09 Table 9-4, 10 Table 10-3). -/
structure Volume where
  present : Bool
  isSealed : Bool
  base    : Nat
  size    : Nat
  key     : Fin 64
  grantA  : BitVec 2
  grantB  : BitVec 2
  wrap    : Bytes
  stale   : Bool
  deleting : Bool
deriving DecidableEq, Repr

/-- The rekey record (10 R327). -/
structure RekeyRec where
  vol   : VolN
  state : Nat
  b     : Nat
  wrap  : Bytes
deriving DecidableEq, Repr

/-- The array as the current superblock view gives it (09 Table 9-4, R273). -/
structure ArraySt where
  uuid   : BitVec 128
  ag     : Nat
  n      : Nat
  layout : Nat
  su     : Nat
  dsz    : Nat
  ptab   : Vector PEntry 6
  rbKind : RbKind
  rbTarget : PosN
  queued : Option PosN
  w      : Nat
  qw     : Nat
  scRow  : Nat
  scPasses : Nat
  mkeyFormat : Nat
  home   : Bytes
  fleet  : Bytes
  rekey  : RekeyRec
  vtab   : Vector Volume 64
  pgen   : Nat
  prog   : List W36
deriving DecidableEq, Repr

/-- A valid superblock copy: its generation, the member's position and the view it carries. -/
structure Superblock where
  sgen : Nat
  pos  : PosN
  view : ArraySt
deriving DecidableEq, Repr

/-- Slot states (09 Table 9-3). -/
inductive SlotState where
  | empty | bringup | member | spare | foreign | unsuitable | failed | detached | powerFault
deriving DecidableEq, Repr

/-- A running recovery ladder (09 R464). -/
structure Ladder where
  rung : Nat
  /-- It began with a surprise link-down. -/
  link : Bool
deriving DecidableEq, Repr

/-- A slot's power-down (09 R269): the step reached, and the frame from which the next one may be; `none` until the commit
point spaces it. -/
structure PowerDown where
  step : Nat
  due  : Option Nat
deriving DecidableEq, Repr

/-- A member slot (09, 14). -/
structure SlotSt where
  state   : SlotState
  present : Bool
  rail    : Bool
  /-- Current limit in steps of 0.25 A; 0 while the rail is off. -/
  limit   : Nat
  perst   : Bool
  refclk  : Bool
  step    : Nat
  /-- The frame in which the bring-up step began. -/
  since   : Nat
  /-- Bring-up has begun and its rail is not yet on: the frame that is to switch it on, once the commit point has spaced it
  (09 R267). -/
  starting : Option (Option Nat)
  retried : Bool
  waiting : Bool
  drive   : Option DriveId
  sb      : Option Superblock
  sgen    : Nat
  ladder  : Option Ladder
  rungs   : List Nat
  ures    : List Nat
  errs    : List Nat
  smart   : BitVec 8
  pd      : Option PowerDown
  format  : Bool
deriving DecidableEq, Repr

/-- A key-table slot (10 R304, R308). -/
structure VolKeys where
  xts1 : Bytes
  xts2 : Bytes
  tag  : Bytes
  tree : Bytes
deriving DecidableEq, Repr

/-- The key-table controller (10 R308, R310). -/
structure KeySt where
  prim   : Vector (Option VolKeys) 64
  shadow : Vector (Option VolKeys) 64
  amk    : Option Bytes
  /-- AMK unwrapped by a credential check whose transition has not taken effect yet. -/
  staged : Option Bytes
  jnk    : Bool
  buk    : Option Bytes
deriving DecidableEq, Repr

/-- A tag-log entry (10 R317). -/
structure TagEnt where
  line  : Nat
  seq   : Nat
  vol   : VolN
  lbn   : Nat
  ctr   : Nat
  tag   : Bytes
  frame : Nat
deriving DecidableEq, Repr

/-- A verified node in the metadata cache (10 R320). -/
structure Node where
  vol   : VolN
  level : Nat
  x     : Nat
  data  : Bytes
deriving DecidableEq, Repr

/-- A running fold (10 R318): the entries it folds, and the root it replaces. -/
structure Fold where
  vol    : VolN
  seqs   : List Nat
  old    : Nat × Bytes
deriving DecidableEq, Repr

/-- Sealed volumes (10). -/
structure SealSt where
  tagLog   : List TagEnt
  head     : Nat
  tail     : Nat
  nodes    : List Node
  lastFold : List (VolN × Nat)
  folding  : List Fold
  /-- Bit v: the root of volume v in force is the one in bank B (10 R322). -/
  bankB    : BitVec 64
deriving DecidableEq, Repr

/-- Intent-record types (08 Table 8-2). -/
inductive RecType where | write | dealloc | row | rowDone | solved
deriving DecidableEq, Repr

/-- An intent record (08 Table 8-2). `b0`, `slot`, `positions` and `dirty` share the words the type gives them. -/
structure IntentRec where
  seq   : Nat
  type  : RecType
  vol   : VolN
  isSealed : Bool
  through : Bool
  count : Nat
  at_   : Nat
  slot  : Nat
  b0    : Nat
  positions : BitVec 6
  dirty : BitVec 6
  frame : Nat
  /-- The port whose entry wrote it, which its destage is charged to (01 R28); none for the device's own. -/
  port  : Option Port
  /-- Its commit is durable. -/
  durable : Bool
  /-- Offsets of its blocks that an ended shift has written, or that take no further part (08 R240, R242). -/
  done  : List Nat
deriving DecidableEq, Repr

/-- Whose work waits for a journal commit. -/
inductive JOwner where
  | none
  | entry (ref : Ref)
  | row (shift : Nat)
  | solved (shift : Nat)
  | fold (v : VolN) (version : Nat) (mac : Bytes)
  | rekey
  | rekeyDone
  | log (seqs : List Nat)
deriving DecidableEq, Repr

/-- A journal commit released and not yet durable (08 R236): its writes in order. -/
structure JCommit where
  writes : List (Nat × Bytes)
  owner  : JOwner
  /-- The frame whose commit point released it (01 R19). -/
  frame  : Nat
deriving DecidableEq, Repr

/-- The write-intent bitmap (09 R277): log2 G, active, the ag at which marking began, and the marked bits. -/
structure Bitmap where
  g      : Nat
  active : Bool
  ag     : Nat
  bits   : List Nat
deriving DecidableEq, Repr

/-- An entry of the lost-unit map (09 R279): row, position, and the block positions that hold good content. -/
structure LostUnit where
  row  : Nat
  pos  : PosN
  good : List Nat
deriving DecidableEq, Repr

/-- The journal (08). -/
structure JnlSt where
  mem      : Memory
  bitmap   : Bitmap
  lost     : List LostUnit
  rootCtr  : Vector Nat 8
  commitNo : Nat
  inflight : List JCommit
  nextSeq  : Nat
  oldest   : Nat
  wcHead   : Nat
  /-- Slots in use. -/
  wcUsed   : Nat
  ctlGen   : Nat
  recs     : List IntentRec
  /-- Rows mapped to a spare; these repairs last (03 R94). -/
  spares   : List Nat
  /-- Lines that fail their MAC check: of rows whose content is lost (03 R75), and of a commit that VIN loss cut short (08
  R241). A line written again passes. -/
  badLines : List Nat
  /-- An entry waits under R237. -/
  full     : Bool
deriving DecidableEq, Repr

/-- A stripe-cache line (08 Table 8-3). -/
structure CLine where
  set  : Nat
  way  : Nat
  pos  : PosN
  d    : Nat
  key  : Fin 64
  sv   : BitVec 4
  sd   : BitVec 4
  lock : Bool
  data : Bytes
deriving DecidableEq, Repr

/-- The stripe cache and the CACHE block (08). `lines` stands most recently used first; `victim` oldest first. -/
structure CacheSt where
  lines   : List CLine
  victim  : List CLine
  cmask   : Vector (BitVec 16) 6
  /-- Masks written this frame, in force from the next (08 R253). -/
  cmaskNext : List (ClassN × BitVec 16)
  wayRet  : BitVec 16
  wayErr  : Vector Nat 16
  corr    : BitVec 16
  unc     : BitVec 16
  tpar    : BitVec 16
  victRet : Nat
  victDis : Bool
  /-- The stripe cache, the victim cache, is under test: nothing is placed in it (03 Table 3-8). -/
  fenced  : Bool
  victFenced : Bool
  wrej    : Bool
deriving DecidableEq, Repr

/-- Who holds a shared-pool buffer (02 R57, 06 R192). -/
inductive BufOwner where
  | free
  | taken (p : Port)      -- its PREP took it
  | held (p : Port)
  | freeing (p : Port)    -- pending free
  | engine (e : Engine)
  | releasing (e : Engine)
deriving DecidableEq, Repr

/-- A shared-pool buffer. -/
structure Buf where
  owner : BufOwner
  gen   : BitVec 15
deriving DecidableEq, Repr

/-- The staging region (02, 06). `bufs` are the shared-pool buffers 128 to 511. -/
structure StagingSt where
  mem  : Memory
  bufs : Vector Buf 384
deriving DecidableEq, Repr

/-- Bulk memory beside its staging region (01 Table 1-3): the 64 KiB pages the memory test retired (03 R76), and the read
cache, whose blocks stand newest first. -/
structure BulkSt where
  bad   : List Nat
  reads : List (PosN × Nat × Bytes)
deriving DecidableEq, Repr

/-- The role of a lane (07, "The layout sequencer"). -/
inductive Role where | data (j : Nat) | red (a : Nat) | none
deriving DecidableEq, Repr

/-- A descriptor: the roles of lanes L0 to L(n-1) and the coefficient vectors of A0 and A1 (07). -/
structure Descriptor where
  lanes : List Role
  c0    : List Byte
  c1    : List Byte
deriving DecidableEq, Repr

/-- How far a swap is (07 R223). -/
inductive SwapStep where | verify | drain | persist | activate
deriving DecidableEq, Repr

/-- A LAYOUT_SWAP in progress. -/
structure Swap where
  bank  : Bool
  force : Bool
  ref   : Ref
  step  : SwapStep
  frame : Nat
deriving DecidableEq, Repr

/-- The layout sequencer (07). -/
structure SeqSt where
  bank0  : List W36
  bank1  : List W36
  active : Option Bool
  table  : List Descriptor
  load   : Option (Bool × Ref)
  swap   : Option Swap
  hold   : Bool
deriving DecidableEq, Repr

/-- Shift purposes (07 Table 7-6). -/
inductive Purpose where | destage | recon | rebuild | resync | check
deriving DecidableEq, Repr

/-- How far a shift is (07 R217, 08 R239). -/
inductive ShStep where | reads | compute | record | writes | aborted
deriving DecidableEq, Repr

/-- A unit's window as a shift holds it: the position, and one block for each block position (`none`: not obtained). -/
structure UnitWin where
  pos    : PosN
  blocks : List (Option Bytes)
deriving DecidableEq, Repr

/-- A shift (07 R217). -/
structure Shift where
  id      : Nat
  purpose : Purpose
  row     : Nat
  b0      : Nat
  w       : Nat
  bank    : Bool
  desc    : Descriptor
  /-- S, the dirty data units, with the new content of each block position (none: that block is not dirty). -/
  dirty   : List (Nat × List (Option Bytes))
  rmw     : Bool
  /-- Positions that were unavailable at evaluation or whose read failed. -/
  out     : List PosN
  wait    : List PosN
  got     : List UnitWin
  step    : ShStep
  /-- The newest record of the journal when the shift took its content. -/
  seq     : Nat
  rowDurable : Bool
  solvedWait : Bool
  written : List PosN
  writesLeft : Nat
  released : Bool
  unrecoverable : Bool
  party   : Option Port
  /-- Charges still to be planned for its compute (01 R28). -/
  need    : Nat
  /-- The frame at whose commit point it ends, once its last write is observed or it has none (R217). -/
  endAt   : Nat
  /-- A member write of it failed (06 R176). -/
  failed  : Bool
  /-- The frame in which the durable completion of its ROW record was observed (08 R239). -/
  rowAt   : Nat := 0
  /-- Blocks of a failed read that have been read again by themselves: position, block of the window, content. -/
  parts   : List (PosN × Nat × Option Bytes) := []
deriving DecidableEq, Repr

/-- Why a member command was sent. -/
inductive MOwner where
  | none
  | item (ref : Ref) (k : Nat)
  | shift (id : Nat) (pos : PosN)
  | part (id : Nat) (pos : PosN) (i : Nat)  -- a block of a shift's failed read, read again by itself (09 Table 9-6)
  | superblock
  | init
  | redo                         -- a window that replay rewrites (08 R242)
deriving DecidableEq, Repr

/-- A member command in flight. -/
structure MOrder where
  id    : Nat
  slot  : SlotN
  cmd   : MemberCmd
  owner : MOwner
  retried : Bool
  held  : Bool
  /-- The frame in which it went out (01 R19); none while its Dispatch phase is still to come. -/
  sent  : Option Nat
deriving DecidableEq, Repr

/-- What takes effect when a superblock update is complete (09 R271). -/
inductive SbEffect where
  | none
  | reply (ref : Ref)
  | volumeCreate (ref : Ref) (v : VolN) (vol : Volume) (keys : VolKeys)
  | volumeDelete (ref : Ref) (v : VolN)
  | rekeyStart (ref : Ref) (v : VolN) (keys : VolKeys) (wrap : Bytes)
  | rekeyEnd (v : VolN)
  | swap
  | creds (ref : Ref) (home fleet : Bytes)
  | adopt (ref : Ref) (home : Bytes) (roots : List (VolN × Nat × Bytes))
  | arrayCreate (ref : Ref) (view : ArraySt)
deriving DecidableEq, Repr

/-- A superblock update in progress. -/
structure SbUpdate where
  effect : SbEffect
deriving DecidableEq, Repr

/-- A background engine (09 R283, R290; 10 R328). -/
structure EngSt where
  running : Bool
  paused  : Bool
  /-- Halts at its next boundary. -/
  stop    : Bool
  /-- Next block position of the row (rebuild, resync) . -/
  next    : Nat
  /-- Buffers asked back (02 R57). -/
  asked   : Nat
  /-- The command to complete when the engine stops. -/
  ref     : Option Ref
deriving DecidableEq, Repr

/-- The rekey engine (10 R327 to R332). -/
structure RekeySt where
  running : Bool
  paused  : Bool
  vol     : VolN
  b       : Nat
  /-- A step is between its first order and the advance of B. -/
  inStep  : Bool
  /-- Its blocks: the old ciphertext, then, once the commit is planned, the new. -/
  moved   : List (Nat × Bytes)
  /-- Charges still to be planned for it, and whether its commit is planned. -/
  need    : Nat
  sent    : Bool
  asked   : Nat
  /-- The blocks are decrypted, and their encryption is planned; their new counters (10 R328). -/
  encrypts : Bool
  ctrs    : List Nat
deriving DecidableEq, Repr

/-- The background engines. -/
structure EngSts where
  rebuild : EngSt
  scrub   : EngSt
  rekey   : RekeySt
  /-- Resync targets whose return led the array out of Salvage (09 R288). -/
  back    : List PosN
deriving DecidableEq, Repr

/-- A vault object in the index (11 R344). -/
structure VaultObj where
  id     : Nat
  len    : Nat
  policy : W32
deriving DecidableEq, Repr

/-- The vault index. -/
structure VaultSt where
  index  : List VaultObj
  loaded : Bool
deriving DecidableEq, Repr

/-- The open confirm window (11 R354). -/
structure Cwin where
  ref      : Ref
  target   : Nat
  released : Bool
deriving DecidableEq, Repr

/-- The SEC block (11). -/
structure SecSt where
  latch   : Bool
  first   : BitVec 8
  seen    : BitVec 9
  latchRtc : Nat
  /-- The frame in which the latch was set (R356). -/
  latchFrame : Option Nat
  tampCfg : BitVec 18
  lidCfg  : BitVec 8
  confDisc : BitVec 9
  confWin : BitVec 8
  discLid : BitVec 16
  discConf : BitVec 16
  chan    : BitVec 8
  lflt    : Bool
  cflt    : Bool
  /-- The frames in which the two fault bits were last set (00 R14). -/
  lfltAt  : Nat
  cfltAt  : Nat
  wrej    : Bool
  cwin    : Option Cwin
  /-- A faulted button run still lasts. -/
  confRun : Bool
  record  : Nat
deriving DecidableEq, Repr

/-- A log record (13 Table 13-3). -/
structure LogRec where
  seq    : Nat
  frame  : Nat
  type   : BitVec 12
  cls    : BitVec 3
  level  : BitVec 3
  src    : BitVec 3
  ring   : BitVec 6
  slot   : BitVec 3
  cx     : Bool
  status : Status
  tag    : BitVec 16
  count  : Nat
  rtc    : Nat
  payload : List Nat
  adds   : Nat
deriving DecidableEq, Repr

/-- The event log and its intake (13 R415 to R418). `written` are the intake records whose writes are released. -/
structure LogSt where
  next     : Nat
  started  : Bool
  raised   : List LogRec
  general  : List LogRec
  reserved : List LogRec
  written  : List Nat
  durable  : List Nat
  drop     : Vector Nat 8
  total    : BitVec 16
  last     : BitVec 3
  /-- Records are held in the intake: from zeroisation until JNK is derived again, or after a hard wipe. -/
  held     : Bool
  wiped    : Bool
deriving DecidableEq, Repr

/-- The ERR block and error handling (13). -/
structure ErrSt where
  first  : BitVec 8
  second : BitVec 8
  added  : BitVec 8
  arr    : BitVec 16
  addedAll : BitVec 16
  dbl    : Bool
  dev    : Bool
  wrej   : Bool
  /-- A device-level handling (a tamper response counts) is open (13 R412). -/
  opened : Bool
  record : Nat
  /-- An array-level handling is open, and the record of its first error. -/
  arrOpen : Bool
  arrRec : Nat
  /-- The code of the open device-level handling, shown by ERR_DEV once Lockdown takes effect (13 R411). -/
  pendCode : BitVec 8
deriving DecidableEq, Repr

/-- Freeze and capture (13 R419 to R425). -/
structure FrzSt where
  armed  : Bool
  trig   : BitVec 2
  mtch   : BitVec 20
  pin    : Bool
  /-- A trigger was observed: its code (Table 13-7) and frame F. -/
  trigger : Option (BitVec 3 × Nat)
  modeAt : Mode
  ready  : Bool
  pos    : Nat
  capDat : Bool
  /-- The real-time counter when Freeze was entered. -/
  rtcAt  : Nat
  /-- A tamper trip in Freeze has stopped the capture port. -/
  stopped : Bool
  /-- Selects the image's free bytes (log entry 6). -/
  seed   : Nat
deriving DecidableEq, Repr

/-- States of a complex (12 Table 12-1). -/
inductive CxState where | off | reload | copy | probation | twin | sole
deriving DecidableEq, Repr

/-- The complexes, the token and the HLTH block (12). -/
structure CxSt where
  umber  : CxState
  slate  : CxState
  holder : Option Cx
  /-- The holder HLTH_STAT.holder last named. -/
  last   : Cx
  epoch  : BitVec 16
  expiry : Nat
  lease  : BitVec 8
  pref   : Cx
  take   : BitVec 8
  hand   : BitVec 8
  div    : BitVec 8
  leave  : BitVec 8
  /-- End of the suspect state, while it lasts. -/
  susp   : Option Nat
  /-- How often each complex has left TWIN since Start; from 4 on, or where its reload was refused, it stays OFF (R395). -/
  umberLeft : Nat
  slateLeft : Nat
  /-- The firmware image in each complex's tightly coupled memory (03 R79, R80). -/
  umberTcm : Bytes
  slateTcm : Bytes
  clean  : Nat
  /-- The complex that wrote the last report; Umber at reset (12 Table 12-11). -/
  rptWho : Cx
  rptFrame : Nat
  rptPass : Bool
  rptStep : Nat
  rptCorr : BitVec 8
  rptOvr : BitVec 8
  /-- A handover PREP has been released: no new PREP is planned (R390). -/
  handing : Bool
  /-- The frame from whose commit point on a vacant token may be claimed (R387). -/
  vacant : Nat
  /-- The recovering complex has its state; its firmware data is being copied (R395). -/
  copied : Bool
  /-- The state words of the tightly coupled memory as the holder has them, by address (R391), and how many of the 32 768
  the recovering complex has received (R395). -/
  words  : List (BitVec 16 × BitVec 36)
  copyAt : Nat
  flim   : Bool
  /-- From frame 0xF_FFF0_0000 on: no ring entry is taken (R400). -/
  ftake  : Bool
  fstop  : Bool
  wrej   : Bool
deriving DecidableEq, Repr

/-- A block with a write-rejection flag. -/
inductive RegBlock where | port | mode | qreg | err | cache | sec | hlth
deriving DecidableEq, Repr

/-- What a management command changes at the commit point of the frame it is planned in (01 R18). -/
inductive CommitAct where
  | queueCreate (r : RingN) (base : Nat) (cfg poll : W32)
  | queueModify (r : RingN) (cfg poll : W32)
  | queueOp (r : RingN) (op : Nat) (delete : Bool)
  | abort (r : RingN) (all : Bool) (tag : BitVec 16)
  | gpioOut (level : Bool)
  | locate (slot : SlotN) (on : Bool)
  | takeCool (id : Nat)
  | setAlarm (user : BitVec 4) (delay : Nat)
  | cancelAlarm (user : BitVec 4)
  | countAttempt
  | failedAttempt
  | credsDone
  | clearLatch
  | invalidate
  | install (slot : ImgSlot) (image : FwImage)
  | setMask (c : ClassN) (mask : BitVec 16)
deriving DecidableEq, Repr

/-- The write-class and read-class orders a frame plans (01 R18, 12). -/
inductive Order where
  | reg (p : Port) (offset : Nat) (v : W32)
  | wrej (p : Port) (b : RegBlock)
  | host (p : Port) (w : HostWrite)
  | member (o : MOrder)
  | journal (c : JCommit)
  /-- A PowerState write back to D0 (00 R8, 04 R118). -/
  | d0 (p : Port)
  | act (ref : Ref) (a : CommitAct)
  /-- The root a volume had before a fold that failed, with a commit number (10 R318). -/
  | rootBack (v : VolN) (version : Nat) (mac : Bytes) (commit : Nat)
deriving DecidableEq, Repr

/-- A host's write that came after the frame's Intake phase: the next one observes it (00 R8, 01 Table 1-2). -/
inductive HostAct where
  | reg (p : Port) (offset : Nat) (v : W32)
  | power (p : Port) (d3 : Bool)
deriving DecidableEq, Repr

/-- What the EXEC of a privileged action does (12 Table 12-4). -/
inductive PrivAct where
  | bufAlloc (ref : Ref) (idx : Nat)
  | bufFree (ref : Ref) (idx : Nat)
  | engineFree (e : Engine) (idxs : List Nat)
  | grant (ref : Ref) (v : VolN) (port : Port) (level : BitVec 2)
  | identity (ref : Ref) (w : W32)
  | hlthCfg (v : W32)
  | handover
  | attach (ref : Ref) (slot : SlotN)
  | detach (ref : Ref) (slot : SlotN)
  | credSet (ref : Ref) (home fleet : Bytes)
  | shares (ref : Ref) (w : W32)
  | split (ref : Ref) (w : W32)
  | replace (ref : Ref) (slot : SlotN) (pos : PosN)
  | superblock (e : SbEffect)
deriving DecidableEq, Repr

/-- A privileged action between its PREP and its EXEC (12 R384). -/
structure Priv where
  act   : PrivAct
  frame : Nat
  epoch : BitVec 16
  cx    : Option Cx
  /-- A reset of its port took its entry; it completes internally (04 R119). -/
  orphan : Bool
deriving DecidableEq, Repr

/-- What an order is for, as its tag tells it (12 R378, R384): a write-class order of the frame, a member command or an
entry's host read that the Dispatch phase sends, or a phase of a privileged action. -/
inductive Issued where
  | order (o : Order)
  | member (o : MOrder)
  | hostRead (f : Ref)
  | prep (a : PrivAct)
  | exec (a : PrivAct)
deriving DecidableEq, Repr

end Sys2Proof.Machine

namespace Sys2Proof

/-- The 64-byte body of an order: 12 R378 says what it contains and no rule lays it out (log entry 14). -/
opaque Config.orderBody : Machine.Issued → Bytes

end Sys2Proof

namespace Sys2Proof.Machine

/-- The tag of an order (12 Table 12-2), as the holder sends it; its twin's copy differs in `cx` alone. -/
structure OrderTag where
  frame  : BitVec 20
  index  : BitVec 8
  cx     : Cx
  wc     : Bool
  priv   : Bool
  digest : W32
deriving DecidableEq, Repr

/-- A commit marker (12 R379). -/
structure Marker where
  frame  : BitVec 20
  count  : Nat
  digest : W32
deriving DecidableEq, Repr

/-- The frame state record (12 Table 12-7) before its CRC: frame counter, epoch, holder, inputs digest, delta pairs. -/
structure FrameRecord where
  frame  : Nat
  epoch  : BitVec 16
  holder : Cx
  inputs : W32
  pairs  : List (BitVec 16 × BitVec 36)
deriving DecidableEq, Repr

/-- The orders of the frame (12). -/
structure GateSt where
  orders : List Order
  /-- The tags of the orders issued in this frame, in index order (R378). -/
  tags   : List OrderTag
  /-- The marker of the last commit point (R379). -/
  marker : Option Marker
  /-- The digest of this frame's Intake inputs, the last frame state record sent, and changed words that wait for the next
  one (R391, R392). -/
  inputs : W32
  record : Option FrameRecord
  delta  : List (BitVec 16 × BitVec 36)
  /-- Host writes the next Intake phase observes. -/
  late   : List HostAct
  priv   : List Priv
  /-- Charges planned this frame for port A, port B and the background engines (01 R28, 09 R285). -/
  spentA : Nat
  spentB : Nat
  spentRb : Nat
  spentRk : Nat
  spentSc : Nat
  /-- ag has risen since the last commit point (09 R272). -/
  agUp : Bool
  nextId : Nat
deriving DecidableEq, Repr

/-- A self-test running in Service (03 R92). -/
structure Test where
  id     : Nat
  repair : Bool
  ref    : Ref
  /-- The complex that is taken out of TWIN for it. -/
  cx     : Option Cx
  /-- Its duration. -/
  frames : Nat
deriving DecidableEq, Repr

/-- The whole block. -/
structure State where
  pending : List Instr
  out     : List Out
  free    : Nat
  clock   : Clock
  supply  : Supply
  fuse    : Fuses
  root    : Memory
  fw      : FwStore
  start   : StartSt
  mode    : ModeSt
  portA   : PortSt
  portB   : PortSt
  array   : Option ArraySt
  slots   : Vector SlotSt 6
  keys    : KeySt
  tags    : SealSt
  jnl     : JnlSt
  cache   : CacheSt
  staging : StagingSt
  bulk    : BulkSt
  seq     : SeqSt
  shifts  : List Shift
  morders : List MOrder
  sbq     : List SbUpdate
  eng     : EngSts
  vault   : VaultSt
  sec     : SecSt
  log     : LogSt
  err     : ErrSt
  frz     : FrzSt
  cx      : CxSt
  gate    : GateSt
  test    : Option Test
  scanIr  : BitVec 8
  /-- The boundary register (14 R450): its shift stage, and the values its cells hold for EXTEST and CLAMP. -/
  scanCells : BitVec 58
  scanHold  : BitVec 58
deriving DecidableEq, Repr

/-- An idle ring at its reset values (05 Table 5-8): weight 1, burst 1, poll interval 1. -/
def Ring.init : Ring :=
  { state := .disabled, base := 0, cfg := 0x2020, poll := 1, passed := 0, errStatus := 0, errIndex := 0, known := [],
    taken := [], badCheck := none, poisonOnce := false, k := 0, nextPoll := 0, polling := none, credit := 0,
    headPub := none, deleting := false, freezeRec := 0, gone := [], doneAt := 0 }

/-- Configuration space at its reset values (04 R103, R105); Max_Read_Request_Size 512 B is PRESUMED (log entry 12). -/
def CfgSpace.init (vendor id : BitVec 16) : CfgSpace :=
  { mse := false, bme := false, perr := false, serr := false, intxDis := false, bar0 := 4, intLine := 0, errRep := 0,
    mps := 0, mrrs := 2, extTag := false, roEn := false, nsEn := false, idoReq := false, idoCpl := false, cto := 0, ltrEn := false, aspmL1 := false, linkCtl := 0, margin := Vector.replicate 4 0x9C38, maxSnoop := 0, maxNoSnoop := 0,
    l11En := false, l12En := false, l12Thr := 0, uncMask := 0x00400000, uncSev := 0x00462030, corMask := 0x00006000,
    ecrcGen := false, ecrcChk := false, msixEn := false, funcMask := false, subVendor := vendor, subId := id }

/-- An MSI-X entry at reset: masked (04 R114). -/
def MsixEntry.init : MsixEntry := { addr := 0, data := 0, masked := true }

/-- A host port at reset (04, 05). -/
def PortSt.init : PortSt :=
  { phy := false, perst := true, linkUp := false, refclk := false, linkSpeed := 0, linkWidth := 0, l1 := false, l11 := false,
    l12 := false, crs := false,
    cfg := CfgSpace.init 0x1D9B 0x0636, aerUnc := 0, aerCor := 0, aerHdr := [], aerPfx := [], firstErr := 0,
    devStat := 0, pciStat := 0, cstate := .run, ccause := 0,
    ccount := 0, contFrame := 0, contSeq := 0, quietAt := none, relReq := none, wrej := false, d3 := false, d3Pend := false,
    ordLimit := 128, pwrIdle := 8, ltr := 0, ltrFrame := none, busyFrame := none, lastTlp := none,
    bmeSince := none, reads := [], intStat := 0,
    intMask := 0, coal := Vector.replicate 32 { count := 1, time := 0 },
    coalNow := Vector.replicate 32 { count := 1, time := 0 },
    causes := Vector.replicate 32 { n := 0, first := 0, urgent := false }, intx := false,
    msix := Vector.replicate 32 MsixEntry.init, pba := 0, withheld := [], qwrej := false, headBase := 0,
    qback := 0x80010010, evBase := 0, evCfg := 0, evDoneIdx := 0, evDonePhase := true, evWritten := 0, evLost := 0,
    evLostPend := 0, evWait := [], evCause := none, rings := Vector.replicate 64 Ring.init, rrPtr := 1, vote := false,
    misuse := 0 }

/-- An empty slot (09 Table 9-3). -/
def SlotSt.init : SlotSt :=
  { state := .empty, present := false, rail := false, limit := 0, perst := true, refclk := false, step := 0,
    since := 0, starting := none, retried := false, waiting := false, drive := none, sb := none, sgen := 0, ladder := none,
    rungs := [], ures := [], errs := [], smart := 0, pd := none, format := false }

/-- START registers and the outcomes found, at F0 (03 Table 3-6). -/
def StartSt.init : StartSt :=
  { stage := .s1, takedown := false, halt := false, simplex := false, repaired := false, replayed := false,
    slotB := false, jpend := false, untested := false, status := 0, blk := 0, time := 0, soft := 0, pages := 0,
    rows := 0, pend := 0, windows := 0, service := false, s5 := false, s6 := false, failedUmber := false,
    failedSlate := false, failedPortA := false, failedPortB := false, parityOut0 := false, parityOut1 := false,
    memberBad := 0, late := [], ways := 0, vict := 0, s6Slots := 0 }

/-- The MODE block at power-up (02 Table 2-6). -/
def ModeSt.init : ModeSt :=
  { mode := .start, prior := .vault, cond := .none, resync := false, ddeg := false, hard := false, pend := false,
    chg := false, wrej := false, cause := 0x01, src := 0, slot := 7, entry := 0, drowseIdle := 0x64, auxEn := 0,
    auxPin := 0, auxOwn := Vector.replicate 4 0, gpioOut := false, gpioIn := false, locate := 0,
    acmp := Vector.replicate 4 none, lima := 160, limb := 160, plan := none,
    condWhy := { cause := 0x06, src := 3, slot := 7 }, idleSince := none,
    drowseFrom := .locked, drowseFrame := 0, keyClear := [] }

/-- An empty key table (10 R308). -/
def KeySt.init : KeySt :=
  { prim := Vector.replicate 64 none, shadow := Vector.replicate 64 none, amk := none, staged := none, jnk := false,
    buk := none }

def SealSt.init : SealSt := { tagLog := [], head := 0, tail := 0, nodes := [], lastFold := [], folding := [], bankB := 0 }

def Bitmap.init : Bitmap := { g := 0, active := false, ag := 0, bits := [] }

/-- A journal nothing has been written to (08 R233: sequence numbers start at 1). -/
def JnlSt.init : JnlSt :=
  { mem := [], bitmap := Bitmap.init, lost := [], rootCtr := Vector.replicate 8 0, commitNo := 0, inflight := [],
    nextSeq := 1, oldest := 1, wcHead := 0, wcUsed := 0, ctlGen := 0, recs := [], spares := [], badLines := [],
    full := false }

/-- Table 1-5's allocation masks for the strap. -/
def defaultMasks (strap : Bool) : Vector (BitVec 16) 6 :=
  if strap then #v[0x007F, 0x3F80, 0xC000, 0xC000, 0x0000, 0xC000]
  else #v[0x3FFF, 0x0000, 0xC000, 0xC000, 0x0000, 0xC000]

/-- An empty stripe cache (08). -/
def CacheSt.init (strap : Bool) : CacheSt :=
  { lines := [], victim := [], cmask := defaultMasks strap, cmaskNext := [], wayRet := 0,
    wayErr := Vector.replicate 16 0, corr := 0, unc := 0, tpar := 0, victRet := 0, victDis := false, fenced := false, victFenced := false, wrej := false }

/-- The staging region: every shared buffer free with generation 0 (06 R192). -/
def StagingSt.init : StagingSt := { mem := [], bufs := Vector.replicate 384 { owner := .free, gen := 0 } }

/-- No page retired, nothing held. -/
def BulkSt.init : BulkSt := { bad := [], reads := [] }

/-- Both banks cleared (07 R222). -/
def SeqSt.init : SeqSt :=
  { bank0 := [], bank1 := [], active := none, table := [], load := none, swap := none, hold := false }

def EngSt.init : EngSt := { running := false, paused := false, stop := false, next := 0, asked := 0, ref := none }

def EngSts.init : EngSts :=
  { rebuild := EngSt.init, scrub := EngSt.init,
    rekey := { running := false, paused := false, vol := 0, b := 0, inStep := false, moved := [], need := 0,
               sent := false, asked := 0, encrypts := false, ctrs := [] },
    back := [] }

/-- The SEC block (11 Table 11-10). -/
def SecSt.init : SecSt :=
  { latch := false, first := 0, seen := 0, latchRtc := 0, latchFrame := none, tampCfg := 0x104, lidCfg := 20, confDisc := 60,
    confWin := 160, discLid := 0, discConf := 0, chan := 0xFF, lflt := false, cflt := false, lfltAt := 0, cfltAt := 0, wrej := false,
    cwin := none, confRun := false, record := 0 }

/-- An empty event log and intake (13 R416: the next number is 1 where the log holds no record). -/
def LogSt.init : LogSt :=
  { next := 1, started := false, raised := [], general := [], reserved := [], written := [], durable := [],
    drop := Vector.replicate 8 0, total := 0, last := 0, held := false, wiped := false }

def ErrSt.init : ErrSt :=
  { first := 0, second := 0, added := 0, arr := 0, addedAll := 0, dbl := false, dev := false, wrej := false,
    opened := false, record := 0, arrOpen := false, arrRec := 0, pendCode := 0 }

/-- Freeze not armed, FRZ_N high (13 Table 13-9). -/
def FrzSt.init : FrzSt :=
  { armed := false, trig := 0, mtch := 0, pin := true, trigger := none, modeAt := .start, ready := false, pos := 0,
    capDat := false, rtcAt := 0, stopped := false, seed := 0 }

/-- HLTH_STAT 0x0001_0024: both complexes in RELOAD, epoch 1 (12 Table 12-10). -/
def CxSt.init : CxSt :=
  { umber := .reload, slate := .reload, holder := none, last := .umber, epoch := 1, expiry := 0, lease := 32,
    pref := .umber, take := 0, hand := 0, div := 0, leave := 0, susp := none, umberTcm := [], slateTcm := [], umberLeft := 0,
    slateLeft := 0, clean := 0, rptWho := .umber, rptFrame := 0, rptPass := false, rptStep := 0, rptCorr := 0, rptOvr := 0,
    handing := false, vacant := 0, copied := false, words := [], copyAt := 0, flim := false, ftake := false, fstop := false, wrej := false }

/-- Nothing ordered, nothing charged. -/
def GateSt.init : GateSt :=
  { orders := [], tags := [], marker := none, inputs := 0, record := none, delta := [], late := [], priv := [], spentA := 0, spentB := 0, spentRb := 0, spentRk := 0, spentSc := 0,
    agUp := false, nextId := 0 }

/-- The root store at reset: the subsystem IDs, the engine split 6, 1, 1 (09 R285), the shares 6, 6, 4 (01 R28) and
the SEC configuration (11 Table 11-9); every other byte 0 (log entry 9). -/
def rootInit : Memory :=
  [(0x14, 0x16), (0x15, 0x01), (0x16, 0x66), (0x17, 0x04), (0x18, 0x9B), (0x19, 0x1D), (0x1A, 0x36), (0x1B, 0x06),
   (0x1480, 0x04), (0x1481, 0x01), (0x1484, 0x14), (0x1488, 0x3C), (0x148A, 0xA0)]

/-- The block at F0 of the first Start after power-up (02 Table 2-6, 03 Table 3-6; log entry 1). -/
def State.reset : State :=
  { pending := [], out := [], free := 0,
    clock := { frame := 0, phase := .intake, rtc := 0, aonLost := false, cancelled := false },
    supply := { vin := true, vbat := true, vinReversed := false, vbatReversed := false, strap := true, grade := .c },
    fuse := { g := false, b := false, x := false, deviceSeed := zeros 32, fleetSeed := zeros 32, pk := zeros 32,
              pkgKey := zeros 32, seedFused := false, helper := false, pkgFused := false, sigRef := [], repairs := [] },
    root := rootInit,
    fw := { a := none, b := none, active := .a, booted := .a },
    start := StartSt.init, mode := ModeSt.init, portA := PortSt.init, portB := PortSt.init, array := none,
    slots := Vector.replicate 6 SlotSt.init, keys := KeySt.init, tags := SealSt.init, jnl := JnlSt.init,
    cache := CacheSt.init true, staging := StagingSt.init, bulk := BulkSt.init, seq := SeqSt.init, shifts := [], morders := [], sbq := [],
    eng := EngSts.init, vault := { index := [], loaded := false }, sec := SecSt.init, log := LogSt.init,
    err := ErrSt.init, frz := FrzSt.init, cx := CxSt.init, gate := GateSt.init, test := none, scanIr := 0xFF,
    scanCells := 0, scanHold := 0 }

end Sys2Proof.Machine
end

