-- ==== Sys2Proof/Machine/Bytes.lean ====
section
/-! DEFINITION. Byte strings and the block's addressed memories: little-endian integers (00 R462), containers of 36-bit
values (00 R3), CRC-32C, and reading and writing a `Memory` in its canonical form. -/
namespace Sys2Proof.Machine

/-- The `n` lowest-order bytes of `v`, lowest first (00 R462). -/
def leBytes : Nat → Nat → Bytes
  | 0, _ => []
  | n + 1, v => BitVec.ofNat 8 v :: leBytes n (v / 256)

/-- The integer a little-endian byte string holds. -/
def leNat : Bytes → Nat
  | [] => 0
  | b :: bs => b.toNat + 256 * leNat bs

/-- The integer a big-endian byte string holds (10 R302: the CTR counter block). -/
def beNat (bs : Bytes) : Nat := leNat bs.reverse

/-- `n` bytes of `v`, highest-order first. -/
def beBytes (n v : Nat) : Bytes := (leBytes n v).reverse

/-- The 64-bit container of a 36-bit value (00 R3): bits [63:36] are written as zero. -/
def container (v : Nat) : Bytes := leBytes 8 (v % 2 ^ 36)

/-- A dword as four bytes. -/
def dwBytes (v : W32) : Bytes := leBytes 4 v.toNat

/-- The dword four bytes hold. -/
def dwOf (bs : Bytes) : W32 := BitVec.ofNat 32 (leNat (bs.take 4))

/-- `n` bytes of `bs` from offset `o`. -/
def slice (bs : Bytes) (o n : Nat) : Bytes := (bs.drop o).take n

/-- `bs` padded with zero bytes, or cut, to `n` bytes. -/
def padTo (n : Nat) (bs : Bytes) : Bytes := bs.take n ++ zeros (n - bs.length)

/-- Byte-wise XOR of two strings of one length. -/
def xorBytes (a b : Bytes) : Bytes := List.zipWith (· ^^^ ·) a b

/-- Cuts a string into pieces of `n` bytes (`fuel` bounds their number). -/
def chunks (n : Nat) : Nat → Bytes → List Bytes
  | 0, _ => []
  | fuel + 1, bs => if bs.isEmpty then [] else bs.take n :: chunks n fuel (bs.drop n)

/-- One byte's worth of CRC-32C (reflected polynomial 0x82F63B78). -/
def crcBits : Nat → Nat → Nat
  | 0, c => c
  | n + 1, c => crcBits n (if c % 2 = 1 then (c / 2) ^^^ 0x82F63B78 else c / 2)

/-- CRC-32C of a byte string (09 R270, 12 R378, 13 R413). -/
def crc32c (bs : Bytes) : W32 :=
  BitVec.ofNat 32 (bs.foldl (fun c b => crcBits 8 (c ^^^ b.toNat)) 0xFFFFFFFF) ^^^ 0xFFFFFFFF#32

/-- The byte at `a`; an address that is not listed reads 0. -/
def Memory.get (m : Memory) (a : Nat) : Byte :=
  match m.find? (fun c => c.1 == a) with
  | some c => c.2
  | none => 0

/-- The cells a string written at `a` leaves listed. -/
def cellsFrom (a : Nat) : Bytes → Memory
  | [] => []
  | b :: bs => if b = 0 then cellsFrom (a + 1) bs else (a, b) :: cellsFrom (a + 1) bs

/-- `m` with the string `bs` at `a`. -/
def Memory.write (m : Memory) (a : Nat) (bs : Bytes) : Memory :=
  m.filter (fun c => decide (c.1 < a)) ++ cellsFrom a bs ++ m.filter (fun c => decide (a + bs.length ≤ c.1))

/-- `n` bytes from `a`. -/
def Memory.read (m : Memory) (a n : Nat) : Bytes :=
  let near := m.filter (fun c => decide (a ≤ c.1 ∧ c.1 < a + n))
  (List.range n).map (fun i => Memory.get near (a + i))

/-- The canonical form: addresses strictly rising, no listed byte 0. -/
def Memory.wf (m : Memory) : Bool :=
  decide (m.Pairwise (fun x y => x.1 < y.1)) && m.all (fun c => c.2 != 0)

end Sys2Proof.Machine
end

