-- ==== Sys2Proof/Machine/Crypto.lean ====
section
/-! DEFINITION. The cryptography of 10 "Primitives" to "Array master key and credentials": AES-256 (FIPS 197, named in
00 Table 0-4), CMAC, CTR, XTS, the KDF of R301, the wrap of R302, and the keys, tags, tree MACs and memory-engine
formulas built on them. -/
namespace Sys2Proof.Machine

/-- The AES S-box, entry b in bits [8b+7:8b]. -/
def sboxBits : Nat :=
  0xc072a49cafa2d4adf04759fa7dc982ca76abd7fe2b670130c56f6bf27b777c63 * 2 ^ 0 +
  0x75b227ebe28012079a059618c323c7041531d871f1e5a534ccf73f362693fdb7 * 2 ^ 256 +
  0xcf584c4a39becb6a5bb1fc20ed00d153842fe329b3d63b52a05a6e1b1a2c8309 * 2 ^ 512 +
  0xd2f3ff1021dab6bcf5389d928f40a351a89f3c507f02f94585334d43fbaaefd0 * 2 ^ 768 +
  0xdb0b5ede14b8ee4688902a22dc4f816073195d643d7ea7c41744975fec130ccd * 2 ^ 1024 +
  0x08ae7a65eaf4566ca94ed58d6d37c8e779e4959162acd3c25c2406490a3a32e0 * 2 ^ 1280 +
  0x9e1dc186b95735610ef6034866b53e708a8bbd4b1f74dde8c6b4a61c2e2578ba * 2 ^ 1536 +
  0x16bb54b00f2d99416842e6bf0d89a18cdf2855cee9871e9b948ed9691198f8e1 * 2 ^ 1792

/-- The inverse AES S-box. -/
def invSboxBits : Nat :=
  0xcbe9dec444438e3487ff2f9b8239e37cfbd7f3819ea340bf38a53630d56a0952 * 2 ^ 0 +
  0x25d18b6d49a25b76b224d92866a12e084ec3fa420b954cee3d23c2a632947b54 * 2 ^ 256 +
  0x849d8da75746155edab9edfd5048706c92b6655dcc5ca4d41698688664f6f872 * 2 ^ 512 +
  0x6b8a130103bdafc1020f3fca8f1e2cd00645b3b80558e4f70ad3bc8c00abd890 * 2 ^ 768 +
  0x6edf751ce837f9e28535ade72274ac9673e6b4f0cecff297eadc674f4111913a * 2 ^ 1024 +
  0xf45acd78fec0db9a2079d2c64b3e56fc1bbe18aa0e62b76f89c5291d711af147 * 2 ^ 1280 +
  0xef9cc9939f7ae52d0d4ab519a97f51605fec8027591012b131c7078833a8dd1f * 2 ^ 1536 +
  0x7d0c2155631469e126d677ba7e042b17619953833cbbebc8b0f52aae4d3be0a0 * 2 ^ 1792

/-- SubBytes of one byte. -/
def subByte (b : Byte) : Byte := BitVec.ofNat 8 (sboxBits >>> (8 * b.toNat))

/-- Inverse SubBytes of one byte. -/
def invSubByte (b : Byte) : Byte := BitVec.ofNat 8 (invSboxBits >>> (8 * b.toNat))

/-- Doubling in the AES field. -/
def xtime (b : Byte) : Byte := if b.msb then (b <<< 1) ^^^ 0x1B#8 else b <<< 1

/-- Product in the AES field by the bits of `n`, lowest first. -/
def aesMul : Nat → Byte → Byte → Byte
  | 0, _, _ => 0
  | k + 1, n, b => (if n.getLsbD 0 then b else 0) ^^^ aesMul k (n >>> 1) (xtime b)

/-- Four bytes of a column. -/
def getB (bs : Bytes) (i : Nat) : Byte := bs.getD i 0

/-- The next key-schedule words of AES-256: `w` holds the words so far, newest first, each of 4 bytes. -/
def keyWords : Nat → Nat → Byte → List Bytes → List Bytes
  | 0, _, _, w => w
  | n + 1, i, rc, w =>
    let prev := w.headD []
    let back := w.getD 7 []
    if i % 8 = 0 then
      let t := (prev.drop 1 ++ prev.take 1).map subByte
      keyWords n (i + 1) (xtime rc) (xorBytes back (xorBytes t [rc, 0, 0, 0]) :: w)
    else if i % 8 = 4 then
      keyWords n (i + 1) rc (xorBytes back (prev.map subByte) :: w)
    else
      keyWords n (i + 1) rc (xorBytes back prev :: w)

/-- The 15 round keys of a 256-bit key. -/
def roundKeys (key : Bytes) : List Bytes :=
  let w0 := (chunks 4 8 key).reverse
  chunks 16 15 (keyWords 52 8 1 w0).reverse.flatten

/-- ShiftRows on the column-major state. -/
def shiftRows (s : Bytes) : Bytes := (List.range 16).map fun i => getB s ((i + 4 * (i % 4)) % 16)

/-- Inverse ShiftRows. -/
def invShiftRows (s : Bytes) : Bytes := (List.range 16).map fun i => getB s ((i + 12 * (i % 4)) % 16)

/-- One column through the circulant matrix with first row `m`. -/
def mixColumn (m : List Byte) (c : Bytes) : Bytes :=
  (List.range 4).map fun r =>
    (List.range 4).foldl (fun a k => a ^^^ aesMul 8 (m.getD ((k + 4 - r) % 4) 0) (getB c k)) 0

/-- MixColumns with the given first row. -/
def mixColumns (m : List Byte) (s : Bytes) : Bytes := (chunks 4 4 s).flatMap (mixColumn m)

/-- AES-256 of one block under round keys. -/
def aesRounds (rk : List Bytes) (b : Bytes) : Bytes :=
  let s0 := xorBytes b (rk.headD [])
  let mid := (rk.drop 1).take 13
  let s := mid.foldl (fun s k => xorBytes (mixColumns [2, 3, 1, 1] (shiftRows (s.map subByte))) k) s0
  xorBytes (shiftRows (s.map subByte)) (rk.getD 14 [])

/-- Inverse AES-256 of one block under round keys. -/
def aesInvRounds (rk : List Bytes) (b : Bytes) : Bytes :=
  let s0 := (invShiftRows (xorBytes b (rk.getD 14 []))).map invSubByte
  let mid := ((rk.drop 1).take 13).reverse
  let s := mid.foldl
    (fun s k => (invShiftRows (mixColumns [14, 11, 13, 9] (xorBytes s k))).map invSubByte) s0
  xorBytes s (rk.headD [])

/-- AES-256 encryption of a 16-byte block (10 R300). -/
def aesEnc (key b : Bytes) : Bytes := aesRounds (roundKeys key) b

/-- AES-256 decryption of a 16-byte block. -/
def aesDec (key b : Bytes) : Bytes := aesInvRounds (roundKeys key) b

/-- Doubling of a CMAC subkey (SP 800-38B), on big-endian blocks. -/
def cmacDouble (b : Bytes) : Bytes :=
  let v := beNat b
  let d := (2 * v) % 2 ^ 128
  beBytes 16 (if v ≥ 2 ^ 127 then d ^^^ 0x87 else d)

/-- AES-CMAC of a byte string (SP 800-38B; 10 R300). -/
def cmac (key m : Bytes) : Bytes :=
  let rk := roundKeys key
  let k1 := cmacDouble (aesRounds rk (zeros 16))
  let k2 := cmacDouble k1
  let bs := chunks 16 (m.length + 1) m
  let full := bs.dropLast
  let lastB := bs.getLastD []
  let lst := if lastB.length = 16 then xorBytes lastB k1 else xorBytes (padTo 16 (lastB ++ [0x80])) k2
  let c := full.foldl (fun c b => aesRounds rk (xorBytes c b)) (zeros 16)
  aesRounds rk (xorBytes c lst)

/-- KDF(K, lab, ctx) of 10 R301. -/
def kdf (k lab ctx : Bytes) : Bytes :=
  let tail := lab ++ [0x00] ++ ctx ++ [0x01, 0x00]
  cmac k (0x01 :: tail) ++ cmac k (0x02 :: tail)

/-- Three ASCII bytes of a KDF label. -/
def label (s : String) : Bytes := s.toList.map fun c => BitVec.ofNat 8 c.toNat

/-- Sixteen zero bytes, the first context of R301. -/
def zero16 : Bytes := zeros 16

/-- Two blocks of CTR keystream from the counter block `T ‖ 0…` (10 R302). -/
def ctrWrap (key t x : Bytes) : Bytes :=
  let c0 := padTo 16 t
  let rk := roundKeys key
  xorBytes x (aesRounds rk c0 ++ aesRounds rk (beBytes 16 ((beNat c0 + 1) % 2 ^ 128)))

/-- The wrap W(K, ctx, X) of 10 R302 with a tag of `t` bytes (16 for the master key, 8 for volume secrets). -/
def wrap (t : Nat) (k ctx x : Bytes) : Bytes :=
  let tag := (cmac (kdf k (label "WMC") ctx) x).take t
  ctrWrap (kdf k (label "WEN") ctx) tag x ++ tag

/-- Unwrap: the secret, or `none` where the recomputed tag differs (10 R302). -/
def unwrap (t : Nat) (k ctx w : Bytes) : Option Bytes :=
  let tag := slice w 32 t
  let x := ctrWrap (kdf k (label "WEN") ctx) tag (w.take 32)
  if (cmac (kdf k (label "WMC") ctx) x).take t = tag then some x else none

/-- DRK, the device root key (10 Table 10-1). -/
def drk (f : Fuses) : Bytes := kdf f.pk (label "DRK") f.deviceSeed

/-- FRK, the fleet root: DRK where the fleet seed is zero (10 Table 10-1). -/
def frk (f : Fuses) : Bytes :=
  if f.fleetSeed.all (· == 0) then drk f else kdf f.fleetSeed (label "FRK") zero16

/-- FWK, the firmware key. -/
def fwk (f : Fuses) : Bytes := kdf (drk f) (label "FWK") zero16

/-- The encryption and MAC halves of JNK. -/
def jnkEnc (f : Fuses) : Bytes := kdf (drk f) (label "JNE") zero16
def jnkMac (f : Fuses) : Bytes := kdf (drk f) (label "JNM") zero16

/-- The 16 bytes of an array uuid. -/
def uuidBytes (u : BitVec 128) : Bytes := leBytes 16 u.toNat

/-- CD, the credential digest (10 Table 10-1). -/
def credDigest (f : Fuses) (u : BitVec 128) (cred : Bytes) : Bytes :=
  cmac (kdf (frk f) (label "CRD") (uuidBytes u)) (leBytes 1 cred.length ++ padTo 128 cred)

/-- HWK and FLK, the home and fleet wrap keys. -/
def hwk (f : Fuses) (u : BitVec 128) (cd : Bytes) : Bytes := kdf (drk f) (label "HWK") (uuidBytes u ++ cd)
def flk (f : Fuses) (u : BitVec 128) (cd : Bytes) : Bytes := kdf (frk f) (label "FLW") (uuidBytes u ++ cd)

/-- The 17-byte context uuid ‖ v (10 R301). -/
def volCtx (u : BitVec 128) (v : VolN) : Bytes := uuidBytes u ++ leBytes 1 v.val

/-- VWK_v and K_tree,v. -/
def vwk (amk : Bytes) (u : BitVec 128) (v : VolN) : Bytes := kdf amk (label "VWK") (volCtx u v)
def treeKey (amk : Bytes) (u : BitVec 128) (v : VolN) : Bytes := kdf amk (label "TRE") (volCtx u v)

/-- The key-table slot a volume secret gives (10 Table 10-1). -/
def volKeys (amk : Bytes) (u : BitVec 128) (v : VolN) (vs : Bytes) : VolKeys :=
  { xts1 := kdf vs (label "XT1") zero16, xts2 := kdf vs (label "XT2") zero16,
    tag := kdf vs (label "TAG") zero16, tree := treeKey amk u v }

/-- Doubling of an XTS tweak block, little-endian (IEEE 1619). -/
def xtsDouble (t : Bytes) : Bytes :=
  let v := leNat t
  let d := (2 * v) % 2 ^ 128
  leBytes 16 (if v ≥ 2 ^ 127 then d ^^^ 0x87 else d)

/-- One pass over the 16-byte pieces of a data unit with running tweak. -/
def xtsPass (f : Bytes → Bytes) : Bytes → List Bytes → List Bytes
  | _, [] => []
  | t, b :: bs => xorBytes (f (xorBytes b t)) t :: xtsPass f (xtsDouble t) bs

/-- The tweak of LBN l (10 R311): the LBN as a 128-bit little-endian integer, encrypted under key 2. -/
def xtsTweak (k : VolKeys) (lbn : Nat) : Bytes := aesEnc k.xts2 (leBytes 16 lbn)

/-- XTS-AES-256 encryption of one 4 KiB block (10 R311). -/
def xtsEnc (k : VolKeys) (lbn : Nat) (b : Bytes) : Bytes :=
  (xtsPass (aesRounds (roundKeys k.xts1)) (xtsTweak k lbn) (chunks 16 256 b)).flatten

/-- XTS-AES-256 decryption of one 4 KiB block. -/
def xtsDec (k : VolKeys) (lbn : Nat) (b : Bytes) : Bytes :=
  (xtsPass (aesInvRounds (roundKeys k.xts1)) (xtsTweak k lbn) (chunks 16 256 b)).flatten

/-- The tag of a block (10 R315). -/
def blockTag (k : VolKeys) (lbn ctr : Nat) (cipher : Bytes) : Bytes :=
  (cmac k.tag (container lbn ++ leBytes 8 ctr ++ cipher)).take 8

/-- The MAC of a tree node (10 R315). -/
def nodeMac (tree : Bytes) (level x version : Nat) (data : Bytes) : Bytes :=
  (cmac tree (leBytes 1 level ++ zeros 7 ++ leBytes 8 x ++ leBytes 8 version ++ data)).take 8

/-- The journal root checkpointed with a commit (10 R324): 56 bits. -/
def journalRoot (f : Fuses) (ctrs : List Nat) (commit : Nat) : Bytes :=
  (cmac (jnkMac f) (ctrs.flatMap (leBytes 8) ++ leBytes 8 commit)).take 7

/-- Keystream block q of a memory-engine line (10 R324). -/
def meeKeystream (kEnc : Bytes) (addr ctr q : Nat) : Bytes :=
  aesEnc kEnc (leBytes 6 addr ++ leBytes 7 ctr ++ zeros 2 ++ leBytes 1 q)

/-- Line MAC and counter-block MAC of the memory engine (10 R324). -/
def meeLineMac (kMac : Bytes) (addr ctr : Nat) (cipher : Bytes) : Bytes :=
  (cmac kMac (leBytes 8 addr ++ leBytes 7 ctr ++ cipher)).take 7
def meeBlockMac (kMac : Bytes) (addr parent : Nat) (ctrs : List Nat) : Bytes :=
  (cmac kMac (leBytes 8 addr ++ leBytes 7 parent ++ ctrs.flatMap (leBytes 7))).take 7

end Sys2Proof.Machine
end

