-- ==== Sys2Proof/Machine/Sequencer.lean ====
section
/-! DEFINITION. Layouts (07): GF(2^8) arithmetic, the layout sequencer's instruction set and evaluation, load-time
validation, the built-in programs, solving of unavailable units, and the array's geometry. -/
namespace Sys2Proof.Machine

/-- Doubling modulo x^8 + x^4 + x^3 + x^2 + 1 (07 R206). -/
def gfDouble (b : Byte) : Byte := if b.msb then (b <<< 1) ^^^ 0x1D#8 else b <<< 1

/-- Product in GF(2^8) modulo 0x11D, over the `k` low bits of the first operand. -/
def gfMulBits : Nat → Byte → Byte → Byte
  | 0, _, _ => 0
  | k + 1, n, b => (if n.getLsbD 0 then b else 0) ^^^ gfMulBits k (n >>> 1) (gfDouble b)

/-- Product in GF(2^8) (07 R206). -/
def gfMul (a b : Byte) : Byte := gfMulBits 8 a b

/-- The generator's power g^i, with i reduced modulo 255 (07 R206). -/
def gfPowNat : Nat → Byte
  | 0 => 1
  | i + 1 => gfDouble (gfPowNat i)
def gfPow (i : Nat) : Byte := gfPowNat (i % 255)

/-- a^254, the inverse of a non-zero a, by squaring. -/
def gfInv (a : Byte) : Byte :=
  let a2 := gfMul a a
  let a4 := gfMul a2 a2
  let a8 := gfMul a4 a4
  let a16 := gfMul a8 a8
  let a32 := gfMul a16 a16
  let a64 := gfMul a32 a32
  let a128 := gfMul a64 a64
  gfMul a2 (gfMul a4 (gfMul a8 (gfMul a16 (gfMul a32 (gfMul a64 a128)))))

/-- c · D for every byte of a block. -/
def gfScale (c : Byte) (bs : Bytes) : Bytes :=
  if c = 0 then zeros bs.length else if c = 1 then bs else bs.map (gfMul c)

/-- The fields of a sequencer word (07 R209). -/
def seqOp (w : W36) : Nat := (w.extractLsb' 30 6).toNat
def seqD (w : W36) : Nat := (w.extractLsb' 26 4).toNat
def seqA (w : W36) : Nat := (w.extractLsb' 22 4).toNat
def seqB (w : W36) : Nat := (w.extractLsb' 18 4).toNat
def seqImm (w : W36) : Nat := (w.extractLsb' 0 18).toNat
def seqSImm (w : W36) : W36 := (w.extractLsb' 0 18).signExtend 36
def seqOffset (w : W36) : Int := (w.extractLsb' 0 18).toInt

/-- The header's fields (07 Table 7-2). -/
def hdrMagic (w : W36) : Nat := (w.extractLsb' 24 12).toNat
def hdrPeriod (w : W36) : Nat := (w.extractLsb' 16 8).toNat
def hdrNmin (w : W36) : Nat := (w.extractLsb' 12 4).toNat
def hdrNmax (w : W36) : Nat := (w.extractLsb' 8 4).toNat
def hdrM (w : W36) : Nat := (w.extractLsb' 4 4).toNat
def hdrFmt (w : W36) : Nat := (w.extractLsb' 0 4).toNat

/-- Table 7-2's ranges. -/
def hdrOk (w : W36) : Bool :=
  hdrMagic w == 0xA71 && decide (1 ≤ hdrNmin w) && decide (hdrNmin w ≤ hdrNmax w) && decide (hdrNmax w ≤ 6) &&
  decide (hdrM w ≤ 2) && hdrFmt w == 1

def progHeader (prog : List W36) : W36 := prog.getD 0 0

/-- The period of a program for n members (07 R208). -/
def progPeriod (prog : List W36) (n : Nat) : Nat :=
  if hdrPeriod (progHeader prog) = 0 then n else hdrPeriod (progHeader prog)

/-- The m of a program. -/
def progM (prog : List W36) : Nat := hdrM (progHeader prog)

/-- A known opcode with every unused field 0 and its immediate in range (07 R209, R210). -/
def wordOk (w : W36) : Bool :=
  let d := seqD w; let a := seqA w; let b := seqB w; let i := seqImm w
  match seqOp w with
  | 0x01 => d == 0 && a == 0 && b == 0 && i == 0
  | 0x02 => a == 0 && b == 0
  | 0x03 => b == 0
  | 0x04 | 0x05 | 0x06 | 0x07 | 0x08 | 0x0B | 0x0C | 0x10 => i == 0
  | 0x09 | 0x0A => b == 0 && decide (i ≤ 35)
  | 0x0D => b == 0 && decide (1 ≤ i)
  | 0x11 | 0x12 => b == 0 && i == 0
  | 0x18 | 0x19 | 0x1A => d == 0
  | 0x1B => d == 0 && a == 0 && b == 0
  | 0x20 => d == 0 && i == 0
  | 0x21 => d == 0 && b == 0 && decide (i ≤ 1)
  | 0x22 => d == 0 && decide (i ≤ 1)
  | 0x23 => d == 0 && b == 0 && i == 0
  | _ => false

/-- Is the word a branch, and can it fall through? -/
def isBranch (w : W36) : Bool := decide (0x18 ≤ seqOp w) && decide (seqOp w ≤ 0x1B)
def fallsThrough (w : W36) : Bool := seqOp w != 0x01 && seqOp w != 0x1B

/-- The word a branch at `pc` goes to: offsets count from the word after the branch (07 R209). -/
def branchTarget (pc : Nat) (w : W36) : Int := (pc : Int) + 1 + seqOffset w

/-- Every branch target is a code word of the image (07 R211). -/
def targetsOk (prog : List W36) : Bool :=
  (List.range prog.length).all fun pc =>
    let w := prog.getD pc 0
    pc == 0 || !isBranch w ||
      (decide (1 ≤ branchTarget pc w) && decide (branchTarget pc w < (prog.length : Int)))

/-- The words that can follow the word at `pc`. -/
def successors (prog : List W36) (pc : Nat) : List Nat :=
  let w := prog.getD pc 0
  (if fallsThrough w then [pc + 1] else []) ++ (if isBranch w then [(branchTarget pc w).toNat] else [])

/-- Words reachable from the ones listed, in at most `fuel` rounds. -/
def reach (prog : List W36) : Nat → List Nat → List Nat → List Nat
  | 0, _, seen => seen
  | fuel + 1, front, seen =>
    let nxt := (front.flatMap (successors prog)).filter fun x => !seen.contains x
    let nxt := nxt.eraseDups
    if nxt.isEmpty then seen else reach prog fuel nxt (nxt ++ seen)

/-- No execution path reaches a word past the image (07 R211). -/
def staysInside (prog : List W36) : Bool :=
  !((reach prog (prog.length + 1) [1] [1]).any fun pc => decide (prog.length ≤ pc))

/-- The state of one evaluation (07 R207). -/
structure SeqRun where
  x     : List W36
  pc    : Nat
  lanes : List (Option Role)
  reds  : List Nat
  terms : List (Nat × Nat × Byte)

def xreg (r : SeqRun) (i : Nat) : W36 := r.x.getD i 0

/-- Writes Xd and goes to the next word. -/
def setX (r : SeqRun) (d : Nat) (v : W36) : SeqRun := { r with x := r.x.set d v, pc := r.pc + 1 }

/-- Assigns a lane (07 R212): out of range or already assigned is a fault. -/
def setLane (n : Nat) (r : SeqRun) (lane : Nat) (role : Role) : Option SeqRun :=
  if lane < n ∧ r.lanes.getD lane none = none then
    some { r with lanes := r.lanes.set lane (some role), pc := r.pc + 1 }
  else none

/-- The DATA indices used so far. -/
def dataIdx (lanes : List (Option Role)) : List Nat :=
  lanes.filterMap fun l => match l with | some (.data j) => some j | _ => none

/-- What one instruction gives: end, the next state, or a program fault. -/
inductive SeqNext where
  | done
  | go (r : SeqRun)
  | fault

def SeqNext.of : Option SeqRun → SeqNext
  | some r => .go r
  | none => .fault

/-- A branch, taken or not. -/
def seqBranch (r : SeqRun) (w : W36) (t : Bool) : SeqNext :=
  .go { r with pc := if t then (branchTarget r.pc w).toNat else r.pc + 1 }

/-- One instruction of Table 7-3, with the emission faults of R212. -/
def seqStep (n m : Nat) (w : W36) (r : SeqRun) : SeqNext :=
  let d := seqD w; let a := xreg r (seqA w); let b := xreg r (seqB w); let i := seqImm w
  match seqOp w with
  | 0x01 => .done
  | 0x02 => .go (setX r d (BitVec.ofNat 36 i))
  | 0x03 => .go (setX r d (a + seqSImm w))
  | 0x04 => .go (setX r d (a + b))
  | 0x05 => .go (setX r d (a - b))
  | 0x06 => .go (setX r d (a &&& b))
  | 0x07 => .go (setX r d (a ||| b))
  | 0x08 => .go (setX r d (a ^^^ b))
  | 0x09 => .go (setX r d (a <<< i))
  | 0x0A => .go (setX r d (a >>> i))
  | 0x0B => if b = 0 then .fault else .go (setX r d (a % b))
  | 0x0C => if b = 0 then .fault else .go (setX r d (a / b))
  | 0x0D => .go (setX r d (a % BitVec.ofNat 36 i))
  | 0x10 => .go (setX r d ((gfMul (a.setWidth 8) (b.setWidth 8)).setWidth 36))
  | 0x11 => if a.setWidth 8 = (0 : Byte) then .fault else .go (setX r d ((gfInv (a.setWidth 8)).setWidth 36))
  | 0x12 => .go (setX r d ((gfPow (a.toNat % 255)).setWidth 36))
  | 0x18 => seqBranch r w (a == b)
  | 0x19 => seqBranch r w (a != b)
  | 0x1A => seqBranch r w (decide (a.toNat < b.toNat))
  | 0x1B => seqBranch r w true
  | 0x20 =>
    if b.toNat < 6 ∧ ¬ b.toNat ∈ dataIdx r.lanes then .of (setLane n r a.toNat (.data b.toNat)) else .fault
  | 0x21 =>
    if i < m ∧ ¬ i ∈ r.reds then .of (setLane n { r with reds := i :: r.reds } a.toNat (.red i)) else .fault
  | 0x22 =>
    if i < m ∧ b.toNat ≤ 0xFF ∧ ¬ r.terms.any (fun t => t.1 == i && t.2.1 == a.toNat) then
      .go { r with terms := (i, a.toNat, b.setWidth 8) :: r.terms, pc := r.pc + 1 }
    else .fault
  | 0x23 => .of (setLane n r a.toNat .none)
  | _ => .fault

/-- Runs until END, a fault, or more than `fuel` instructions (07 R207). -/
def seqRun (n m : Nat) (prog : List W36) : Nat → SeqRun → Option SeqRun
  | 0, _ => none
  | fuel + 1, r =>
    match seqStep n m (prog.getD r.pc 0) r with
    | .done => some r
    | .fault => none
    | .go r' => seqRun n m prog fuel r'

/-- The coefficient of data unit j in accumulator a; a coefficient no TERM names is 0. -/
def termOf (terms : List (Nat × Nat × Byte)) (a j : Nat) : Byte :=
  match terms.find? (fun t => t.1 == a && t.2.1 == j) with
  | some t => t.2.2
  | none => 0

/-- The conditions at END (07 R213), and the descriptor. -/
def seqDescriptor (m : Nat) (r : SeqRun) : Option Descriptor :=
  let ds := dataIdx r.lanes
  let k := ds.length
  let c0 := (List.range k).map (termOf r.terms 0)
  let c1 := (List.range k).map (termOf r.terms 1)
  if r.lanes.all Option.isSome ∧ 1 ≤ k ∧ (List.range k).all ds.contains ∧ (List.range m).all r.reds.contains ∧
      r.terms.all (fun t => decide (t.2.1 < k)) ∧ (m = 0 ∨ c0.any (· != 0)) ∧ (m ≤ 1 ∨ c1.any (· != 0)) then
    some { lanes := r.lanes.filterMap id, c0 := if m = 0 then [] else c0, c1 := if m ≤ 1 then [] else c1 }
  else none

/-- The registers an evaluation for n members and row class c begins with (07 R207). -/
def SeqRun.init (n c : Nat) : SeqRun :=
  { x := [BitVec.ofNat 36 c, BitVec.ofNat 36 n] ++ List.replicate 14 0, pc := 1, lanes := List.replicate n none,
    reds := [], terms := [] }

/-- One evaluation for n members and row class c (07 R207). -/
def evaluate (prog : List W36) (n c : Nat) : Option Descriptor :=
  (seqRun n (progM prog) prog 2048 (SeqRun.init n c)).bind (seqDescriptor (progM prog))

/-- The lane of a role in a descriptor. -/
def Descriptor.laneOf (d : Descriptor) (r : Role) : Option Nat := d.lanes.findIdx? (· == r)

/-- k, the number of data units. -/
def Descriptor.k (d : Descriptor) : Nat :=
  (d.lanes.filter fun l => match l with | .data _ => true | _ => false).length

/-- The coefficient c_(a,j). -/
def Descriptor.coef (d : Descriptor) (a j : Nat) : Byte := (if a = 0 then d.c0 else d.c1).getD j 0

/-- m, the number of accumulators a descriptor places. -/
def Descriptor.m (d : Descriptor) : Nat :=
  (d.lanes.filter fun l => match l with | .red _ => true | _ => false).length

/-- The data units and accumulators on the positions for which `q` holds, in index order. -/
def Descriptor.dataOn (d : Descriptor) (q : Nat → Bool) : List Nat :=
  (List.range d.k).filter fun j => match d.laneOf (.data j) with | some l => q l | none => false
def Descriptor.redOn (d : Descriptor) (q : Nat → Bool) : List Nat :=
  (List.range d.m).filter fun a => match d.laneOf (.red a) with | some l => q l | none => false

/-- The determinant of the e × e system of the accumulators `as` and data units `js` (e ≤ 2). -/
def systemDet (d : Descriptor) : List Nat → List Nat → Byte
  | [], [] => 1
  | [a], [j] => d.coef a j
  | [a, b], [j, l] => gfMul (d.coef a j) (d.coef b l) ^^^ gfMul (d.coef a l) (d.coef b j)
  | _, _ => 0

/-- Can the data units on the unavailable positions be solved (07 R215, R219)? -/
def solvable (d : Descriptor) (out : Nat → Bool) : Bool :=
  let js := d.dataOn out
  let as := (d.redOn (fun l => !out l)).take js.length
  as.length == js.length && systemDet d as js != 0

/-- The erasure check of 07 R215: every set of at most m positions. -/
def erasureOk (d : Descriptor) (m : Nat) : Bool :=
  let n := d.lanes.length
  (List.range n).all fun i => (List.range n).all fun j =>
    (m == 0) || (m == 1 && solvable d (fun l => l == i)) ||
      (decide (2 ≤ m) && solvable d (fun l => l == i || l == j))

/-- Every class of one member count evaluates, agrees in k and passes the erasure check (07 R214). -/
def classesOk (prog : List W36) (n : Nat) : Bool :=
  let ds := (List.range (progPeriod prog n)).map (evaluate prog n)
  let k := match ds.headD none with | some d => d.k | none => 0
  ds.all fun o => match o with
    | some d => d.k == k && erasureOk d (progM prog)
    | none => false

/-- Load-time validation (07 R214). -/
def validate (prog : List W36) : Bool :=
  decide (2 ≤ prog.length) && decide (prog.length ≤ 1024) && hdrOk (progHeader prog) &&
  (prog.drop 1).all wordOk && targetsOk prog && staysInside prog &&
  ((List.range 7).filter fun n => decide (hdrNmin (progHeader prog) ≤ n) && decide (n ≤ hdrNmax (progHeader prog))).all
    (classesOk prog)

/-- The descriptor table of a program for n members: one entry per class (07 R221). -/
def buildTable (prog : List W36) (n : Nat) : List Descriptor :=
  (List.range (progPeriod prog n)).filterMap (evaluate prog n)

/-- Shadow verification (07 R223): both programs give the same descriptor in every row 0 to lcm - 1. -/
def shadowOk (old new : List W36) (n : Nat) : Bool :=
  let po := progPeriod old n
  let pn := progPeriod new n
  (List.range (Nat.lcm po pn)).all fun r => evaluate old n (r % po) == evaluate new n (r % pn)

/-- A sequencer word from its fields (07 R209). -/
def insn (op d a b imm : Nat) : W36 :=
  BitVec.ofNat 36 (op * 2 ^ 30 + d * 2 ^ 26 + a * 2 ^ 22 + b * 2 ^ 18 + imm % 2 ^ 18)

/-- A negative 18-bit immediate. -/
def neg18 (n : Nat) : Nat := 2 ^ 18 - n

/-- The built-in programs (07 R216, Tables 7-4 and 7-5). -/
def romSpan : List W36 :=
  [0xA71011601, insn 0x02 5 0 0 0, insn 0x20 0 5 5 0, insn 0x03 5 5 0 1, insn 0x1A 0 5 1 (neg18 3), insn 0x01 0 0 0 0]
def romMirror2 : List W36 :=
  [0xA71002211, insn 0x02 9 0 0 1, insn 0x20 0 0 2 0, insn 0x03 3 0 0 1, insn 0x0B 3 3 1 0, insn 0x21 0 3 0 0,
   insn 0x22 0 2 9 0, insn 0x01 0 0 0 0]
def romMirror3 : List W36 :=
  [0xA71003321, insn 0x02 9 0 0 1, insn 0x20 0 0 2 0, insn 0x03 3 0 0 1, insn 0x0B 3 3 1 0, insn 0x21 0 3 0 0,
   insn 0x22 0 2 9 0, insn 0x03 4 0 0 2, insn 0x0B 4 4 1 0, insn 0x21 0 4 0 1, insn 0x22 0 2 9 1, insn 0x01 0 0 0 0]
def romParity1 : List W36 :=
  [0xA71003611, insn 0x05 2 1 0 0, insn 0x03 2 2 0 (neg18 1), insn 0x21 0 2 0 0, insn 0x03 4 1 0 (neg18 1),
   insn 0x02 9 0 0 1, insn 0x04 6 2 5 0, insn 0x03 6 6 0 1, insn 0x0B 6 6 1 0, insn 0x20 0 6 5 0, insn 0x22 0 5 9 0,
   insn 0x03 5 5 0 1, insn 0x1A 0 5 4 (neg18 7), insn 0x01 0 0 0 0]
def romParity2 : List W36 :=
  [0xA71004621, insn 0x05 2 1 0 0, insn 0x03 2 2 0 (neg18 1), insn 0x21 0 2 0 0, insn 0x03 3 2 0 1,
   insn 0x0B 3 3 1 0, insn 0x21 0 3 0 1, insn 0x03 4 1 0 (neg18 2), insn 0x02 5 0 0 0, insn 0x02 9 0 0 1,
   insn 0x04 6 2 5 0, insn 0x03 6 6 0 2, insn 0x0B 6 6 1 0, insn 0x20 0 6 5 0, insn 0x22 0 5 9 0, insn 0x12 7 5 0 0,
   insn 0x22 0 5 7 1, insn 0x03 5 5 0 1, insn 0x1A 0 5 4 (neg18 9), insn 0x01 0 0 0 0]

/-- The ROM program of a layout code 0 to 4. -/
def romProgram : Nat → List W36
  | 0 => romSpan
  | 1 => romMirror2
  | 2 => romMirror3
  | 3 => romParity1
  | 4 => romParity2
  | _ => []

/-- The member counts Table 7-1 allows for a layout code; code 5 takes them from the program's header. -/
def membersOk (layout n : Nat) (custom : List W36) : Bool :=
  match layout with
  | 0 => decide (1 ≤ n) && decide (n ≤ 6)
  | 1 => n == 2
  | 2 => n == 3
  | 3 => decide (3 ≤ n) && decide (n ≤ 6)
  | 4 => decide (4 ≤ n) && decide (n ≤ 6)
  | 5 => decide (hdrNmin (progHeader custom) ≤ n) && decide (n ≤ hdrNmax (progHeader custom))
  | _ => false

/-- u, the blocks of a stripe unit (07 R202). -/
def unitBlocks (su : Nat) : Nat := 4 * 2 ^ su

/-- A unit's content at one block position, by role: from data units (`none` when one is missing). -/
def redBlock (d : Descriptor) (a : Nat) (data : List Bytes) : Bytes :=
  (List.range data.length).foldl (fun acc j => xorBytes acc (gfScale (d.coef a j) (data.getD j []))) (zeros blockBytes)

/-- The known data units' share of accumulator a at one block position. -/
def redPartial (d : Descriptor) (a : Nat) (data : List (Option Bytes)) : Bytes :=
  (List.range data.length).foldl
    (fun acc j => match data.getD j none with
      | some b => xorBytes acc (gfScale (d.coef a j) b)
      | none => acc) (zeros blockBytes)

/-- Solves the missing data units of one block position (07 R219): `data` by index, `reds` the accumulators that are
available, by index. `none` where the window is unrecoverable there. -/
def solveBlock (d : Descriptor) (data : List (Option Bytes)) (reds : List (Option Bytes)) : Option (List Bytes) :=
  let js := (List.range data.length).filter fun j => (data.getD j none).isNone
  let as := ((List.range reds.length).filter fun a => (reds.getD a none).isSome).take js.length
  if as.length = js.length ∧ systemDet d as js ≠ 0 then
    let synd := fun a => xorBytes ((reds.getD a none).getD []) (redPartial d a data)
    match as, js with
    | [], [] => some (data.map (·.getD []))
    | [a], [j] =>
      let x := gfScale (gfInv (d.coef a j)) (synd a)
      some ((List.range data.length).map fun i => if i = j then x else (data.getD i none).getD [])
    | [a, b], [j, l] =>
      let inv := gfInv (systemDet d [a, b] [j, l])
      let sa := synd a
      let sb := synd b
      let x := gfScale inv (xorBytes (gfScale (d.coef b l) sa) (gfScale (d.coef a l) sb))
      let y := gfScale inv (xorBytes (gfScale (d.coef a j) sb) (gfScale (d.coef b j) sa))
      some ((List.range data.length).map fun i =>
        if i = j then x else if i = l then y else (data.getD i none).getD [])
    | _, _ => none
  else none

end Sys2Proof.Machine
end

