-- ==== Sys2Proof/Machine/Geometry.lean ====
section
/-! DEFINITION. Where blocks lie (07 R202 to R204): rows, units, positions, and the rows and windows that hold unretired
records (08 R238). -/
namespace Sys2Proof.Machine

/-- k of the active layout (07 R203); 0 while no bank is active. -/
def layoutK (s : State) : Nat := match s.seq.table with
  | d :: _ => d.k
  | [] => 0

/-- u, the blocks of a stripe unit of the assembled array. -/
def arrayU (s : State) : Nat := match s.array with
  | some a => unitBlocks a.su
  | none => 1

/-- Blocks of one row: k·u. -/
def rowBlocks (s : State) : Nat := layoutK s * arrayU s

/-- R, the rows of the array (07 R202). -/
def arrayRows (s : State) : Nat := match s.array with
  | some a => a.dsz / unitBlocks a.su
  | none => 0

/-- C, the array capacity in blocks (07 R203). -/
def arrayCapacity (s : State) : Nat := arrayRows s * rowBlocks s

/-- The descriptor of a row, from the table of 07 R221. -/
def rowDesc (s : State) (row : Nat) : Descriptor :=
  s.seq.table.getD (row % max 1 s.seq.table.length) { lanes := [], c0 := [], c1 := [] }

def volOf (s : State) (v : VolN) : Option Volume := match s.array with
  | some a => if a.vtab[v.val].present then some a.vtab[v.val] else none
  | none => none

/-- base_v, the array block address of a volume's first block: its base row (09 Table 9-4) times k·u (07 R204). -/
def volBase (s : State) (v : VolN) : Nat := match volOf s v with
  | some x => x.base * rowBlocks s
  | none => 0

/-- Where an array block address lies: row, data unit, block position (07 R203). -/
structure Place where
  row : Nat
  j   : Nat
  b   : Nat
deriving DecidableEq, Repr

def placeOf (s : State) (addr : Nat) : Place :=
  let kb := max 1 (rowBlocks s)
  let u := max 1 (arrayU s)
  { row := addr / kb, j := addr % kb / u, b := addr % u }

/-- Where LBN l of volume v lies (07 R204). -/
def blockPlace (s : State) (v : VolN) (lbn : Nat) : Place := placeOf s (volBase s v + lbn)

/-- The position that holds a role in a row. -/
def rolePos (s : State) (row : Nat) (r : Role) : Option PosN :=
  match (rowDesc s row).laneOf r with
  | some l => if h : l < 6 then some ⟨l, h⟩ else none
  | none => none

/-- The data-area block of a place: r·u + b (08 "Stripe cache placement"). -/
def areaBlock (s : State) (row b : Nat) : Nat := row * arrayU s + b

/-- Is the record one that names blocks (WRITE or DEALLOC)? -/
def IntentRec.names (r : IntentRec) : Bool := r.type == .write || r.type == .dealloc

/-- Does the record name the block? -/
def IntentRec.covers (r : IntentRec) (v : VolN) (lbn : Nat) : Bool :=
  r.names && r.vol == v && decide (r.at_ ≤ lbn) && decide (lbn < r.at_ + r.count)

/-- The newest unretired record that names a block, while the block is not yet on the members with its content (08 R239,
R243). -/
def newestRec (s : State) (v : VolN) (lbn : Nat) : Option IntentRec :=
  match (s.jnl.recs.filter fun r => r.covers v lbn).getLast? with
  | some r => if r.done.contains (lbn - r.at_) then none else some r
  | none => none

/-- First and last row of a record. -/
def recRows (s : State) (r : IntentRec) : Nat × Nat :=
  ((blockPlace s r.vol r.at_).row, (blockPlace s r.vol (r.at_ + r.count - 1)).row)

/-- Rows with an unretired record, oldest record first. -/
def dirtyRows (s : State) : List Nat :=
  ((s.jnl.recs.filter IntentRec.names).flatMap fun r =>
    let x := recRows s r
    (List.range (x.2 + 1 - x.1)).map (x.1 + ·)).eraseDups

/-- DSTG_ROWS: dirty rows, saturating (08 Table 8-6). -/
def dstgRows (s : State) : Nat := min (2 ^ 24 - 1) (dirtyRows s).length

end Sys2Proof.Machine
end

