-- ==== Sys2Proof/Machine/Status.lean ====
section
/-! DEFINITION. The status codes (06 R195, Table 6-7), their classes (00 R11) and what each class does to its ring
(05 R151). -/
namespace Sys2Proof.Machine

/-- SUCCESS: Done. -/
abbrev Status.success : Status := 0x0000
/-- BAD_OPCODE: Unknown opcode. -/
abbrev Status.badOpcode : Status := 0x1001
/-- BAD_FIELD: Reserved field, container or field value out of range. -/
abbrev Status.badField : Status := 0x1002
/-- BAD_ALIGN: Reply, parameter block or host address misaligned. -/
abbrev Status.badAlign : Status := 0x1003
/-- BAD_RANGE: Range past the end of the volume. -/
abbrev Status.badRange : Status := 0x1004
/-- BAD_LENGTH: Count, plen, runs or copy length wrong. -/
abbrev Status.badLength : Status := 0x1005
/-- BAD_VOLUME: Volume not present, or already present for create. -/
abbrev Status.badVolume : Status := 0x1006
/-- BAD_PIN: AUX pin not eligible (R54). -/
abbrev Status.badPin : Status := 0x1007
/-- BAD_SHARES: Shares do not sum to 16 (R30). -/
abbrev Status.badShares : Status := 0x1008
/-- WRONG_RING: Opcode on the wrong kind of ring. -/
abbrev Status.wrongRing : Status := 0x1009
/-- ENTRY_CHECK: Check byte failed twice (R143). -/
abbrev Status.entryCheck : Status := 0x1010
/-- BAD_CHAIN: Chain malformed (R145). -/
abbrev Status.badChain : Status := 0x1011
/-- REPLY_SMALL: rmax too small. -/
abbrev Status.replySmall : Status := 0x1012
/-- BAD_RING: Ring number in use, absent, or not allowed. -/
abbrev Status.badRing : Status := 0x1013
/-- KEY_IN_USE: Key index bound to another volume. -/
abbrev Status.keyInUse : Status := 0x1014
/-- NO_OBJECT: Vault object absent. -/
abbrev Status.noObject : Status := 0x1015
/-- BUF_STALE: Handle generation out of date, or buffer free or pending free. -/
abbrev Status.bufStale : Status := 0x1020
/-- NO_GRANT: Grant does not allow the request. -/
abbrev Status.noGrant : Status := 0x2001
/-- KEY_OVERRIDE: Override without WRITE+KEY. -/
abbrev Status.keyOverride : Status := 0x2002
/-- KEY_MISMATCH: Effective key index not the volume's. -/
abbrev Status.keyMismatch : Status := 0x2003
/-- LIFECYCLE: Not allowed in this lifecycle state. -/
abbrev Status.lifecycle : Status := 0x2004
/-- LAST_ADMIN: Would leave no WRITE+KEY on volume 0. -/
abbrev Status.lastAdmin : Status := 0x2005
/-- BUF_NOT_OWNER: Handle or buffer belongs to another holder. -/
abbrev Status.bufNotOwner : Status := 0x2020
/-- MEMBER_READ: Member read failed, no redundancy left. -/
abbrev Status.memberRead : Status := 0x3001
/-- MEMBER_WRITE: Row left unrecoverable. -/
abbrev Status.memberWrite : Status := 0x3002
/-- LOST_UNIT: Unit is in the lost-unit map. -/
abbrev Status.lostUnit : Status := 0x3003
/-- JOURNAL_MEDIA: Journal could not store or deliver. -/
abbrev Status.journalMedia : Status := 0x3010
/-- REPAIR_EXHAUSTED: Spares exhausted. -/
abbrev Status.repairExhausted : Status := 0x3021
/-- TAG_MISMATCH: Block MAC failed. -/
abbrev Status.tagMismatch : Status := 0x4011
/-- TREE_MISMATCH: Counter tree or root check failed. -/
abbrev Status.treeMismatch : Status := 0x4012
/-- ECC_UNCORRECTABLE: Uncorrectable ECC or memory-MAC failure. -/
abbrev Status.eccUncorrectable : Status := 0x4013
/-- PARITY_MISMATCH: VERIFY found a parity difference. -/
abbrev Status.parityMismatch : Status := 0x4014
/-- SIG_MISMATCH: Self-test signature differs. -/
abbrev Status.sigMismatch : Status := 0x4020
/-- BOOT_DIVERGE: Complex images differ. -/
abbrev Status.bootDiverge : Status := 0x4032
/-- JOURNAL_ROOT: Journal root differs from checkpoint. -/
abbrev Status.journalRoot : Status := 0x4040
/-- HOST_POISON: Poisoned host data. -/
abbrev Status.hostPoison : Status := 0x4050
/-- LAYOUT_MISMATCH: Shadow verification failed. -/
abbrev Status.layoutMismatch : Status := 0x4060
/-- BAD_MODE: Not allowed in this mode. -/
abbrev Status.badMode : Status := 0x5001
/-- RING_STATE: Ring in the wrong state. -/
abbrev Status.ringState : Status := 0x5002
/-- ENGINE_BUSY: Engine already running. -/
abbrev Status.engineBusy : Status := 0x5003
/-- REDUNDANCY: Would exceed the redundancy. -/
abbrev Status.redundancy : Status := 0x5004
/-- SLOT_STATE: Slot in the wrong state. -/
abbrev Status.slotState : Status := 0x5005
/-- WINDOW_FAIL: Start windows failed. -/
abbrev Status.windowFail : Status := 0x5010
/-- STAGE_TIMEOUT: Start stage overran. -/
abbrev Status.stageTimeout : Status := 0x5012
/-- NO_IMAGE: No installed image in the slot. -/
abbrev Status.noImage : Status := 0x5030
/-- REKEY_ACTIVE: A rekey is running. -/
abbrev Status.rekeyActive : Status := 0x5040
/-- BANK_ACTIVE: Bank active, or no program in it. -/
abbrev Status.bankActive : Status := 0x5050
/-- SHIFT_COMMITTED: Shift has issued a member write. -/
abbrev Status.shiftCommitted : Status := 0x5051
/-- NO_BUFFER: No staging buffer. -/
abbrev Status.noBuffer : Status := 0x6001
/-- CONFLICT: Resource held at higher rank, or busy. -/
abbrev Status.conflict : Status := 0x6003
/-- NO_SPACE: Array capacity exhausted. -/
abbrev Status.noSpace : Status := 0x6004
/-- VAULT_FULL: Vault full. -/
abbrev Status.vaultFull : Status := 0x6005
/-- NO_FUSE: Fuse repairs exhausted. -/
abbrev Status.noFuse : Status := 0x6010
/-- ABORTED: Aborted by command. -/
abbrev Status.aborted : Status := 0x7001
/-- MODE_ABORT: Stopped by a mode change or a tamper response. -/
abbrev Status.modeAbort : Status := 0x7002
/-- PORT_CONTAINED: Ring frozen by containment. -/
abbrev Status.portContained : Status := 0x7010
/-- BAD_CREDENTIAL: Wrong credential. -/
abbrev Status.badCredential : Status := 0x8001
/-- THROTTLED: Attempt inside the throttle delay. -/
abbrev Status.throttled : Status := 0x8002
/-- CONFIRM_REFUSED: Confirm press refused. -/
abbrev Status.confirmRefused : Status := 0x8003
/-- CONFIRM_TIMEOUT: No confirm press in the window. -/
abbrev Status.confirmTimeout : Status := 0x8004
/-- POLICY_DENIED: Object policy forbids the operation. -/
abbrev Status.policyDenied : Status := 0x8005
/-- TAMPER_ABORT: Key operation aborted by tamper. -/
abbrev Status.tamperAbort : Status := 0x8006
/-- IMAGE_AUTH: Image or package authentication failed. -/
abbrev Status.imageAuth : Status := 0x8030
/-- IMAGE_ROLLBACK: Version below the rollback counter. -/
abbrev Status.imageRollback : Status := 0x8031

/-- The class of a status, bits [15:12] (00 R11). -/
def statusClass (s : Status) : Nat := (s.extractLsb' 12 4).toNat

/-- A status that freezes its ring (05 Table 5-4): classes 3, 4, 5, 6 and 8, and class 7 but for ABORTED. -/
def freezes (s : Status) : Bool :=
  match statusClass s with
  | 0 | 1 | 2 => false
  | 7 => s != Status.aborted
  | _ => true

end Sys2Proof.Machine
end

