-- ==== Sys2Proof/Machine/Operands.lean ====
section
/-! DEFINITION. The operand forms: the fields of a ring entry (05 Table 5-1, 06 Tables 6-1, 6-2), the malformed-entry
checks that need no state (06 R169 to R172), the fields of the management opcodes (06 Table 6-4), the modes and grants of
Table 6-3, and the buffer handle (06, "Staging buffers"). -/
namespace Sys2Proof.Machine

/-- Dword `i` of an entry. -/
def Entry.w (e : Entry) (i : Nat) : W32 := e.dw.getD i 0

/-- The 64 bytes of an entry. -/
def Entry.bytes (e : Entry) : Bytes := (List.range 16).flatMap fun i => dwBytes (Entry.w e i)

/-- A 64-bit field in dwords i and i + 1. -/
def Entry.q (e : Entry) (i : Nat) : BitVec 64 := Entry.w e (i + 1) ++ Entry.w e i

/-- A 36-bit container's value in dwords i and i + 1 (00 R3). -/
def Entry.cont (e : Entry) (i : Nat) : Nat := (Entry.q e i).toNat % 2 ^ 36

def Entry.opcode (e : Entry) : Nat := ((Entry.w e 0).extractLsb' 0 8).toNat
def Entry.first (e : Entry) : Bool := (Entry.w e 0).getLsbD 8
def Entry.last (e : Entry) : Bool := (Entry.w e 0).getLsbD 9
def Entry.kov (e : Entry) : Bool := (Entry.w e 0).getLsbD 10
def Entry.tag (e : Entry) : BitVec 16 := (Entry.w e 0).extractLsb' 16 16
def Entry.reply (e : Entry) : Nat := (Entry.q e 2).toNat
def Entry.phase (e : Entry) : Bool := (Entry.w e 15).getLsbD 31

/-- The check byte: the XOR of all 64 bytes is 0xA5 (05 R136). -/
def Entry.checkOk (e : Entry) : Bool := (Entry.bytes e).foldl (· ^^^ ·) 0 == 0xA5

/-- The phase of the entry counted i on a ring of the given depth (05 R135). -/
def lapPhase (i depth : Nat) : Bool := (i / depth) % 2 == 0

/-- Ring geometry from a depth code (05 R132). -/
def depthOf (code : Nat) : Nat := 2 ^ (4 + code)

/-- I/O fields (06 Table 6-1). -/
def Entry.vol (e : Entry) : VolN := ⟨((Entry.w e 1).extractLsb' 0 6).toNat, by have := ((Entry.w e 1).extractLsb' 0 6).isLt; simpa using this⟩
def Entry.key (e : Entry) : Fin 64 := ⟨((Entry.w e 1).extractLsb' 8 6).toNat, by have := ((Entry.w e 1).extractLsb' 8 6).isLt; simpa using this⟩
def Entry.lbn (e : Entry) : Nat := Entry.cont e 4
def Entry.nblk (e : Entry) : Nat := ((Entry.w e 6).extractLsb' 0 8).toNat + 1
def Entry.count (e : Entry) : Nat := (Entry.w e 6).toNat
def Entry.all (e : Entry) : Bool := (Entry.w e 7).getLsbD 0

/-- Management fields (06 Table 6-2). -/
def Entry.arg (e : Entry) : W32 := Entry.w e 1
def Entry.pblk (e : Entry) : Nat := (Entry.q e 4).toNat
def Entry.plen (e : Entry) : Nat := ((Entry.w e 6).extractLsb' 0 13).toNat
def Entry.rmax (e : Entry) : Nat := ((Entry.w e 7).extractLsb' 0 16).toNat
def Entry.a (e : Entry) (i : Nat) : W32 := Entry.w e (8 + i)
def Entry.subop (e : Entry) : Nat := ((Entry.arg e).extractLsb' 0 4).toNat

/-- Bits [lo + len - 1 : lo] of a dword. -/
def field (v : W32) (lo len : Nat) : Nat := (v >>> lo).toNat % 2 ^ len

/-- Blocks an I/O entry covers. -/
def ioCount (e : Entry) : Nat := if Entry.opcode e = 5 then Entry.count e else Entry.nblk e

/-- Opcodes (06 Table 6-3). -/
def isIoOp (o : Nat) : Bool := decide (1 ≤ o) && decide (o ≤ 6)
def mgmtOps : List Nat :=
  [0x10, 0x11, 0x12, 0x13, 0x14, 0x15, 0x18, 0x19, 0x1A, 0x1B, 0x20, 0x21, 0x22, 0x23, 0x24, 0x25, 0x26, 0x27, 0x28,
   0x30, 0x38, 0x39, 0x3A, 0x3B, 0x40, 0x41, 0x42, 0x48, 0x49, 0x4A, 0x4B, 0x4C, 0x4D, 0x4E]
def isMgmtOp (o : Nat) : Bool := mgmtOps.contains o

/-- READ, WRITE and WRITE_THROUGH carry data runs and may span a chain (06 R169, R170). -/
def hasRuns (o : Nat) : Bool := o == 1 || o == 2 || o == 3

/-- The data runs of a chain in order: dwords 8-13 of the first entry, dwords 2-13 of each continuation (06 R170). -/
def chainRuns : List Entry → List (BitVec 64)
  | [] => []
  | e :: es => [Entry.q e 8, Entry.q e 10, Entry.q e 12] ++
      es.flatMap fun c => [Entry.q c 2, Entry.q c 4, Entry.q c 6, Entry.q c 8, Entry.q c 10, Entry.q c 12]

/-- The host page addresses of a list of runs, block by block, until `n` pages; `none` where they do not suffice or a
later run slot is not zero (06 R171). -/
def runPages : List (BitVec 64) → Nat → Option (List Nat)
  | [], n => if n = 0 then some [] else none
  | r :: rs, n =>
    if n = 0 then (if (r :: rs).all (· == 0) then some [] else none)
    else
      let base := (r >>> 12).toNat * 4096
      let here := min (r.toNat % 4096 + 1) n
      (runPages rs (n - here)).map fun t => (List.range here).map (fun i => base + 4096 * i) ++ t

/-- Is the dword clear outside the mask? -/
def within (v mask : W32) : Bool := v &&& ~~~mask == 0

/-- Is dword i + 1 of a container clear in its bits [63:36] (00 R3, R4, R13)? -/
def contOk (e : Entry) (i : Nat) : Bool := within (Entry.w e (i + 1)) 0xF

/-- The reserved fields of an I/O entry (06 Table 6-1; 00 R4, R6): those of the first entry by opcode. -/
def ioReservedOk (o : Nat) (e : Entry) : Bool :=
  let zeroFrom (l : List Nat) : Bool := l.all fun i => Entry.w e i == 0
  within (Entry.w e 0) 0xFFFF07FF && within (Entry.w e 1) 0x3F3F && within (Entry.w e 15) 0x800000FF &&
  Entry.w e 14 == 0 &&
  match o with
  | 1 | 2 | 3 => contOk e 4 && within (Entry.w e 6) 0xFF && Entry.w e 7 == 0
  | 4 => zeroFrom [4, 5, 6, 8, 9, 10, 11, 12, 13] && within (Entry.w e 7) 1
  | 5 => contOk e 4 && zeroFrom [7, 8, 9, 10, 11, 12, 13]
  | 6 => contOk e 4 && within (Entry.w e 6) 0xFF && zeroFrom [7, 8, 9, 10, 11, 12, 13]
  | _ => true

/-- The reserved fields of a continuation entry: dwords 1 and 14, and kov as in the first entry (06 R170). -/
def contReservedOk (f e : Entry) : Bool :=
  Entry.w e 1 == 0 && Entry.w e 14 == 0 && within (Entry.w e 0) 0xFFFF07FF && within (Entry.w e 15) 0x800000FF &&
  Entry.kov e == Entry.kov f

/-- Which bits of arg and of a0 to a6 an opcode names, and its parameter block's lengths (06 Table 6-4). -/
structure MgmtForm where
  arg  : W32
  a    : List W32
  pmin : Nat
  pmax : Nat

/-- The form of each management opcode and subop (06 Table 6-4, R182): a field the table names for an opcode without tying
it to subops is no reserved field in any of them. `none` where the subop is out of range. -/
def mgmtForm (o sub : Nat) : Option MgmtForm :=
  let plain (arg : W32) (a : List W32) : Option MgmtForm := some ⟨arg, a, 0, 0⟩
  let full : W32 := 0xFFFFFFFF
  match o with
  | 0x10 | 0x11 | 0x18 | 0x21 | 0x49 => plain 0 []
  | 0x12 => plain 0x3F [full, 0xF, 1]
  | 0x13 =>
    match sub with
    | 1 => plain 0x3F000F [full, full, 0x03FFFFFE, 0x003F0FFF]
    | 2 => plain 0x3F000F [0, 0, 0x03FFFFFE, 0x003F0FFF]
    | 3 | 4 | 5 | 6 => plain 0x3F000F []
    | _ => none
  | 0x14 => plain 0x13F [0xFFFF]
  | 0x15 => plain 1 []
  | 0x19 => plain 0 [full]
  | 0x1A => plain 1 [full, full, full, full, full]
  | 0x1B =>
    match sub with
    | 1 | 2 | 3 => plain 0xF [0x3F, full, 0xF, full]
    | 4 | 5 => plain 0xF [0xF03FF]
    | 6 => plain 0xF []
    | 7 => plain 0xF [7, 0xFFFF]
    | _ => none
  | 0x20 => some ⟨0, [], 1, 128⟩
  | 0x22 => some ⟨0, [], 260, 260⟩
  | 0x23 => some ⟨0x3F0707, [full, 0xF], 1, 128⟩
  | 0x24 => plain 0x3F013F [full, 0xF, 0xF]
  | 0x25 | 0x27 => plain 0x3F []
  | 0x26 => plain 0x3013F []
  | 0x28 => plain 0 [0xFFF]
  | 0x30 =>
    match sub with
    | 1 => plain 0x0FFF000F [0, full]
    | 2 | 4 => plain 0x0FFF000F []
    | 3 => some ⟨0x0FFF000F, [full], 1, 2048⟩
    | 5 => plain 0x0FFF000F [full]
    | _ => none
  | 0x38 =>
    match sub with
    | 3 => plain 0x770F []
    | 1 | 2 | 4 | 5 => plain 0x70F []
    | _ => none
  | 0x39 =>
    match sub with
    | 1 | 2 | 3 | 4 | 5 => plain 0x70F [0xFFF]
    | _ => none
  | 0x3A => plain 1 [full, full]
  | 0x3B => plain 0x101 []
  | 0x40 => plain 0x1FF []
  | 0x41 => some ⟨0, [full], 4, 76⟩
  | 0x42 => plain 1 []
  | 0x48 => some ⟨0xF, [], 0, 128⟩
  | 0x4A => plain 3 [full]
  | 0x4B => plain 1 [0xFFFFF003]
  | 0x4C => plain 0 [full]
  | 0x4D =>
    match sub with
    | 1 | 2 => plain 0xF [1]
    | _ => none
  | 0x4E =>
    match sub with
    | 1 | 2 | 3 | 4 => plain 0xF [full]
    | _ => none
  | _ => none

/-- Reply data a management command would return, as far as its entry alone gives it (06 Table 6-4, R172, R183). -/
def replyNeed (e : Entry) : Nat :=
  match Entry.opcode e with
  | 0x10 => 256
  | 0x11 => 32
  | 0x12 => 16 + 128 * field (Entry.arg e) 0 6
  | 0x14 => 16
  | 0x18 | 0x20 | 0x23 | 0x40 => 8
  | 0x30 => if Entry.subop e = 1 ∨ Entry.subop e = 2 then 16 else 0
  | 0x41 | 0x4D | 0x4E => 4
  | _ => 0

/-- Reserved fields and the parameter block's length, alignment and room of a management entry (06 R172, R182). -/
def mgmtCheck (e : Entry) : Status :=
  match mgmtForm (Entry.opcode e) (Entry.subop e) with
  | none => Status.badField
  | some f =>
    if ¬ (within (Entry.w e 0) 0xFFFF03FF && within (Entry.arg e) f.arg &&
        (List.range 7).all (fun i => within (Entry.a e i) (f.a.getD i 0)) &&
        within (Entry.w e 6) 0x1FFF && within (Entry.w e 7) 0xFFFF && within (Entry.w e 15) 0x800000FF) then
      Status.badField
    else if f.pmax = 0 ∧ Entry.pblk e ≠ 0 then Status.badField
    else if Entry.pblk e % 64 ≠ 0 then Status.badAlign
    else if Entry.plen e < f.pmin ∨ f.pmax < Entry.plen e ∨ (Entry.plen e = 0) ≠ (Entry.pblk e = 0) then
      Status.badLength
    else if Entry.opcode e = 0x41 ∧ Entry.plen e % 4 ≠ 0 then Status.badLength
    else if Entry.reply e ≠ 0 ∧ Entry.rmax e < replyNeed e then Status.replySmall
    else Status.success

/-- The entry checks of R173 step 1 that need no state, for a whole command taken from ring r (05 R149, 06 R169 to
R172). -/
def formCheck (r : RingN) (es : List Entry) : Status :=
  match es with
  | [] => Status.badChain
  | e :: cs =>
    let o := Entry.opcode e
    if ¬ (isIoOp o || isMgmtOp o) then Status.badOpcode
    else if isIoOp o = (r == 0) then Status.wrongRing
    else if Entry.reply e % 16 ≠ 0 then Status.badAlign
    else if isMgmtOp o then
      if ¬ (Entry.first e && Entry.last e && cs.isEmpty) then Status.badChain else mgmtCheck e
    else if ¬ hasRuns o ∧ ¬ (Entry.first e && Entry.last e && cs.isEmpty) then Status.badChain
    else if ¬ (ioReservedOk o e && cs.all (contReservedOk e)) then Status.badField
    else if hasRuns o ∧ (runPages (chainRuns es) (Entry.nblk e)).isNone then Status.badLength
    else if o = 5 ∧ Entry.count e = 0 then Status.badLength
    else Status.success

/-- Which modes Table 6-3 allows an opcode and subop in (06 R175), given whether Lockdown is soft. -/
def modeAllows (o sub : Nat) (m : Mode) (soft : Bool) : Bool :=
  let on := m == .online || m == .degraded || m == .rebuild
  let sa := m == .salvage
  let lo := m == .locked
  let se := m == .service
  let ld := m == .lockdown
  let fa := m == .factory
  match o with
  | 0x01 | 0x04 | 0x06 => on || sa
  | 0x02 | 0x03 | 0x05 => on || sa
  | 0x10 | 0x11 | 0x12 => on || sa || lo || se || ld || fa
  | 0x13 | 0x14 | 0x15 | 0x18 | 0x19 | 0x1A | 0x4B | 0x4D => on || sa || lo || se || fa
  | 0x1B | 0x28 => on || sa || lo || se
  | 0x20 => lo
  | 0x21 | 0x26 => on || sa
  | 0x22 | 0x24 | 0x25 | 0x27 => on
  | 0x23 | 0x4C => se
  | 0x30 => on || (sa && (sub == 1 || sub == 2))
  | 0x38 => on || se || ((sa || lo) && (sub == 1 || sub == 4 || sub == 5))
  | 0x39 => on || lo || se || (sa && sub == 2)
  | 0x3A | 0x3B => on || se
  | 0x40 | 0x41 | 0x42 | 0x4A => se || fa
  | 0x48 => on || sa || lo || se
  | 0x49 => se || fa || (ld && soft)
  | 0x4E => on || sa || lo || se
  | _ => false

/-- The lifecycle restrictions of Table 6-3: its "Needs" column, the "Grey" cells of SHARES_SET, and the mask subop of
CACHE_MAINT. -/
def lifecycleAllows (o sub : Nat) (m : Mode) (lc : Lifecycle) : Bool :=
  match o with
  | 0x20 | 0x23 => lc == .grey || lc == .black
  | 0x4C => lc == .grey
  | 0x28 => lc == .grey || m == .service || m == .lockdown || m == .factory
  | 0x1B => sub != 7 || lc == .grey || m == .service || m == .lockdown || m == .factory
  | _ => true

/-- The grant on volume 0 Table 6-3 needs, as a level 0 to 3. -/
def v0Needs (o sub : Nat) : Nat :=
  match o with
  | 0x21 => 2
  | 0x22 | 0x24 | 0x25 | 0x26 | 0x27 => 3
  | 0x30 => if sub = 1 ∨ sub = 2 then 1 else 2
  | _ => 0

/-- The grant on its own volume an I/O opcode needs (06 Table 6-3, 01 Table 1-4). -/
def volNeeds (o : Nat) : Nat := if o = 2 ∨ o = 3 ∨ o = 5 then 2 else 1

/-- The fields of a buffer handle (06, "Staging buffers"). -/
def handleIndex (h : W32) : Nat := field h 0 9
def handleGen (h : W32) : BitVec 15 := h.extractLsb' 9 15
def handlePort (h : W32) : Port := if h.getLsbD 24 then .b else .a
def handleRest (h : W32) : Nat := field h 25 7

/-- The handle of a buffer. -/
def handleOf (idx : Nat) (g : BitVec 15) (p : Port) : W32 :=
  BitVec.ofNat 32 (idx + 512 * g.toNat + (if p = .b then 2 ^ 24 else 0))

end Sys2Proof.Machine
end

