-- ==== Sys2Proof/Machine/Flags.lean ====
section
/-! DEFINITION. Every status, flag and register word software reads, as a function of the state: the MODE, START, PORT,
QREG, INTR, MSI-X, ERR, CACHE, SEC and HLTH blocks of BAR0 (04 Table 4-4 and the tables of each block). -/
namespace Sys2Proof.Machine

/-- Packs fields `(lo, width, value)` into a register word; unlisted bits are RSV and read 0 (00 R6, R7). -/
def pack (fs : List (Nat × Nat × Nat)) : W32 :=
  BitVec.ofNat 32 (fs.foldl (fun a f => a + f.2.2 % 2 ^ f.2.1 * 2 ^ f.1) 0)

def bit (b : Bool) : Nat := if b then 1 else 0

/-- Saturates a count at the largest value of a field (03 Table 3-6, 08 Table 8-6 and others). -/
def sat (w n : Nat) : Nat := min n (2 ^ w - 1)

/-- Adds to a saturating counter field. -/
def satAdd {w : Nat} (x : BitVec w) (n : Nat) : BitVec w := BitVec.ofNat w (sat w (x.toNat + n))

/-- Adds 1 to a saturating counter field. -/
def satInc {w : Nat} (x : BitVec w) : BitVec w := if x = BitVec.allOnes w then x else x + 1

/-- The lifecycle the fuses give (11 R338): Red if X, Black if G and B, Grey if only G, else White. -/
def lifecycle (f : Fuses) : Lifecycle :=
  if f.x then .red else if f.g && f.b then .black else if f.g then .grey else .white

def lcCode : Lifecycle → Nat
  | .white => 0 | .grey => 1 | .black => 2 | .red => 3

/-- Mode codes (02 Table 2-1). -/
def modeCode : Mode → Nat
  | .vault => 0 | .start => 1 | .locked => 2 | .online => 3 | .degraded => 4 | .rebuild => 5 | .salvage => 6
  | .drowse => 7 | .service => 8 | .freeze => 9 | .lockdown => 10 | .factory => 11

def condCode : Cond → Nat
  | .none => 0 | .online => 1 | .degraded => 2 | .rebuild => 3 | .salvage => 4

/-- The mode an array condition is (02 R39). -/
def condMode : Cond → Mode
  | .none => .locked | .online => .online | .degraded => .degraded | .rebuild => .rebuild | .salvage => .salvage

/-- Is the mode an array condition? -/
def isCondition (m : Mode) : Bool := m == .online || m == .degraded || m == .rebuild || m == .salvage

/-- MODE_STAT and MODE_CAUSE (02 Table 2-6). -/
def modeStat (m : ModeSt) (f : Fuses) : W32 :=
  pack [(0, 4, modeCode m.mode), (4, 4, modeCode m.prior), (8, 2, lcCode (lifecycle f)), (10, 3, condCode m.cond),
        (13, 1, bit m.resync), (14, 1, bit m.ddeg), (15, 1, bit m.hard), (16, 1, bit m.pend), (17, 1, bit m.chg),
        (18, 1, bit m.wrej)]
def modeCause (m : ModeSt) : W32 := pack [(0, 8, m.cause.toNat), (8, 4, m.src.toNat), (12, 3, m.slot.toNat)]

/-- START_STAT.stage (03 Table 3-6). Stage H is read by no host (R67). -/
def stageCode : Stage → Nat
  | .h => 1 | .s1 => 1 | .s2 => 2 | .s3 => 3 | .s4 => 4 | .s5 => 5 | .s6 => 6 | .s7 => 7 | .s8 => 8
  | .released => 9 | .halted => 15

/-- Stripe-cache ways retired. -/
def popcount (w : Nat) (v : BitVec w) : Nat := ((List.range w).filter fun i => v.getLsbD i).length

/-- The START block (03 Table 3-6). -/
def startStat (t : StartSt) : W32 :=
  pack [(0, 4, stageCode t.stage), (4, 1, bit t.halt), (5, 1, bit t.simplex), (6, 1, bit t.repaired),
        (7, 1, bit t.replayed), (8, 1, bit t.slotB), (9, 1, bit t.jpend), (10, 1, bit t.untested)]
def startCode (t : StartSt) : W32 := pack [(0, 16, t.status.toNat), (16, 8, t.blk.toNat)]
def startRepair (t : StartSt) : W32 :=
  pack [(0, 8, sat 8 t.soft), (8, 4, popcount 16 t.ways), (12, 4, sat 4 t.vict), (16, 9, t.pages)]
def startReplay (t : StartSt) : W32 := pack [(0, 16, t.rows), (16, 16, t.pend)]

/-- Ring geometry (05 R132, R147). -/
def Ring.dcode (r : Ring) : Nat := field r.cfg 1 4
def Ring.depth (r : Ring) : Nat := depthOf (Ring.dcode r)
def Ring.weight (r : Ring) : Nat := field r.cfg 5 8
def Ring.burst (r : Ring) : Nat := field r.cfg 13 7
def Ring.vec (r : Ring) : VecN := ⟨field r.cfg 20 5, by unfold field; omega⟩
def Ring.ie (r : Ring) : Bool := r.cfg.getLsbD 25
def Ring.ivl (r : Ring) : Nat := field r.poll 0 12
def Ring.keyIdx (r : Ring) : Fin 64 := ⟨field r.poll 16 6, by unfold field; omega⟩
def Ring.headIdx (r : Ring) : Nat := r.passed % Ring.depth r
def Ring.headPhase (r : Ring) : Bool := lapPhase r.passed (Ring.depth r)

/-- Entries taken and not passed. -/
def Ring.takenLen (r : Ring) : Nat := (r.taken.map fun t => t.entries.length).sum

/-- The count of the entry after the last known one: where a poll's window begins (05 R141). -/
def Ring.fetchAt (r : Ring) : Nat := r.passed + Ring.takenLen r + r.known.length

/-- Known entries not yet taken: one an abort ended has left the prefetch buffer (05 R156). -/
def Ring.held (r : Ring) : Nat := (r.known.filter fun k => !k.aborted).length

def rstateCode : RState → Nat
  | .disabled => 0 | .run => 1 | .frozen => 2 | .resetting => 3

/-- QSTAT and QERR (05 Table 5-9). -/
def qstat (r : Ring) : W32 :=
  pack [(0, 12, Ring.headIdx r), (12, 1, bit (Ring.headPhase r)), (13, 2, rstateCode r.state), (16, 8, Ring.held r)]
def qerr (r : Ring) : W32 := pack [(0, 16, r.errStatus.toNat), (16, 12, r.errIndex.toNat)]

/-- The 8-byte head record (05 Table 5-2). -/
def headRecord (r : Ring) (frozen : Bool) : Bytes :=
  dwBytes (pack [(0, 12, Ring.headIdx r), (12, 1, bit (Ring.headPhase r)), (16, 1, bit frozen)]) ++ leBytes 4 r.passed

/-- Prefetch entries a port holds. -/
def pfUse (q : PortSt) : Nat := (q.rings.toList.map Ring.held).sum

/-- Frozen rings lo to lo + 31 (05 Table 5-9). -/
def qfroz (q : PortSt) (lo : Nat) : W32 :=
  BitVec.ofNat 32 (((List.range 32).filter fun i => match q.rings[lo + i]? with
    | some r => r.state == .frozen | none => false).map (2 ^ ·)).sum

/-- The event ring (05 R132, R158). -/
def evEnabled (q : PortSt) : Bool := q.evCfg.getLsbD 0
def evDepth (q : PortSt) : Nat := depthOf (field q.evCfg 1 4)
def evVec (q : PortSt) : VecN := ⟨field q.evCfg 8 5, by unfold field; omega⟩
def evTail (q : PortSt) : Nat := q.evWritten % evDepth q
def evPhase (q : PortSt) : Bool := lapPhase q.evWritten (evDepth q)

/-- Unread event entries (05 R158). -/
def evUnread (q : PortSt) : Nat :=
  if q.evDoneIdx.toNat = evTail q then (if q.evDonePhase = evPhase q then 0 else evDepth q)
  else (evTail q + evDepth q - q.evDoneIdx.toNat % evDepth q) % evDepth q

def evqStat (q : PortSt) : W32 :=
  pack [(0, 12, evTail q), (12, 1, bit (evPhase q)), (13, 1, bit (!q.evWait.isEmpty)), (16, 16, q.evLost.toNat)]

/-- The PORT block (04 Table 4-6). -/
def cstateCode : CState → Nat
  | .run => 0 | .freeze => 1 | .hold => 2 | .release => 3
def portId (p : Port) (strap : Bool) : W32 := pack [(0, 1, bit (p == .b)), (1, 1, bit strap)]
def portStat (q : PortSt) : W32 :=
  pack [(0, 2, cstateCode q.cstate), (2, 1, bit q.linkUp), (3, 1, bit q.refclk), (4, 1, bit q.wrej), (5, 1, bit q.d3),
        (8, 8, q.ccause.toNat), (16, 16, q.ccount.toNat)]
def portPwr (q : PortSt) : W32 := pack [(0, 8, q.pwrIdle.toNat), (8, 2, q.ltr.toNat)]

/-- AUX_OWN, ACMP_OWN, STG_LIMIT (02 Table 2-6). -/
def auxOwnReg (m : ModeSt) : W32 := pack ((List.range 4).map fun i => (4 * i, 4, (m.auxOwn.toList.getD i 0).toNat))
def acmpOwnReg (m : ModeSt) : W32 :=
  pack ((List.range 4).map fun i => (4 * i, 4, match m.acmp.toList.getD i none with | some a => a.user.toNat | none => 0))
def stgLimitReg (m : ModeSt) (strap : Bool) : W32 :=
  pack [(0, 9, m.lima.toNat), (16, 9, if strap then m.limb.toNat else 0)]

/-- Shared buffers an engine holds (02 Table 2-6). A buffer in its release still counts. -/
def engBufs (g : StagingSt) (e : Engine) : Nat :=
  (g.bufs.toList.filter fun b => b.owner == .engine e || b.owner == .releasing e).length

/-- Shared buffers a port holds or has pending (06 R192). -/
def portBufs (g : StagingSt) (p : Port) : Nat :=
  (g.bufs.toList.filter fun b => b.owner == .taken p || b.owner == .held p || b.owner == .freeing p).length

/-- Shared buffers a port holds: not those still pending, but those whose release is (06 Table 6-5, R192). -/
def heldBufs (g : StagingSt) (p : Port) : Nat :=
  (g.bufs.toList.filter fun b => b.owner == .held p || b.owner == .freeing p).length

def stgOwnReg (g : StagingSt) (e : EngSts) : W32 :=
  pack [(0, 8, engBufs g .rebuild), (8, 8, engBufs g .rekey), (16, 8, engBufs g .scrub), (24, 1, bit e.rekey.paused),
        (25, 1, bit e.scrub.paused)]

/-- The CACHE block (08 Table 8-6). -/
def cacheStat (c : CacheSt) (j : JnlSt) : W32 := pack [(0, 1, bit c.wrej), (1, 1, bit j.full)]
def victStat (c : CacheSt) : W32 := pack [(0, 6, c.victim.length), (8, 4, c.victRet), (12, 1, bit c.victDis)]
/-- CMASK[i] shows the mask last written, which allocations use from the next frame on (08 R253). -/
def cmaskReg (c : CacheSt) (i : Nat) : W32 :=
  let next := (c.cmaskNext.filter fun x => x.1.val == i).getLast?.map (·.2)
  ((next.getD (c.cmask.toList.getD i 0)) &&& ~~~c.wayRet).setWidth 32

/-- The throttle's remaining ticks, and whole seconds rounded up (11 R342). -/
def throttleTicks (m : ModeSt) (rtc : Nat) : Nat :=
  match m.acmp.toList.find? (fun a => match a with | some x => x.user == 1 | none => false) with
  | some (some x) => x.target.getD rtc - rtc
  | _ => 0
def throttleSecs (m : ModeSt) (rtc : Nat) : Nat := (throttleTicks m rtc + 1023) / 1024

/-- The unlock count n in the security region (11 R340, Table 11-11). -/
def unlockCount (root : Memory) : Nat := leNat (Memory.read root 0x1490 4)

/-- The wipe record (11 Table 11-11): state and pending target. -/
def wipeState (root : Memory) : Nat := leNat (Memory.read root 0x1440 4)
def wipeTarget (root : Memory) : Nat := leNat (Memory.read root 0x1446 1)

/-- The lid is armed in Black, in Grey with lid_arm, never in White or Red (11 R352). -/
def lidArmed (c : SecSt) (f : Fuses) : Bool :=
  match lifecycle f with
  | .black => true
  | .grey => c.tampCfg.getLsbD 16
  | _ => false

/-- The SEC block (11 Table 11-10). -/
def secStat (s : SecSt) (hard : Bool) (f : Fuses) (root : Memory) : W32 :=
  pack [(0, 2, lcCode (lifecycle f)), (2, 1, bit s.latch), (3, 1, bit hard), (4, 1, bit (wipeTarget root == 3)),
        (5, 1, bit s.cwin.isSome), (6, 1, bit (lidArmed s f)), (7, 1, bit s.wrej)]
def tampSrc (s : SecSt) : W32 := pack [(0, 8, s.first.toNat), (8, 9, s.seen.toNat)]
def tampCfgReg (s : SecSt) (f : Fuses) : W32 :=
  pack [(0, 9, s.tampCfg.toNat), (16, 1, if lifecycle f = .black then 1 else bit (s.tampCfg.getLsbD 16)),
        (17, 1, bit (s.tampCfg.getLsbD 17))]
def confCfgReg (s : SecSt) : W32 := pack [(0, 9, s.confDisc.toNat), (16, 8, s.confWin.toNat)]
def wireStat (s : SecSt) : W32 := pack [(0, 8, s.chan.toNat), (8, 1, bit s.lflt), (9, 1, bit s.cflt)]

/-- The HLTH block (12 Table 12-11). -/
def cxCode : CxState → Nat
  | .off => 0 | .reload => 1 | .copy => 2 | .probation => 3 | .twin => 4 | .sole => 5
def simplex (c : CxSt) : Bool := c.umber == .sole || c.slate == .sole
def hlthStat (c : CxSt) : W32 :=
  pack [(0, 1, bit (c.last == .slate)), (1, 1, bit c.susp.isSome), (2, 3, cxCode c.umber), (5, 3, cxCode c.slate),
        (8, 1, bit (simplex c)), (9, 1, bit c.flim), (10, 1, bit c.fstop), (11, 1, bit c.wrej),
        (16, 16, c.epoch.toNat)]
def hlthCfgReg (c : CxSt) : W32 := pack [(0, 8, c.lease.toNat), (8, 1, bit (c.pref == .slate))]
def hlthCnt (c : CxSt) : W32 :=
  pack [(0, 8, c.take.toNat), (8, 8, c.hand.toNat), (16, 8, c.div.toNat), (24, 8, c.leave.toNat)]

/-- The complex that writes the health report: the one without the token, in simplex the holder (12 R401). -/
def reporter (c : CxSt) : Cx := if simplex c then c.last else match c.last with | .umber => .slate | .slate => .umber
def hlthRpt1 (c : CxSt) : W32 :=
  pack [(0, 1, bit (c.rptWho == .slate)), (1, 1, bit c.rptPass), (2, 8, c.rptStep), (16, 8, c.rptCorr.toNat),
        (24, 8, c.rptOvr.toNat)]

/-- The ERR block (13 Table 13-9). -/
def ringFrozenAny (q : PortSt) : Bool := q.rings.toList.any fun r => r.state == .frozen
def jnlHold (s : State) : Bool := s.start.jpend || s.log.held || s.log.wiped
def errStat (s : State) : W32 :=
  pack [(0, 1, bit (ringFrozenAny s.portA || ringFrozenAny s.portB)),
        (1, 1, bit (s.portA.cstate != .run || s.portB.cstate != .run)), (2, 1, bit s.err.dev), (3, 1, bit s.err.dbl),
        (4, 1, bit (jnlHold s)), (5, 1, bit s.err.wrej)]
def errDev (e : ErrSt) : W32 := pack [(0, 8, e.first.toNat), (8, 8, e.second.toNat), (16, 8, e.added.toNat)]
def logIntake (l : LogSt) : W32 :=
  pack [(0, 8, l.general.length), (8, 4, l.reserved.length), (12, 1, bit (l.drop.toList.any (· != 0)))]
def frzStat (f : FrzSt) : W32 :=
  pack [(0, 1, bit f.armed), (1, 2, f.trig.toNat), (3, 1, bit f.pin), (12, 20, f.mtch.toNat)]

/-- Before release and in a halt only the START and MODE blocks are readable (03 R78, 12 R400). -/
def blocksOpen (s : State) : Bool := s.mode.mode != .start && !s.cx.fstop

/-- Low and high words of a value up to 64 bits. -/
def lo32 (v : Nat) : W32 := BitVec.ofNat 32 v
def hi32 (v : Nat) : W32 := BitVec.ofNat 32 (v / 2 ^ 32)

/-- The upper register of a value of `32 + n` bits: the bits above are RSV and read 0 (00 R5, R6). -/
def hiPart (n v : Nat) : W32 := BitVec.ofNat 32 (v / 2 ^ 32 % 2 ^ n)

/-- What a port reads at an aligned BAR0 offset (04 Table 4-4, R107); reserved offsets read 0 (R108). -/
def bar0Read (s : State) (p : Port) (off : Nat) : W32 :=
  let q := match p with | .a => s.portA | .b => s.portB
  if q.d3 then 0xFFFFFFFF
  else if q.cstate != .run && decide (0x100 ≤ off) then 0xFFFFFFFF
  else match off with
  | 0x0100 => modeStat s.mode s.fuse
  | 0x0104 => modeCause s.mode
  | 0x0108 => lo32 s.mode.entry
  | 0x010C => hiPart 4 s.mode.entry
  | 0x0110 => pack [(0, 1, bit q.vote)]
  | 0x0114 => s.mode.drowseIdle.setWidth 32
  | 0x0118 => s.mode.auxEn.setWidth 32
  | 0x011C => s.mode.auxPin.setWidth 32
  | 0x0120 => auxOwnReg s.mode
  | 0x0124 => acmpOwnReg s.mode
  | 0x0128 => stgOwnReg s.staging s.eng
  | 0x012C => stgLimitReg s.mode s.supply.strap
  | 0x0200 => startStat s.start
  | 0x0204 => startCode s.start
  | 0x0208 => s.start.time
  | 0x020C => startRepair s.start
  | 0x0210 => s.start.ways.setWidth 32
  | 0x0214 => startReplay s.start
  | _ =>
    if ¬ blocksOpen s then 0
    else match off with
    | 0x0000 => portId p s.supply.strap
    | 0x0004 => portStat q
    | 0x000C => q.ordLimit.setWidth 32
    | 0x0010 => lo32 s.clock.frame
    | 0x0014 => hiPart 4 s.clock.frame
    | 0x0018 => lo32 q.contFrame
    | 0x001C => hiPart 4 q.contFrame
    | 0x0020 => portPwr q
    | 0x1000 => pack [(0, 9, pfUse q), (9, 1, bit q.qwrej)]
    | 0x1004 => qfroz q 0
    | 0x1008 => qfroz q 32
    | 0x100C => lo32 q.headBase.toNat
    | 0x1010 => hi32 q.headBase.toNat
    | 0x1014 => q.qback
    | 0x1020 => lo32 q.evBase.toNat
    | 0x1024 => hi32 q.evBase.toNat
    | 0x1028 => q.evCfg
    | 0x102C => pack [(0, 12, q.evDoneIdx.toNat), (12, 1, bit q.evDonePhase)]
    | 0x1030 => evqStat q
    | 0x2000 => if q.cfg.msixEn then 0 else q.intStat
    | 0x2004 => q.intMask
    | 0x3800 => q.pba
    | 0x4000 => errStat s
    | 0x4004 => errDev s.err
    | 0x4008 => pack [(0, 16, s.err.arr.toNat), (16, 16, s.err.addedAll.toNat)]
    | 0x400C => lo32 s.log.next
    | 0x4010 => hiPart 4 s.log.next
    | 0x4014 => logIntake s.log
    | 0x4018 => pack [(0, 16, s.log.total.toNat), (16, 3, s.log.last.toNat)]
    | 0x401C => frzStat s.frz
    | 0x5000 => cacheStat s.cache s.jnl
    | 0x5004 => pack [(0, 15, s.jnl.wcUsed)]
    | 0x5008 => pack [(0, 15, s.jnl.recs.length)]
    | 0x500C => BitVec.ofNat 32 (dstgRows s)
    | 0x5030 => pack [(0, 16, s.cache.corr.toNat), (16, 16, s.cache.unc.toNat)]
    | 0x5034 => s.cache.tpar.setWidth 32
    | 0x5038 => victStat s.cache
    | 0x503C => s.cache.wayRet.setWidth 32
    | 0x6000 => secStat s.sec s.mode.hard s.fuse s.root
    | 0x6004 => tampSrc s.sec
    | 0x6008 => lo32 s.sec.latchRtc
    | 0x600C => hiPart 16 s.sec.latchRtc
    | 0x6010 => tampCfgReg s.sec s.fuse
    | 0x6014 => s.sec.lidCfg.setWidth 32
    | 0x6018 => confCfgReg s.sec
    | 0x601C => pack [(0, 16, s.sec.discLid.toNat), (16, 16, s.sec.discConf.toNat)]
    | 0x6020 => pack [(0, 16, unlockCount s.root), (16, 16, throttleSecs s.mode s.clock.rtc)]
    | 0x6024 => wireStat s.sec
    | 0x6028 => lo32 s.clock.rtc
    | 0x602C => hiPart 16 s.clock.rtc
    | 0x7000 => hlthStat s.cx
    | 0x7004 => lo32 s.cx.expiry
    | 0x7008 => hiPart 4 s.cx.expiry
    | 0x700C => hlthCfgReg s.cx
    | 0x7010 => hlthCnt s.cx
    | 0x7014 => lo32 s.cx.rptFrame
    | 0x7018 => hlthRpt1 s.cx
    | 0x701C => pack [(0, 11, s.cx.clean)]
    | _ =>
      if decide (0x1100 ≤ off) && decide (off < 0x1900) then
        match q.rings[(off - 0x1100) / 32]? with
        | none => 0
        | some r =>
          match (off - 0x1100) % 32 with
          | 0x00 => lo32 r.base.toNat
          | 0x04 => hi32 r.base.toNat
          | 0x08 => r.cfg
          | 0x0C => r.poll
          | 0x10 => qstat r
          | 0x14 => qerr r
          | 0x1C => lo32 r.passed
          | _ => 0
      else if decide (0x2040 ≤ off) && decide (off < 0x20C0) then
        match q.coal[(off - 0x2040) / 4]? with
        | some c => pack [(0, 8, c.count.toNat), (8, 12, c.time.toNat)]
        | none => 0
      else if decide (0x3000 ≤ off) && decide (off < 0x3200) then
        match q.msix[(off - 0x3000) / 16]? with
        | none => 0
        | some e =>
          match (off - 0x3000) % 16 with
          | 0x0 => lo32 e.addr.toNat
          | 0x4 => hi32 e.addr.toNat
          | 0x8 => e.data
          | _ => pack [(0, 1, bit e.masked)]
      else if decide (0x5010 ≤ off) && decide (off < 0x5028) then cmaskReg s.cache ((off - 0x5010) / 4)
      else 0

end Sys2Proof.Machine
end

