-- ==== Sys2Proof/Machine/Ops.lean ====
section
/-! DEFINITION. The named operations every command is built from: accessors of ports, rings and slots, what the block
sends, log records (13), events (05), interrupt causes (04), finishing and publishing entries (05), orders of a frame,
privileged actions (12) and planned mode transitions (02). -/
namespace Sys2Proof.Machine

/-! ## Accessors -/

def State.port (s : State) : Port → PortSt
  | .a => s.portA
  | .b => s.portB

def State.setPort (s : State) (p : Port) (q : PortSt) : State :=
  match p with
  | .a => { s with portA := q }
  | .b => { s with portB := q }

def State.modPort (s : State) (p : Port) (f : PortSt → PortSt) : State := s.setPort p (f (s.port p))

def otherPort : Port → Port
  | .a => .b
  | .b => .a

def PortSt.ring (q : PortSt) (r : RingN) : Ring := q.rings[r.val]

def PortSt.setRing (q : PortSt) (r : RingN) (x : Ring) : PortSt := { q with rings := q.rings.set r.val x }

def State.ring (s : State) (p : Port) (r : RingN) : Ring := (s.port p).ring r

def State.setRing (s : State) (p : Port) (r : RingN) (x : Ring) : State := s.modPort p fun q => q.setRing r x

def State.modRing (s : State) (p : Port) (r : RingN) (f : Ring → Ring) : State := s.setRing p r (f (s.ring p r))

def State.slot (s : State) (m : SlotN) : SlotSt := s.slots[m.val]

def State.modSlot (s : State) (m : SlotN) (f : SlotSt → SlotSt) : State :=
  { s with slots := s.slots.set m.val (f (s.slot m)) }

def State.modMode (s : State) (f : ModeSt → ModeSt) : State := { s with mode := f s.mode }
def State.modSec (s : State) (f : SecSt → SecSt) : State := { s with sec := f s.sec }
def State.modCx (s : State) (f : CxSt → CxSt) : State := { s with cx := f s.cx }
def State.modJnl (s : State) (f : JnlSt → JnlSt) : State := { s with jnl := f s.jnl }
def State.modArray (s : State) (f : ArraySt → ArraySt) : State := { s with array := s.array.map f }

/-- Read requests outstanding: those that have their tag (04 R110). -/
def readsOut (q : PortSt) : Nat := (q.reads.filter fun r => r.tag.isSome).length

def bothPorts : List Port := [.a, .b]
def allRings : List RingN := List.finRange 64
def allSlots : List SlotN := List.finRange 6
def allPos : List PosN := List.finRange 6
def allVols : List VolN := List.finRange 64

/-- Port A, and port B when the strap is high (04 R99). -/
def portEnabled (s : State) (p : Port) : Bool := p == .a || s.supply.strap

/-- Source codes of records and of MODE_CAUSE (02 Table 2-6, 13 Table 13-3). -/
def portSrc : Port → Nat
  | .a => 1
  | .b => 2
def portBit (p : Port) : Nat := bit (p == .b)
def cxSrc : Nat := 4
def memberSrc : Nat := 3

/-- The frame in whose Intake phase an event that comes now is observed: the frame that runs, or the next one once its
commit point has passed (log entry 2). -/
def obsFrame (s : State) : Nat := if s.clock.phase = .commit then s.clock.frame + 1 else s.clock.frame

/-- May what completes now be observed (01 R19, Table 1-2): in the Intake phase, or after a commit point for the next
frame's? -/
def observes (s : State) : Bool := s.clock.phase == .intake || s.clock.phase == .commit

/-- Does a complex plan (12 Table 12-1: TWIN or SOLE)? -/
def plans : CxState → Bool
  | .twin | .sole => true
  | _ => false
def CxSt.of (c : CxSt) : Cx → CxState
  | .umber => c.umber
  | .slate => c.slate
def CxSt.set (c : CxSt) (x : Cx) (v : CxState) : CxSt :=
  match x with
  | .umber => { c with umber := v }
  | .slate => { c with slate := v }
def otherCx : Cx → Cx
  | .umber => .slate
  | .slate => .umber
def anyPlanning (c : CxSt) : Bool := plans c.umber || plans c.slate

/-- Is the frame in its Plan phase, with a complex that plans (01 R17)? -/
def planPhase (s : State) : Bool := s.clock.phase == .plan && anyPlanning s.cx

/-- The always-on domain is supplied (14 R443, R445). -/
def aonAlive (s : State) : Bool := s.supply.vin || (s.supply.vbat && !s.supply.vbatReversed)

/-- One tick of the always-on clock: the 48-bit real-time counter advances (11 R366, 00 "Time"), while the always-on
domain has a supply (14 R443). -/
def aonTick (s : State) : State :=
  if ¬ aonAlive s then s else { s with clock := { s.clock with rtc := (s.clock.rtc + 1) % 2 ^ 48 } }

/-! ## What the block sends -/

def State.emit (s : State) (o : Out) : State := { s with out := s.out ++ [o] }

/-- The pieces of a request no larger than `lim` and not crossing a 4 KiB boundary (04 R110). -/
def readPieces (lim : Nat) : Nat → Nat → Nat → List (Nat × Nat)
  | 0, _, _ => []
  | fuel + 1, addr, len =>
    if len = 0 then []
    else
      let n := min len (min lim (4096 - addr % 4096))
      (addr, n) :: readPieces lim fuel (addr + n) (len - n)

/-- The largest memory write: Max_Payload_Size, at most 256 B (04 R111). -/
def writeLimit (c : CfgSpace) : Nat := min 256 (128 * 2 ^ c.mps.toNat)

/-- The memory writes a write into host memory goes out as (04 R111, log entry 12). -/
def writePieces (c : CfgSpace) (w : HostWrite) : List HostWrite :=
  (readPieces (writeLimit c) (w.data.length / 64 + 2) w.addr w.data.length).map fun x =>
    { w with addr := x.1, data := slice w.data (x.1 - w.addr) x.2 }

/-- A TLP of the host has reached the port: its link is in L0, unless it stands in L1.2, whose exit is an event of its own
(04 R117, 02 R48). -/
def sawTlp (frame : Nat) (q : PortSt) : PortSt :=
  { q with lastTlp := some frame, l1 := if q.l12 then q.l1 else q.d3 && q.l1, l11 := false }

/-- The port sends a TLP, for which its link leaves L1 and its substates (04 R117). -/
def sendsTlp (frame : Nat) (q : PortSt) : PortSt :=
  { q with lastTlp := some frame, l1 := q.d3 && q.l1, l11 := false, l12 := false }

/-- Every TLP the device sends has Relaxed Ordering, No Snoop and ID-Based Ordering 0, whatever the enable bits hold (04
R102). -/
def tlpAttr (_c : CfgSpace) : TlpAttr := { ro := false, ns := false, ido := false }

/-- May the port originate memory requests: Bus Master Enable is set, and an Intake phase has observed it (04 R465)? -/
def masters (q : PortSt) (frame : Nat) : Bool :=
  q.cfg.bme && match q.bmeSince with
    | some f => decide (f ≤ frame)
    | none => false

/-- A write into host memory: withheld while Bus Master Enable is 0 or the port is contained, or behind writes that still
are (04 R465, R123), dropped where the port is disabled or in reset (04 R119), else sent in pieces. All but an interrupt
message counts as a DMA of the port (04 Table 4-8, log entry 58). -/
def sendHost (s : State) (p : Port) (w : HostWrite) : State :=
  let q := s.port p
  if ¬ portEnabled s p ∨ q.perst ∨ q.crs then s
  else if q.cstate ≠ .run ∨ ¬ masters q s.clock.frame ∨ ¬ q.withheld.isEmpty then
    s.modPort p fun q => { q with withheld := q.withheld ++ [w] }
  else
    let f := s.clock.frame
    let s := s.modPort p fun q =>
      { sendsTlp f q with busyFrame := if w.kind = .message then q.busyFrame else some f }
    { s with out := s.out ++ (writePieces q.cfg w).map fun w => .hostWrite p w (tlpAttr q.cfg) }

/-- Can the port read host memory: enabled, not in reset or D3hot, not contained, Bus Master Enable set? -/
def portActive (s : State) (p : Port) : Bool :=
  let q := s.port p
  portEnabled s p && !q.perst && !q.crs && !q.d3 && q.cstate == .run && masters q s.clock.frame

/-- The largest read request: the smaller of Max_Read_Request_Size and 512 B (04 R110). -/
def readLimit (c : CfgSpace) : Nat := min 512 (128 * 2 ^ c.mrrs.toNat)

/-- The tags a port uses, and its limit on outstanding reads (04 R110). -/
def tagCount (q : PortSt) : Nat := if q.cfg.extTag then 128 else 32
def readCap (q : PortSt) : Nat := min q.ordLimit.toNat (tagCount q)

/-- Gives waiting requests the lowest free tags, oldest first, while fewer than `cap` are outstanding. -/
def assignTags (tags cap : Nat) : List HostReq → List Nat → List HostReq
  | [], _ => []
  | r :: rs, used =>
    if r.tag.isSome ∨ cap ≤ used.length then r :: assignTags tags cap rs used
    else match (List.range tags).find? fun t => !used.contains t with
      | some t => { r with tag := some t } :: assignTags tags cap rs (t :: used)
      | none => r :: assignTags tags cap rs used

/-- The read request of an assigned tag, as it goes out. -/
def requestOut (p : Port) (c : CfgSpace) (r : HostReq) : Out := .hostRead p r.addr r.len (r.tag.getD 0) (tlpAttr c)

/-- Requests that wait go out as far as the limit and the tags allow (04 R110). -/
def pumpReads (s : State) (p : Port) : State :=
  let q := s.port p
  if ¬ portActive s p ∨ q.reads.all (fun r => r.tag.isSome) then s
  else
    let was := q.reads.filterMap (·.tag)
    let rs := assignTags (tagCount q) (readCap q) q.reads was
    let new := rs.filter fun r => match r.tag with
      | some t => !was.contains t
      | none => false
    if new.isEmpty then s
    else
      let f := s.clock.frame
      let s := s.modPort p fun q => { sendsTlp f q with reads := rs }
      { s with out := s.out ++ new.map (requestOut p q.cfg) }

/-- A read of host memory, in requests that obey 04 R110. -/
def readHost (s : State) (p : Port) (o : ReadOwner) (addr len : Nat) : State :=
  let ps := readPieces (readLimit (s.port p).cfg) (len / 64 + 2) addr len
  pumpReads (s.modPort p fun q =>
    { q with reads := q.reads ++ ps.map fun x => { owner := o, addr := x.1, len := x.2, tag := none } }) p

/-- The requests of an owner that are outstanding have their completions: their tags are free again. -/
def readsBack (s : State) (p : Port) (o : ReadOwner) : State :=
  let f := s.clock.frame
  pumpReads (s.modPort p fun q =>
    { sawTlp f q with reads := q.reads.filter fun r => !(r.owner == o && r.tag.isSome) }) p

/-- Has a request of the owner still to be issued? -/
def readsWait (q : PortSt) (o : ReadOwner) : Bool := q.reads.any fun r => r.owner == o && r.tag.isNone

/-! ## The event log (13) -/

/-- A record with no object: everything 0, slot 7 (13 Table 13-3). -/
def LogRec.base (type : Nat) (cls level : Nat) : LogRec :=
  { seq := 0, frame := 0, type := BitVec.ofNat 12 type, cls := BitVec.ofNat 3 cls, level := BitVec.ofNat 3 level,
    src := 0, ring := 0, slot := 7, cx := false, status := 0, tag := 0, count := 0, rtc := 0, payload := [], adds := 0 }

/-- Raises a record: it is placed in the intake at the next commit point (13 R417). -/
def State.raise (s : State) (r : LogRec) : State := { s with log := { s.log with raised := s.log.raised ++ [r] } }

/-- The NOTE of a logged case with no type of its own (13 R414). -/
def logNote (s : State) (src cause obj : Nat) : State :=
  s.raise { LogRec.base 0x07F 7 0 with src := BitVec.ofNat 3 src, payload := [cause, obj] }

/-- Logged cases whose NOTE has no code of its own in the spec. -/
inductive Logged where
  | placedAgain | foreign | smart | slotDma | reload | adoption | misc | load | security | test | descriptor
deriving DecidableEq, Repr

def Logged.tag : Logged → Nat
  | .placedAgain => 0 | .foreign => 1 | .smart => 2 | .slotDma => 3 | .reload => 4 | .adoption => 5 | .misc => 6 | .load => 7 | .security => 8 | .test => 9
  | .descriptor => 10

/-- The NOTE of such a case (13 R414). -/
def logCase (s : State) (src : Nat) (c : Logged) (obj : Nat) : State :=
  logNote s src (Config.noteCause c.tag).toNat obj

/-- COMPLEX, with the Table 12-6 fault or Table 12-8 row (13 Table 13-5). -/
def logComplex (s : State) (c : Cx) (row : Nat) : State :=
  s.raise { LogRec.base 0x003 0 0 with src := 4, cx := c == .slate, payload := [(hlthStat s.cx).toNat, row] }

/-- CONFLICT: resource, winner and loser (02 R53). -/
def logConflict (s : State) (res win lose : Nat) : State :=
  s.raise { LogRec.base 0x072 7 0 with payload := [res, win, lose] }

/-- INTEGRITY: volume, LBN or journal offset, table row (13 Table 13-5). -/
def logIntegrity (s : State) (vol lbn row : Nat) (st : Status) : State :=
  s.raise { LogRec.base 0x040 4 0 with status := st, payload := [vol, lbn, row] }

/-- Words 0 to 15 of a record (13 Table 13-3). -/
def recWords (r : LogRec) : List Nat :=
  let w2 := r.type.toNat + r.cls.toNat * 2 ^ 12 + r.level.toNat * 2 ^ 15 + r.src.toNat * 2 ^ 18 +
    r.ring.toNat * 2 ^ 21 + r.slot.toNat * 2 ^ 27 + bit r.cx * 2 ^ 30
  let w3 := r.status.toNat + r.tag.toNat * 2 ^ 16
  let w4 := r.count % 2 ^ 16 + r.rtc / 2 ^ 36 % 2 ^ 12 * 2 ^ 16
  let ws := [r.seq, r.frame, w2, w3, w4, r.rtc % 2 ^ 36] ++
    ((List.range 8).map fun i => r.payload.getD i 0) ++ [r.adds]
  ws ++ [(crc32c (ws.flatMap container)).toNat]

/-- The 72 bytes of a record in the journal: word w in bits [36w + 35 : 36w] (13 R413). -/
def recBytes (r : LogRec) : Bytes :=
  leBytes 72 ((List.range 16).foldl (fun a w => a + (recWords r).getD w 0 % 2 ^ 36 * 2 ^ (36 * w)) 0)

/-- Where record q lies in the journal (13 R415). -/
def logOffset (q : Nat) : Nat := 0x3C00000 + 72 * ((q - 1) % 28672)

/-- Cuts a write at 64-byte line boundaries. -/
def lineWrites : Nat → Nat → Bytes → List (Nat × Bytes)
  | 0, _, _ => []
  | fuel + 1, a, bs =>
    if bs.isEmpty then []
    else
      let n := 64 - a % 64
      (a, bs.take n) :: lineWrites fuel (a + n) (bs.drop n)

/-- A byte string written into the journal, line by line. -/
def jnlWrite (a : Nat) (bs : Bytes) : List (Nat × Bytes) := lineWrites (bs.length / 64 + 2) a bs

/-- The two writes of a record: all 72 bytes with word 0 zero, then word 0 (13 R415). -/
def recWrites (r : LogRec) : List (Nat × Bytes) :=
  let bs := recBytes r
  jnlWrite (logOffset r.seq) (leBytes 5 (leNat (bs.take 5) / 2 ^ 36 * 2 ^ 36) ++ bs.drop 5) ++
    [(logOffset r.seq, bs.take 5)]

/-- Releases a journal commit (08 R236): commits become durable in the order of their release. -/
def journalCommit (s : State) (ws : List (Nat × Bytes)) (o : JOwner) : State :=
  s.modJnl fun j => { j with inflight := j.inflight ++ [{ writes := ws, owner := o, frame := s.clock.frame }] }

/-- No record reaches the journal (13 R417). -/
def logHeld (s : State) : Bool := jnlHold s

/-- Step 1 of R417: entries whose writes were observed durable are freed. -/
def logFree (s : State) : State :=
  let l := s.log
  let keep := fun r : LogRec => !l.durable.contains r.seq
  { s with log := { l with general := l.general.filter keep, reserved := l.reserved.filter keep, durable := [] } }

/-- Step 2 of R417: the writes of up to 4 waiting records, reserved entries first, oldest first. -/
def logRelease (s : State) : State :=
  if logHeld s then s
  else
    let l := s.log
    let waits := (l.reserved ++ l.general).filter fun r => !l.written.contains r.seq
    let now := waits.take 4
    if now.isEmpty then s
    else
      let s := journalCommit s (now.flatMap recWrites) (.log (now.map (·.seq)))
      { s with log := { s.log with written := s.log.written ++ now.map (·.seq) } }

/-- Index of the newest waiting record of a type, in a list kept oldest first. -/
def newestOf (l : List LogRec) (t : BitVec 12) (written : List Nat) : Option Nat :=
  ((List.range l.length).filter fun i =>
    match l[i]? with
    | some r => r.type == t && !written.contains r.seq
    | none => false).getLast?

def bumpAt (l : List LogRec) (i : Nat) : List LogRec := l.modify i fun r => { r with count := r.count + 1 }

/-- Counts a dropped record of class c (13 R418). -/
def dropRec (l : LogSt) (c : BitVec 3) : LogSt :=
  { l with drop := l.drop.set c.toNat (l.drop[c.toNat]'(by have := c.isLt; omega) + 1) (by have := c.isLt; omega),
           total := satInc l.total, last := c }

/-- The record the open handling of the same level and object has (13 R410), for one raised with `adds` not 0. -/
def openRecord (s : State) (r : LogRec) : Nat :=
  let p : Port := if r.src = 2 then .b else .a
  match r.level.toNat with
  | 1 => if h : r.ring.toNat < 64 then (s.ring p ⟨r.ring.toNat, h⟩).freezeRec else 0
  | 2 => (s.port p).contSeq
  | 3 => s.err.arrRec
  | 4 => s.err.record
  | _ => if r.cls = 5 then s.sec.record else 0

/-- Notes the record of a handling that opens with it. -/
def noteRecord (s : State) (r : LogRec) : State :=
  let p : Port := if r.src = 2 then .b else .a
  match r.level.toNat with
  | 1 => if h : r.ring.toNat < 64 then s.modRing p ⟨r.ring.toNat, h⟩ fun x => { x with freezeRec := r.seq } else s
  | 2 => s.modPort p fun q => { q with contSeq := r.seq }
  | 3 => { s with err := { s.err with arrRec := r.seq } }
  | 4 => { s with err := { s.err with record := r.seq } }
  | _ => if r.cls = 5 then s.modSec fun c => { c with record := r.seq } else s

/-- Counts a record that adds to an open handling (13 Table 13-9). -/
def countAdded (s : State) (r : LogRec) : State :=
  if r.adds = 0 then s
  else { s with err := { s.err with addedAll := satInc s.err.addedAll,
                                    added := if r.level = 4 then satInc s.err.added else s.err.added } }

/-- Places one raised record in the intake, or merges or drops it (13 R410, R416 to R418, R431). -/
def placeRec (s : State) (r : LogRec) : State :=
  let l := s.log
  let s := countAdded s r
  let full : LogRec := { r with seq := l.next, frame := s.clock.frame, rtc := s.clock.rtc,
                                adds := if r.adds = 0 then 0 else openRecord s r }
  let s := if r.adds = 0 then noteRecord s full else s
  if r.cls = 5 ∨ r.cls = 6 then
    if l.reserved.length < 8 then
      { s with log := { l with next := l.next + 1, reserved := l.reserved ++ [full] } }
    else if l.general.length < 128 then
      { s with log := { l with next := l.next + 1, general := l.general ++ [full] } }
    else match newestOf l.reserved r.type l.written, newestOf l.general r.type l.written with
      | some i, _ => { s with log := { l with reserved := bumpAt l.reserved i } }
      | none, some i => { s with log := { l with general := bumpAt l.general i } }
      | none, none =>
        match ((List.range l.general.length).filter fun i => match l.general[i]? with
            | some x => x.cls != 5 && x.cls != 6 && !l.written.contains x.seq | none => false).getLast? with
        | some i =>
          let d := dropRec l ((l.general[i]?).map (·.cls) |>.getD 0)
          { s with log := { d with next := l.next + 1, general := l.general.eraseIdx i ++ [full] } }
        | none => { s with log := dropRec l r.cls }
  else if l.general.length < 128 then
    { s with log := { l with next := l.next + 1, general := l.general ++ [full] } }
  else { s with log := dropRec l r.cls }

/-- The LOST_EVENTS record takes the first free general entry (13 R418). -/
def placeLost (s : State) : State :=
  let l := s.log
  if l.general.length < 128 ∧ l.drop.toList.any (· != 0) then
    let s := { s with log := { l with drop := Vector.replicate 8 0 } }
    placeRec s { LogRec.base 0x070 7 0 with payload := l.drop.toList.map (· % 2 ^ 16) }
  else s

/-- Step 3 of R417: the frame's records, in the order they were raised. Until release they wait (13 R416). -/
def placeRaised (s : State) : State :=
  if s.log.started then
    let rs := s.log.raised
    rs.foldl placeRec { s with log := { s.log with raised := [] } }
  else s

/-- The log intake's work at a commit point (13 R417, R418). -/
def logCommit (s : State) : State :=
  let s := logRelease (logFree s)
  if s.log.started then placeRaised (placeLost s) else s

/-! ## Events and interrupt causes (05 R158 to R160, 04 R112) -/

/-- An event of the given code with nothing else. -/
def Event.base (s : State) (code : Nat) (info : W32) : Event :=
  { code := BitVec.ofNat 16 code, ring := 0, status := 0, tag := 0, index := 0, info := info, frame := s.clock.frame,
    count := 0 }

/-- TAMPER and FATAL (05 R159). -/
def Event.urgent (e : Event) : Bool := e.code == 0x30 || e.code == 0x31

/-- Drops an event and counts it (05 R159). -/
def dropEvent (q : PortSt) : PortSt := { q with evLost := satInc q.evLost, evLostPend := q.evLostPend + 1 }

/-- Posts an event on a port; while EVQ_CFG.en is 0 it is dropped and counted (05 R159). -/
def postEvent (s : State) (p : Port) (e : Event) : State :=
  if ¬ portEnabled s p then s
  else s.modPort p fun q => if evEnabled q then { q with evWait := q.evWait ++ [e] } else dropEvent q

/-- A cause on vector v (04 R112). -/
def raiseCause (q : PortSt) (v : VecN) (frame : Nat) (urgent : Bool) : PortSt :=
  let c := q.causes[v.val]
  let c' : Causes := { n := c.n + 1, first := if c.n = 0 then frame else c.first, urgent := c.urgent || urgent }
  { q with causes := q.causes.set v.val c' }

/-- The eight dwords of an event entry (05 Table 5-5). -/
def eventBytes (e : Event) (phase : Bool) : Bytes :=
  [pack [(0, 16, e.code.toNat), (16, 6, e.ring.toNat)], pack [(0, 16, e.status.toNat), (16, 16, e.tag.toNat)],
   pack [(0, 12, e.index.toNat)], e.info, lo32 e.frame, pack [(0, 4, e.frame / 2 ^ 32)], BitVec.ofNat 32 e.count,
   pack [(31, 1, bit phase)]].flatMap dwBytes

/-- The cause of an event entry: raised once in a frame (05 R160), an urgent one at once (04 R112). -/
def raiseEvent (q : PortSt) (frame : Nat) (urgent : Bool) : PortSt :=
  if q.evCause = some frame ∧ ¬ urgent then q
  else { raiseCause q (evVec q) frame urgent with evCause := some frame }

/-- Writes one event into the ring: dwords 0 to 6, then dword 7 (05 R158), and raises its cause (05 R160). -/
def writeEvent (s : State) (p : Port) (e : Event) : State :=
  let q := s.port p
  let a := q.evBase.toNat + 32 * evTail q
  let bs := eventBytes e (evPhase q)
  let s := sendHost s p { kind := .event, addr := a, data := bs.take 28 }
  let s := sendHost s p { kind := .event, addr := a + 28, data := bs.drop 28 }
  s.modPort p fun q =>
    raiseEvent { q with evWritten := q.evWritten + 1 } s.clock.frame (Event.urgent e || e.code == 0x11)

/-- Writes waiting events while the ring has room, EVENTS_LOST first (05 R159). -/
def writeEvents (p : Port) : Nat → State → State
  | 0, s => s
  | fuel + 1, s =>
    let q := s.port p
    if evDepth q ≤ evUnread q then s
    else if q.evLostPend ≠ 0 then
      let e := Event.base s 0x0004 (BitVec.ofNat 32 q.evLostPend)
      writeEvents p fuel (writeEvent (s.modPort p fun q => { q with evLostPend := 0 }) p e)
    else match q.evWait with
      | [] => s
      | e :: es => writeEvents p fuel (writeEvent (s.modPort p fun q => { q with evWait := es }) p e)

/-- Keeps what may wait: 32 events, 4 more for TAMPER and FATAL, merged past that (05 R159). DESIGN CHOICE (log entry 60):
where the 4 places are full and none of them holds an event of the same code, a TAMPER or FATAL event is kept in a further
place, since R159 drops none. -/
def trimEvents : List Event → List Event → Nat → Nat → Nat → List Event × Nat
  | [], kept, _, _, lost => (kept, lost)
  | e :: es, kept, g, u, lost =>
    if Event.urgent e then
      if u < 4 then trimEvents es (kept ++ [e]) g (u + 1) lost
      else match ((List.range kept.length).filter fun i => match kept[i]? with
          | some x => x.code == e.code | none => false).getLast? with
        | some i => trimEvents es (kept.modify i fun x => { x with count := x.count + 1 }) g u lost
        | none => trimEvents es (kept ++ [e]) (g + 1) u lost
    else if g < 32 then trimEvents es (kept ++ [e]) (g + 1) u lost
    else trimEvents es kept g u (lost + 1)

/-- The event ring's work at a commit point; a contained port's events wait (13 R410). -/
def flushEvents (s : State) (p : Port) : State :=
  let q := s.port p
  let s := if evEnabled q && q.cstate == .run then writeEvents p (q.evWait.length + 2) s else s
  s.modPort p fun q =>
    let t := trimEvents q.evWait [] 0 0 0
    { q with evWait := t.1, evLostPend := q.evLostPend + t.2,
             evLost := BitVec.ofNat 16 (min 0xFFFF (q.evLost.toNat + t.2)) }

/-! ## Entries -/

/-- The taken entry a reference names. -/
def State.taken? (s : State) (f : Ref) : Option Taken := (s.ring f.p f.r).taken.find? fun t => t.i == f.i

/-- Changes the taken entry a reference names. -/
def State.modTaken (s : State) (f : Ref) (g : Taken → Taken) : State :=
  s.modRing f.p f.r fun x => { x with taken := x.taken.map fun t => if t.i == f.i then g t else t }

/-- Gives an entry its status and reply data; it is done at the next commit point (05 R147, R148). An entry that has its
status keeps it. -/
def finishEntry (s : State) (f : Ref) (st : Status) (reply : Bytes) : State :=
  s.modTaken f fun t =>
    if t.stage = .finished then t
    else { t with stage := .finished, status := st, reply := reply }

/-- Fails an entry with a status and no reply data. -/
def failEntry (s : State) (f : Ref) (st : Status) : State := finishEntry s f st []

/-- Fails an I/O entry: the reply data is the LBN container of the first block that failed (06 R180). -/
def failIo (s : State) (f : Ref) (st : Status) (lbn : Nat) : State :=
  s.modTaken f fun t =>
    if t.stage = .finished then t else { t with stage := .finished, status := st, reply := container lbn }

def setStage (s : State) (f : Ref) (g : EStage) : State := s.modTaken f fun t => { t with stage := g }

/-- The entry's first dwords. -/
def Taken.head (t : Taken) : Entry := t.entries.headD { dw := [] }

/-- The reply header (05 Table 5-3) and data. -/
def replyBytes (t : Taken) (r : RingN) (frame : Nat) : Bytes :=
  [pack [(0, 16, t.status.toNat), (16, 16, (Entry.tag t.head).toNat)], pack [(0, 12, t.i), (12, 6, r.val)],
   BitVec.ofNat 32 t.reply.length, lo32 frame].flatMap dwBytes ++ t.reply

/-- Has the entry a usable reply block (05 R150)? A continuation names none (05 R134). -/
def hasReply (t : Taken) : Bool :=
  Entry.first t.head && Entry.reply t.head != 0 && Entry.reply t.head % 16 == 0 && t.status != Status.entryCheck

/-- Writes an entry's reply, or posts ENTRY_ERROR where R150 says so. -/
def replyEntry (s : State) (p : Port) (r : RingN) (t : Taken) : State :=
  if hasReply t then sendHost s p { kind := .reply, addr := Entry.reply t.head, data := replyBytes t r s.clock.frame }
  else if statusClass t.status = 1 ∨ statusClass t.status = 2 then
    postEvent s p { Event.base s 0x0002 (BitVec.ofNat 32 (Entry.opcode t.head)) with
      ring := BitVec.ofNat 6 r.val, status := t.status, tag := Entry.tag t.head, index := BitVec.ofNat 12 t.i }
  else s

/-- RING_FROZEN, its record and its cause, QERR and the state (05 R152, R160; 13 Table 13-5). -/
def freezeRing (s : State) (p : Port) (r : RingN) (st : Status) (i : Nat) (tag : BitVec 16) (op : Nat) : State :=
  let s := s.modRing p r fun x => { x with state := .frozen, errStatus := st, errIndex := BitVec.ofNat 12 i }
  let s := s.raise { LogRec.base 0x010 1 1 with
    src := BitVec.ofNat 3 (portSrc p), ring := BitVec.ofNat 6 r.val, status := st, tag := tag, payload := [(qerr (s.ring p r)).toNat, op] }
  let s := postEvent s p { Event.base s 0x0001 0 with
    ring := BitVec.ofNat 6 r.val, status := st, tag := tag, index := BitVec.ofNat 12 i }
  s.modPort p fun q => raiseCause q (Ring.vec (q.ring r)) s.clock.frame false

/-- An entry with its status becomes done at this commit point; the first that freezes its ring stops the ring there,
and is not done (05 R148, R151, R152, R163). -/
def settleEntry (p : Port) (r : RingN) (s : State) (t : Taken) : State :=
  if t.stage ≠ .finished ∨ t.done then s
  else
    let x := s.ring p r
    if x.state = .frozen ∧ x.errIndex.toNat = t.i then s
    else
      let s := replyEntry s p r t
      let f : Ref := { p := p, r := r, i := t.i }
      if freezes t.status ∧ x.state ≠ .frozen ∧ x.state ≠ .resetting then
        freezeRing s p r t.status t.i (Entry.tag t.head) (Entry.opcode t.head)
      else
        let s := if freezes t.status then
            s.raise { LogRec.base 0x010 1 1 with
              src := BitVec.ofNat 3 (portSrc p), ring := BitVec.ofNat 6 r.val, status := t.status, tag := Entry.tag t.head, payload := [(qerr x).toNat, Entry.opcode t.head], adds := 1 }
          else s
        (s.modTaken f fun t => { t with done := true }).modRing p r fun x => { x with doneAt := s.clock.frame }

/-- Passes the done entries at the head (05 R147). -/
def advance : List Taken → Nat → List Taken × Nat
  | [], n => ([], n)
  | t :: ts, n => if t.done then advance ts (n + t.entries.length) else (t :: ts, n)

def Ring.advance (x : Ring) : Ring :=
  let a := Machine.advance x.taken 0
  { x with taken := a.1, passed := x.passed + a.2, gone := x.gone.filter fun c => decide (x.passed + a.2 ≤ c) }

/-- Writes the head record when its index, phase or frozen bit changes (05 R147), and raises its cause (05 R160). -/
def publishHead (s : State) (p : Port) (r : RingN) : State :=
  let x := s.ring p r
  let now := (x.passed, x.state == .frozen)
  let was := x.headPub.getD (0, false)
  if x.state = .disabled ∨ now = was then s
  else
    let s := sendHost s p
      { kind := .head, addr := (s.port p).headBase.toNat + 8 * r.val, data := headRecord x (x.state == .frozen) }
    s.modPort p fun q =>
      let q := q.setRing r { x with headPub := some now }
      if Ring.ie x && x.passed != was.1 then raiseCause q (Ring.vec x) s.clock.frame false else q

/-- Settles a ring's entries and moves its head. A frozen ring's failed entry is not done, so its head comes to that entry
and passes nothing from it on (05 R147, R152, log entry 59). -/
def settleRing (s : State) (p : Port) (r : RingN) : State :=
  let s := (s.ring p r).taken.foldl (settleEntry p r) s
  if (s.port p).cstate != .run then s else s.modRing p r Ring.advance

/-- A port's part of a commit point: replies, then heads, then events (04 R112, 05 R147). -/
def publishPort (s : State) (p : Port) : State :=
  if ¬ portEnabled s p then s
  else
    let s := allRings.foldl (fun s r => settleRing s p r) s
    let s := if (s.port p).cstate = .run then allRings.foldl (fun s r => publishHead s p r) s else s
    flushEvents s p

/-- Both ports' part of a commit point, and the records it raises. -/
def publish (s : State) : State := placeRaised (publishPort (publishPort s .a) .b)

/-! ## The frame's orders -/

/-- Orders a frame may still issue: at most 256 (12 R378). -/
def orderRoom (g : GateSt) : Nat := 256 - g.tags.length

/-- The digest of an order: the CRC-32C of its body (12 Table 12-2). -/
def orderDigest (x : Issued) : W32 := crc32c (padTo 64 (Config.orderBody x))

/-- The tag the holder gives an order of this frame, with the next index. -/
def tagFor (s : State) (g : GateSt) (wc priv : Bool) (x : Issued) : OrderTag :=
  { frame := BitVec.ofNat 20 s.clock.frame, index := BitVec.ofNat 8 g.tags.length, cx := s.cx.holder.getD s.cx.last,
    wc := wc, priv := priv, digest := orderDigest x }

/-- An order is issued, where the frame has room for it. -/
def issueTag (s : State) (wc priv : Bool) (x : Issued) (g : GateSt) : GateSt :=
  if orderRoom g = 0 then g else { g with tags := g.tags ++ [tagFor s g wc priv x] }

/-- Is it an order of the complexes? A host's register write is the port's own (00 R8). -/
def Order.counted : Order → Bool
  | .reg .. | .wrej .. | .d0 _ => false
  | _ => true

/-- The tag of a planned order, where it takes one. -/
def issueOrder (s : State) (o : Order) (g : GateSt) : GateSt :=
  if o.counted then issueTag s true false (.order o) g else g

/-- Plans a write-class order; one for which the frame has no room waits, ahead of the next frame's (12 R378). -/
def addOrder (s : State) (o : Order) : State :=
  { s with gate := { issueOrder s o s.gate with orders := s.gate.orders ++ [o] } }

/-- The first n counted orders, and what stands between them: the orders a commit point may release. -/
def issuedFirst : Nat → List Order → List Order
  | _, [] => []
  | n, o :: os =>
    if ¬ o.counted then o :: issuedFirst n os
    else match n with
      | 0 => issuedFirst 0 os
      | n + 1 => o :: issuedFirst n os

/-- The counted orders after the first n. -/
def issuedRest : Nat → List Order → List Order
  | _, [] => []
  | n, o :: os =>
    if ¬ o.counted then issuedRest n os
    else match n with
      | 0 => o :: issuedRest 0 os
      | n + 1 => issuedRest n os

/-- The write-class orders a frame has room for beside its reads and its privileged phases. -/
def gateRoom (g : GateSt) : Nat := 256 - (g.tags.filter fun t => !t.wc || t.priv).length

/-- The orders this frame's commit point releases, and those that wait for the next frame's (12 R378). -/
def issuedOrders (s : State) : List Order := issuedFirst (gateRoom s.gate) s.gate.orders
def deferredOrders (s : State) : List Order := issuedRest (gateRoom s.gate) s.gate.orders

/-- A frame begins (12 R378, R384): the phases of privileged actions that belong to it, and then what the frame before had
no room for, take the first indices. -/
def retag (s : State) : State :=
  let g := { s.gate with tags := [] }
  let g := (s.gate.priv.filter fun a => decide (a.frame < s.clock.frame)).foldl
    (fun g a => issueTag s true true (.exec a.act) g) g
  let g := (s.gate.priv.filter fun a => decide (a.frame = s.clock.frame)).foldl
    (fun g a => issueTag s true true (.prep a.act) g) g
  { s with gate := s.gate.orders.foldl (fun g o => issueOrder s o g) g }

/-- The commit marker (12 R379): the orders issued in the frame and the CRC-32C of their digests in index order. -/
def markerOf (s : State) : Marker :=
  { frame := BitVec.ofNat 20 s.clock.frame, count := s.gate.tags.length,
    digest := crc32c (s.gate.tags.flatMap fun t => leBytes 4 t.digest.toNat) }

/-- A register write observed now, which takes effect at the commit point (00 R8). -/
def addReg (s : State) (p : Port) (off : Nat) (v : W32) : State := addOrder s (.reg p off v)

/-- A refused register write: only the block's wrej flag sets, at the commit point. -/
def addWrej (s : State) (p : Port) (b : RegBlock) : State := addOrder s (.wrej p b)

/-- A privileged action: its PREP belongs to the frame that observes it (12 R384). -/
def addPriv (s : State) (a : PrivAct) : State :=
  { s with gate := { (if obsFrame s = s.clock.frame then issueTag s true true (.prep a) s.gate else s.gate) with
      priv := s.gate.priv ++ [{ act := a, frame := obsFrame s, epoch := s.cx.epoch, cx := s.cx.holder, orphan := false }] } }

/-- A fresh number for a member command or a shift. -/
def freshId (s : State) : Nat × State := (s.gate.nextId, { s with gate := { s.gate with nextId := s.gate.nextId + 1 } })

/-- R26's order of the ports in a frame: A first in even frames. -/
def portOrder (frame : Nat) : List Port := if frame % 2 = 0 then [.a, .b] else [.b, .a]

/-! ## Planned mode transitions (02 R40, R49) -/

/-- The rank of a trigger under R49. -/
def planRank (kind : PlanKind) (target : Mode) : Nat :=
  match kind with
  | .reset | .activate _ | .lifecycle _ => 40
  | .startEnd => 45
  | .plain =>
    match target with
    | .salvage => 50 | .degraded => 51 | .rebuild => 52 | .online => 53 | _ => 70
  | .unlock | .lock | .service | .leaveService => 60
  | .wake => 70

/-- Plans a transition. Of the triggers of one frame the highest ranked is acted on; a transition already under way is
not disturbed but where it still waits for I/O (02 R49). -/
def planMode (s : State) (target : Mode) (kind : PlanKind) (cause src slot : Nat) (ref : Option Ref) (waitIo : Bool) :
    State :=
  let m : ModePlan := { target := target, kind := kind, rank := planRank kind target, cause := BitVec.ofNat 8 cause,
                        src := BitVec.ofNat 4 src, slot := BitVec.ofNat 3 slot, frame := obsFrame s, ref := ref,
                        waitIo := waitIo }
  match s.mode.plan with
  | none => s.modMode fun x => { x with plan := some m }
  | some old =>
    if m.rank < old.rank ∧ (old.frame = obsFrame s ∨ old.waitIo) then s.modMode fun x => { x with plan := some m } else s

/-- Writes the new mode with its cause, entry frame and chg, and posts MODE_CHANGE and the MODE record (02 R42). -/
def enterMode (s : State) (target : Mode) (cause src slot : Nat) : State :=
  let s := s.modMode fun m =>
    { m with prior := m.mode, mode := target, cause := BitVec.ofNat 8 cause, src := BitVec.ofNat 4 src,
             slot := BitVec.ofNat 3 slot, entry := s.clock.frame, chg := true, pend := false, plan := none,
             idleSince := none }
  let s := s.raise { LogRec.base 0x002 0 0 with
    src := BitVec.ofNat 3 src, slot := BitVec.ofNat 3 slot,
    payload := [(modeStat s.mode s.fuse).toNat, (modeCause s.mode).toNat] }
  bothPorts.foldl (fun s p =>
    if (s.port p).cstate = .run then
      postEvent s p (Event.base s 0x0010
        (pack [(0, 16, (modeStat s.mode s.fuse).toNat % 2 ^ 16), (16, 8, s.mode.cause.toNat)]))
    else s) s

end Sys2Proof.Machine
end

