-- ==== Sys2Proof/Machine/Secure.lean ====
section
/-! DEFINITION. The shared operations of 11 and 13: the root store, buffers, zeroisation (R361), the hard wipe (R362), the
tamper latch (R357), device-level handling (R411, R412), and always-on comparators (02 R56). -/
namespace Sys2Proof.Machine

def rootWrite (s : State) (a : Nat) (bs : Bytes) : State := { s with root := s.root.write a bs }

/-- The image of a slot of the firmware store. -/
def imageOf (w : FwStore) : ImgSlot → Option FwImage
  | .a => w.a
  | .b => w.b
def otherSlot : ImgSlot → ImgSlot
  | .a => .b
  | .b => .a

/-- Fields of the root store (10 Table 10-4, 11 Table 11-11). -/
def rootUuid (s : State) : Bytes := s.root.read 0 16
def rollback (s : State) : Nat := leNat (s.root.read 0x10 4)
def splitWord (s : State) : Nat := leNat (s.root.read 0x14 2)
def sharesWord (s : State) : Nat := leNat (s.root.read 0x16 2)

/-- Shares of port A, port B and background in sixteenths; port B's go to A when it is disabled (01 R28). -/
def shareA (s : State) : Nat :=
  sharesWord s % 16 + (if s.supply.strap then 0 else sharesWord s / 16 % 16)
def shareB (s : State) : Nat := if s.supply.strap then sharesWord s / 16 % 16 else 0
def shareBg (s : State) : Nat := sharesWord s / 256 % 16

/-! ## Staging buffers (02 R57, 06 R192) -/

def bufOf (s : State) (idx : Nat) : Option Buf := if idx < 128 then none else s.staging.bufs[idx - 128]?

/-- Changes shared buffers by index, 128 to 511. -/
def modBufs (s : State) (f : Nat → Buf → Buf) : State :=
  let bufs := Vector.ofFn fun i : Fin 384 => f (i.val + 128) s.staging.bufs[i]
  { s with staging := { s.staging with bufs := bufs } }

def setBuf (s : State) (idx : Nat) (o : BufOwner) : State :=
  modBufs s fun i b => if i = idx then { b with owner := o } else b

/-- A buffer back in the free pool, its generation advanced (06 R192). -/
def Buf.freed (b : Buf) : Buf := { owner := .free, gen := b.gen + 1 }

/-- Returns to the free pool every buffer whose owner satisfies `f`. -/
def freeBufs (s : State) (f : BufOwner → Bool) : State := modBufs s fun _ b => if f b.owner then b.freed else b

/-- Returns one buffer to the free pool. -/
def freeBuf (s : State) (idx : Nat) : State := modBufs s fun i b => if i = idx then b.freed else b

/-- Indices of the free shared buffers, lowest first. -/
def freeIdx (s : State) : List Nat :=
  ((List.finRange 384).filter fun i => s.staging.bufs[i].owner == .free).map fun i => i.val + 128

/-- Indices of the shared buffers an owner has. -/
def ownedIdx (s : State) (o : BufOwner) : List Nat :=
  ((List.finRange 384).filter fun i => s.staging.bufs[i].owner == o).map fun i => i.val + 128

/-- Takes the n lowest free buffers for an owner. -/
def takeBufs (s : State) (n : Nat) (o : BufOwner) : State :=
  let is := (freeIdx s).take n
  modBufs s fun i b => if is.contains i then { b with owner := o } else b

/-! ## Always-on comparators (02 R56, Table 2-9) -/

/-- The comparator of a user (and object), by number. -/
def acmpOf (s : State) (user : BitVec 4) (obj : Nat) : Option Nat :=
  (List.range 4).find? fun i => match s.mode.acmp[i]? with
    | some (some a) => a.user == user && a.obj == obj
    | _ => false

def setAcmp (s : State) (n : Nat) (a : Option Acmp) : State :=
  s.modMode fun m => { m with acmp := Vector.ofFn fun i => if i.val = n then a else m.acmp[i] }

/-- Takes a comparator for a user: its own if it has one, else the lowest free one, else that of the lowest-ranked user
below it, whose feature is displaced and logged. `none`: all are held at its rank or above. DESIGN CHOICE (log entry 72):
of several comparators held at the same lowest rank the lowest-numbered is displaced, where R56 names none. -/
def takeAcmp (s : State) (user : BitVec 4) (target : Option Nat) (obj : Nat) : Option (Nat × State) :=
  let a : Acmp := { user := user, target := target, obj := obj }
  match acmpOf s user obj with
  | some n => some (n, setAcmp s n (some a))
  | none =>
    match (List.range 4).find? fun i => (s.mode.acmp.toList.getD i none).isNone with
    | some n => some (n, setAcmp s n (some a))
    | none =>
      let lowest := (List.range 4).foldl (fun best i =>
        match s.mode.acmp.toList.getD i none with
        | some x => if x.user.toNat > best.1 then (x.user.toNat, i) else best
        | none => best) (0, 0)
      if user.toNat < lowest.1 then
        some (lowest.2, logConflict (setAcmp s lowest.2 (some a)) 1 user.toNat lowest.1)
      else none

/-- Releases the comparators whose user satisfies `f`. -/
def dropAcmp (s : State) (f : Acmp → Bool) : State :=
  s.modMode fun m => { m with acmp := m.acmp.map fun a => match a with
    | some x => if f x then none else a
    | none => none }

/-! ## Zeroisation and the hard wipe -/

/-- R361: every key slot, register and pipeline is cleared, and bulk memory is unreadable. No record reaches the journal
from here (13 R417). -/
def zeroise (s : State) : State :=
  { s with keys := KeySt.init, staging := { s.staging with mem := [] }, bulk := { s.bulk with reads := [] },
           log := { s.log with held := true } }

/-- The bytes a hard wipe keeps: anti-rollback counter, engine split, shares, subsystem IDs, wipe record, tamper
configuration (11 R362). -/
def wipeKeeps (a : Nat) : Bool :=
  (decide (0x10 ≤ a) && decide (a < 0x1C)) || (decide (0x1440 ≤ a) && decide (a < 0x1490))

/-- The wipe record (11 Table 11-11). -/
def wipeRecord (state source lc target rtc : Nat) : Bytes :=
  leBytes 4 state ++ leBytes 1 source ++ leBytes 1 lc ++ leBytes 1 target ++ [0] ++ leBytes 8 rtc

/-- R362. A trip in Black, or LIFECYCLE to Red, records Red as the pending target. -/
def hardWipe (s : State) (source : Nat) (red : Bool) : State :=
  let lc := lifecycle s.fuse
  let target := if red || lc == .black then 3 else 0
  let s := rootWrite s 0x1440 (wipeRecord 1 source (lcCode lc) target s.clock.rtc)
  let s := { s with root := s.root.filter fun c => wipeKeeps c.1 }
  let s := rootWrite s 0x1440 (leBytes 4 2)
  { s with log := { s.log with wiped := true } }

/-- The commands R359 calls key operations. -/
def isKeyOp (e : Entry) : Bool :=
  let o := Entry.opcode e
  [0x20, 0x22, 0x23, 0x24, 0x27, 0x4A, 0x41].contains o || (o == 0x48 && Entry.plen e != 0)

/-- Fails every taken entry that is not done. -/
def failAll (s : State) (st : Entry → Status) : State :=
  let one := fun (q : PortSt) => { q with rings := q.rings.map fun x => { x with taken := x.taken.map fun t =>
    if t.stage = .finished ∨ t.done then t else { t with stage := .finished, status := st t.head, reply := [] } } }
  { s with portA := one s.portA, portB := one s.portB }

/-- The data path halts: nothing planned is released, member writes already released complete (13 R411, 11 Table
11-8), engines stop and their buffers return. -/
def haltData (s : State) : State :=
  let keepReg := fun o : Order => match o with
    | .reg .. => true
    | .wrej .. => true
    | _ => false
  let s := freeBufs s fun o => match o with
    | .engine _ => true
    | .releasing _ => true
    | _ => false
  { s with shifts := [], sbq := [], eng := EngSts.init, tags := { s.tags with folding := [] },
           gate := { s.gate with orders := s.gate.orders.filter keepReg, priv := [] } }

/-- Plans Lockdown in the hardware form of Table 2-2: visible at the next commit point (02 R40). -/
def planLockdown (s : State) (cause src : Nat) : State :=
  s.modMode fun m => { m with
    plan := some { target := .lockdown, kind := .plain, rank := 20,
                   cause := if s.err.dbl then 0x14 else BitVec.ofNat 8 cause,
                   src := BitVec.ofNat 4 src, slot := 7, frame := obsFrame s, ref := none, waitIo := false } }

/-! ## A halt of Start (03 R87) -/

/-- START_CODE keeps the first failure; later ones stand in the Start record (R90). -/
def startFailure (s : State) (st : Status) (blk : Nat) : State :=
  if s.start.status ≠ 0 then
    { s with start := { s.start with late := s.start.late ++ [(st, BitVec.ofNat 8 blk)] } }
  else { s with start := { s.start with status := st, blk := BitVec.ofNat 8 blk } }

/-- The PHYs go on, but those whose block failed (R78). -/
def enablePhys (s : State) : State :=
  let on := fun (q : PortSt) (c : Bool) => { q with phy := c, linkUp := q.linkUp && c }
  let s := s.modPort .a fun q => on q !s.start.failedPortA
  s.modPort .b fun q => on q (s.supply.strap && !s.start.failedPortB)

/-- The halt of R87: both complexes are held in reset, and no transition is planned. -/
def haltStart (s : State) : State :=
  let s := enablePhys { s with start := { s.start with halt := true, stage := .halted } }
  let s := s.modMode fun m => { m with plan := none }
  s.modCx fun c => { c with umber := .off, slate := .off, holder := none }

/-- Start has halted: only the loss of VIN ends this (R87). -/
def halted (s : State) : Bool := s.mode.mode == .start && s.start.halt

/-- Lockdown is planned. -/
def lockPlanned (s : State) : Bool := (s.mode.plan.map fun m => m.target == .lockdown).getD false

/-! ## Device-level errors (13 R409 to R412) -/

def devCode : DevErr → Nat
  | .integrityAlarm => 1 | .bothChecks => 2 | .simplexFault => 3 | .bothResigned => 4 | .gateParity => 5
  | .rootWord => 6 | .keyTable => 7

/-- The double fault (13 R412): zeroisation, both complexes in reset, its record kept in the intake, and Lockdown with
cause 0x14 at the next commit point (02 R40). -/
def doubleFault (s : State) (code : Nat) : State :=
  let s := zeroise s
  let s := { s with err := { s.err with dbl := true, second := BitVec.ofNat 8 code,
                                        first := if s.err.first = 0 then s.err.pendCode else s.err.first } }
  let s := s.modCx fun c => { c with umber := .off, slate := .off, holder := none, susp := none }
  let s := s.raise { LogRec.base 0x061 6 4 with payload := [s.err.first.toNat, code] }
  planLockdown { s with frz := { s.frz with trigger := none, armed := false } } 0x14 0

/-- Both complexes go through RELOAD when none plans any more (13 R411), but not after a double fault (13 R412). -/
def reloadBoth (s : State) : State :=
  if anyPlanning s.cx ∨ s.err.dbl then s
  else s.modCx fun c => { c with umber := .reload, slate := .reload, holder := none, susp := none, clean := 0 }

/-- A device-level error (13 R411): zeroisation, the data path halts, entries fail with MODE_ABORT, Lockdown at soft
depth; or the freeze it is armed for (R421); or a double fault (R412); or an addition to the first record (R410). In a
halt of Start no complex is left to handle it, and the halt stands (03 R87). -/
def deviceError (s : State) (e : DevErr) : State :=
  let code := devCode e
  if s.err.dbl ∨ s.mode.mode = .vault ∨ s.mode.mode = .freeze ∨ halted s then s
  else if s.err.opened then doubleFault s code
  else
    let dev := { LogRec.base 0x060 6 4 with payload := [code, (errStat s).toNat] }
    if s.mode.mode = .lockdown then s.raise { dev with adds := 1 }
    else
      let s := failAll (haltData (zeroise s)) fun _ => Status.modeAbort
      let s := s.raise dev
      let s := { s with err := { s.err with opened := true, pendCode := BitVec.ofNat 8 code } }
      let s := reloadBoth s
      if s.frz.armed ∧ s.frz.trig = 2 then
        { s with frz := { s.frz with trigger := some (2, s.clock.frame) } }
      else planLockdown s 0x16 (if code = 2 ∨ code = 3 ∨ code = 4 then 4 else 0)

/-! ## Tamper (11 R355 to R361) -/

def tamperCode : TamperSrc → Nat
  | .lidOpen => 1 | .lidDisc => 2 | .mesh => 3 | .vinHigh => 4 | .coreV => 5 | .temp => 6 | .clock => 7
  | .frzMisuse => 8 | .unlockLimit => 9

/-- Does the source act in this lifecycle (11 Table 11-7)? -/
def tamperActs (s : State) (src : TamperSrc) : Bool :=
  let lc := lifecycle s.fuse
  let fielded := lc == .grey || lc == .black
  match src with
  | .lidOpen | .lidDisc => fielded && lidArmed s.sec s.fuse
  | .mesh => fielded
  | .unlockLimit => fielded && s.sec.tampCfg.getLsbD 17
  | _ => true

/-- The depth of a source (11 R356). -/
def tamperHard (s : State) (src : TamperSrc) : Bool :=
  let lc := lifecycle s.fuse
  (lc == .grey || lc == .black) && s.sec.tampCfg.getLsbD (tamperCode src - 1)

/-- Does a source trip in the same frame, or the same sample of the always-on domain, as the one that set the latch (11
R356)? The lid and the mesh are sampled. -/
def sameTrip (s : State) (code : Nat) : Bool :=
  (s.supply.vin && s.sec.latchFrame == some s.clock.frame) ||
  (decide (s.sec.first.toNat ≤ 3) && decide (code ≤ 3) && s.sec.latchRtc == s.clock.rtc)

/-- The latch and its mirror (11 R357): the first source stands, the lowest code of those that trip together, and each is
recorded as seen (R356). -/
def latchTamper (s : State) (src : TamperSrc) : State :=
  let code := tamperCode src
  let together := sameTrip s code
  let s := s.modSec fun c =>
    { c with latch := true,
             first := if ¬ c.latch then BitVec.ofNat 8 code
               else if together then BitVec.ofNat 8 (min c.first.toNat code) else c.first,
             seen := c.seen ||| BitVec.ofNat 9 (2 ^ (code - 1)),
             latchRtc := if c.latch then c.latchRtc else s.clock.rtc,
             latchFrame := if c.latch then c.latchFrame else if s.supply.vin then some s.clock.frame else none }
  rootWrite s 0x14A0 (leBytes 1 1 ++ leBytes 1 s.sec.first.toNat ++ leBytes 2 s.sec.seen.toNat ++
    leBytes 8 s.sec.latchRtc)

/-- A record that adds to the first tamper's. -/
def addTamper (s : State) : State :=
  s.raise { LogRec.base 0x050 5 0 with
    adds := 1, payload := [(tampSrc s.sec).toNat, (secStat s.sec s.mode.hard s.fuse s.root).toNat] }

/-- The latch and its mirror are clear. -/
def clearLatch (s : State) : State :=
  rootWrite (s.modSec fun c => { c with latch := false, first := 0, seen := 0, latchRtc := 0, latchFrame := none })
    0x14A0 (zeros 12)

/-- A RESET is planned, and its commit point is still to come: the latch is not yet clear (11 R364). -/
def resetOpen (s : State) : Bool := s.gate.orders.any fun o => match o with
  | .act _ .clearLatch => true
  | _ => false

/-- A RESET is planned. -/
def resetPlanned (s : State) : Bool := (s.mode.plan.map fun m => m.kind == .reset).getD false

/-- A trip before the commit point of a RESET: it fails with CONFLICT (11 R375). -/
def failReset (s : State) : State :=
  if ¬ (resetPlanned s ∧ resetOpen s) then s
  else
    let ref := s.mode.plan.bind (·.ref)
    let s := { s.modMode (fun m => { m with plan := none, pend := false }) with
      gate := { s.gate with orders := s.gate.orders.filter fun o => match o with
        | .act _ .clearLatch => false
        | _ => true } }
    match ref with
    | some f => failEntry s f Status.conflict
    | none => s

/-- The response of Table 11-8. A halt of Start is left by the loss of VIN alone, so it goes on (03 R87). In soft Lockdown a
trip between the commit point of a RESET and its transition is one of the Start that follows (11 R375). -/
def tamperRespond (s : State) (src : TamperSrc) : State :=
  let hard := tamperHard s src
  let code := tamperCode src
  let wipe := fun s : State => if hard then hardWipe s code false else s
  let s := latchTamper s src
  match s.mode.mode with
  | .vault => { wipe s with pending := s.pending }
  | .freeze =>
    let z := wipe (zeroise s)
    { z with frz := { z.frz with ready := false, capDat := true, stopped := true } }
  | .lockdown =>
    if resetPlanned s ∧ ¬ resetOpen s then s else
    let s := failReset s
    if hard ∧ ¬ s.mode.hard then addTamper ((hardWipe (zeroise s) code false).modMode fun m => { m with hard := true })
    else addTamper s
  | .start =>
    if s.start.stage = .s1 ∨ s.start.stage = .h then s
    else if s.start.halt then wipe (zeroise s)
    else
      let s := wipe (haltData (zeroise s))
      planLockdown ({ s with err := { s.err with opened := true } }.modMode fun m => { m with hard := m.hard || hard }) 0x13 0
  | _ =>
    let s := wipe (haltData (zeroise s))
    let s := failAll s fun e => if isKeyOp e then Status.tamperAbort else Status.modeAbort
    let s := { s with frz := { s.frz with trigger := none }, err := { s.err with opened := true } }
    planLockdown (s.modMode fun m => { m with hard := m.hard || hard }) 0x13 0

/-- A tamper source trips (11 R355 to R358). During an open device-level handling the record is added. -/
def tamper (s : State) (src : TamperSrc) : State :=
  if ¬ tamperActs s src then s
  else tamperRespond s src

/-- What takes effect with Lockdown (11 R360, 13 R411): the events, the record, and the comparators released. -/
def enterLockdown (s : State) (cause src : Nat) : State :=
  let s := dropAcmp s fun a => a.user != 1
  let s := s.modSec fun c => { c with cwin := none }
  let s := { s with frz := { s.frz with armed := false, trigger := none } }
  let s :=
    if cause = 0x16 then
      let s := { s with err := { s.err with dev := true, first := s.err.pendCode, opened := false } }
      bothPorts.foldl (fun s p => if (s.port p).cstate = .run then
        postEvent s p (Event.base s 0x0031 (pack [(0, 8, s.err.first.toNat), (8, 3, 4)])) else s) s
    else if cause = 0x14 then
      let s := { s with err := { s.err with dev := true, opened := false } }
      bothPorts.foldl (fun s p => if (s.port p).cstate = .run then
        postEvent s p (Event.base s 0x0031 (pack [(0, 8, s.err.second.toNat), (8, 3, 4), (11, 1, 1)])) else s) s
    else if cause ≠ 0x13 then s
    else
      let s := { s with err := { s.err with opened := false } }
      let s := bothPorts.foldl (fun s p => if (s.port p).cstate = .run then
        postEvent s p (Event.base s 0x0030 (pack [(0, 8, s.sec.first.toNat), (8, 1, bit s.mode.hard)])) else s) s
      s.raise { LogRec.base 0x050 5 0 with
        payload := [(tampSrc s.sec).toNat, (secStat s.sec s.mode.hard s.fuse s.root).toNat] }
  enterMode s .lockdown cause src 7

end Sys2Proof.Machine
end

