-- ==== Sys2Proof/Machine/Regs.lean ====
section
/-! DEFINITION. Writes to BAR0 registers (04 R107 to R109 and the register rules of each block): what a write observed in
an Intake phase plans, what it does at the commit point (00 R8), and the commands of opcode_table.json that are such
writes. -/
namespace Sys2Proof.Machine

/-! ## Ring operations (05 R153 to R155) -/

/-- Resume-retry 1, resume-skip 2, reset 3: the states they are allowed in (05 R153). -/
def ringOpOk (x : Ring) (op : Nat) : Bool :=
  match op with
  | 1 | 2 => x.state == .frozen
  | 3 => x.state == .run || x.state == .frozen
  | _ => false

/-- Was an entry of the command never fetched: its poll data came poisoned twice (04 Table 4-10)? -/
def unfetched (t : Taken) : Bool := t.entries.any fun e => e.dw.isEmpty

/-- The failed entry of a frozen ring: fetched again, or counted as done (05 R154). One that was never fetched whole is
the last taken, and leaves the ring to be polled as if it had not been seen. -/
def resumeTaken (x : Ring) (op : Nat) (t : Taken) : Option Taken :=
  if t.i = x.errIndex.toNat ∧ ¬ t.done then
    (if op = 1 then (if unfetched t then none else
        some { t with stage := .refetch, param := none, data := [], items := [], seqs := [], status := 0,
                      reply := [], committed := false, pressed := false, issued := none })
     else some { t with stage := .finished, done := true })
  else some t

/-- A reset discards what it does not execute: the failed entry of a frozen ring (05 R165), and one that was still to be
fetched again. -/
def resetTaken (x : Ring) (t : Taken) : Taken :=
  if t.done then t
  else if t.stage = .refetch ∨ t.stage = .retake ∨ (x.state = .frozen ∧ t.i = x.errIndex.toNat) then
    { t with stage := .dropped }
  else t

/-- A ring operation at its commit point: a resume discards the known entries and returns the ring to RUN (05 R154); a
reset stops it from taking entries (05 R155), and leaves it DISABLED after a delete (06 R182). -/
def ringOp (s : State) (p : Port) (r : RingN) (op : Nat) (delete : Bool) : State :=
  s.modRing p r fun x =>
    if ¬ ringOpOk x op then x
    else if op = 3 then { x with state := .resetting, known := [], polling := none, deleting := delete,
                                 taken := x.taken.map (resetTaken x) }
    else { x with state := .run, known := [], polling := none, badCheck := none, poisonOnce := false, freezeRec := 0,
                  taken := x.taken.filterMap (resumeTaken x op), nextPoll := s.clock.frame + 1 }

/-! ## AUX functions (02 R53, R54, Table 2-8) -/

/-- The rank of an AUX function. -/
def auxRank (c : Nat) : Nat := [6, 9, 7, 5, 4, 8, 10, 3, 2, 1].idxOf c + 1

/-- Is the pin eligible for the function? -/
def auxEligible (c pin : Nat) : Bool :=
  if c = 9 then pin != 0 else if c = 7 then pin == 0 else true

/-- The pin AUX_PIN selects for a function. -/
def auxPinOf (pins : BitVec 20) (c : Nat) : Nat := (pins.extractLsb' (2 * c - 2) 2).toNat

/-- The functions requested on a pin, by enable bits and pin selection. -/
def auxWanting (en : BitVec 10) (pins : BitVec 20) (pin : Nat) : List Nat :=
  [6, 9, 7, 5, 4, 8, 10, 3, 2, 1].filter fun c =>
    en.getLsbD (c - 1) && auxPinOf pins c == pin && auxEligible c pin

/-- The owner of a pin: the highest-ranked function that wants it; 0 if none. -/
def auxWinner (en : BitVec 10) (pins : BitVec 20) (pin : Nat) : Nat := (auxWanting en pins pin).headD 0

/-- The conflict events of one pin, held by `old` and now owned by `new` (02 R53): a displacement by a higher rank, and each
request that finds the pin held at a higher rank. A register write has no status to carry CONFLICT. A function that is
refused a free pin has never held it and logs nothing (02 R63). -/
def auxConflicts (s : State) (old new : Nat) (wants : List Nat) : State :=
  if old = 0 then s
  else
    let s := if new ≠ old ∧ wants.contains old then logConflict s 0 new old else s
    (wants.filter fun c => c != new && c != old && decide (auxRank old < auxRank c)).foldl
      (fun s c => logConflict s 0 (if wants.contains old then new else old) c) s

/-- Enables and pins take effect: each pin goes to the highest rank, and every other enable reads 0, that of a function on a
pin it is not eligible for among them (02 R53, R54, R63). -/
def applyAux (s : State) (en : BitVec 10) (pins : BitVec 20) : State :=
  let win := (List.range 4).map (auxWinner en pins)
  let en' := BitVec.ofNat 10 ((win.filter (· != 0)).map (fun c => 2 ^ (c - 1))).sum
  let s := (List.range 4).foldl (fun s pin =>
    auxConflicts s (s.mode.auxOwn.toList.getD pin 0).toNat (win.getD pin 0) (auxWanting en pins pin)) s
  s.modMode fun m => { m with auxEn := en', auxPin := pins,
                              auxOwn := Vector.ofFn fun i : Fin 4 => BitVec.ofNat 4 (win.getD i.val 0) }

/-- What an output function drives while it owns a pin (Table 2-8); `none` for the inputs. -/
def auxLevel (s : State) : Nat → Option Bool
  | 0x6 => some s.sec.latch
  | 0x9 => some s.frz.armed
  | 0x5 => some s.sec.cwin.isSome
  | 0x4 => some (s.mode.mode == .degraded || s.mode.mode == .salvage || s.mode.mode == .lockdown)
  | 0x8 => some (s.mode.mode == .drowse)
  | 0xA => some (s.mode.locate != 0)
  | 0x3 => some (s.morders.any fun o => o.sent.isSome)
  | 0x1 => some s.mode.gpioOut
  | _ => none

/-- What the device drives on an AUX pin: `none` is high impedance, which a pin without an owner and an input have (02 R54,
R55). -/
def auxDrives (s : State) (pin : Fin 4) : Option Bool := auxLevel s s.mode.auxOwn[pin.val].toNat

/-! ## Where writes are accepted -/

/-- Does the port's link carry anything? -/
def linkLive (s : State) (p : Port) : Bool :=
  portEnabled s p && (s.port p).linkUp && s.mode.mode != .freeze && s.mode.mode != .vault

/-- Do writes reach BAR0 at this offset? Not without a link, in Vault or Freeze, in D3hot (04 R118), nor outside the PORT
block of a contained port (04 Table 4-11), nor while Memory Space is 0 (log entry 12); before release and in a halt only
in the MODE block (03 R78). -/
def regOpen (s : State) (p : Port) (off : Nat) : Bool :=
  linkLive s p && (s.port p).cfg.mse && off % 4 == 0 && !(s.port p).d3 &&
  (blocksOpen s || (decide (0x100 ≤ off) && decide (off < 0x140))) &&
  ((s.port p).cstate == .run || decide (off < 0x100))

/-- In Service, or in lifecycle Grey (02 R50, 08 R255, 12 R401). -/
def cfgOpen (s : State) : Bool := s.mode.mode == .service || lifecycle s.fuse == .grey

/-- In lifecycle Grey in Service mode (11 R368). -/
def secOpen (s : State) : Bool := s.mode.mode == .service && lifecycle s.fuse == .grey

/-- STG_LIMIT's range (02 R52). -/
def stgLimitOk (s : State) (v : W32) : Bool :=
  if s.supply.strap then decide (field v 0 9 + field v 16 9 ≤ 352) else decide (field v 0 9 ≤ 352)

/-- LID_CFG and CONF_CFG ranges (11 Table 11-10). -/
def lidCfgOk (v : W32) : Bool := decide (4 ≤ field v 0 8) && decide (field v 0 8 ≤ 250)
def confCfgOk (v : W32) : Bool :=
  decide (20 ≤ field v 0 9) && decide (field v 0 9 ≤ 500) && decide (1 ≤ field v 16 8)

/-- PORT_REL: guard and go, in HOLD with the link up, not in Freeze or Lockdown, not already requested (04 R124). -/
def relOk (s : State) (p : Port) : Bool :=
  let q := s.port p
  q.cstate == .hold && q.linkUp && s.mode.mode != .freeze && s.mode.mode != .lockdown && q.relReq.isNone

/-- What the device decides about a write when it observes it. -/
inductive RegVerdict where
  | ignore            -- read-only, reserved: no effect, no error (00 R6, R7)
  | accept            -- takes effect at the commit point
  | reject (b : RegBlock)
  | release           -- requests release from containment
  | prefetch          -- invalidates the port's prefetched entries now (08 R252)
  | lease             -- a privileged action (12 R384)
deriving DecidableEq, Repr

def acceptIf (c : Bool) (b : RegBlock) : RegVerdict := if c then .accept else .reject b

/-- The ring of a QREG group offset. -/
def qregRing (off : Nat) : Option RingN :=
  if h : 0x1100 ≤ off ∧ off < 0x1900 then some ⟨(off - 0x1100) / 32, by omega⟩ else none

/-- The QREG block (05 R133, R153, Tables 5-8 and 5-9). -/
def qregVerdict (s : State) (p : Port) (off : Nat) (v : W32) : RegVerdict :=
  let q := s.port p
  match off with
  | 0x1000 | 0x100C | 0x1010 | 0x1014 | 0x102C => .accept
  | 0x1020 | 0x1024 => acceptIf (!evEnabled q) .qreg
  | 0x1028 => acceptIf (!evEnabled q && decide (field v 1 4 ≤ 8)) .qreg
  | _ =>
    match qregRing off with
    | none => .ignore
    | some r =>
      let x := q.ring r
      match (off - 0x1100) % 32 with
      | 0x00 | 0x04 | 0x0C => if r = 0 then acceptIf (!x.cfg.getLsbD 0) .qreg else .ignore
      | 0x08 => if r = 0 then acceptIf (!x.cfg.getLsbD 0 && decide (field v 1 4 ≤ 8)) .qreg else .ignore
      | 0x18 => acceptIf (field v 8 8 == 0xC3 && ringOpOk x (field v 0 2)) .qreg
      | _ => .ignore

/-- What a write of `v` at `off` from port p is (the register tables of each block). -/
def regVerdict (s : State) (p : Port) (off : Nat) (v : W32) : RegVerdict :=
  match off with
  | 0x0004 => .accept
  | 0x0008 => if field v 0 16 = 0xA55A ∧ v.getLsbD 16 ∧ relOk s p then .release else .reject .port
  | 0x000C => acceptIf (decide (8 ≤ field v 0 8) && decide (field v 0 8 ≤ 128)) .port
  | 0x0020 => acceptIf (decide (1 ≤ field v 0 8)) .port
  | 0x0100 => .accept
  | 0x0110 => acceptIf (field v 8 8 == 0x5A) .mode
  | 0x0114 => acceptIf (s.mode.mode != .start) .mode
  | 0x0118 | 0x011C => acceptIf (cfgOpen s) .mode
  | 0x012C => acceptIf (cfgOpen s && stgLimitOk s v) .mode
  | 0x2000 | 0x2004 => .accept
  | 0x4000 => acceptIf (v.getLsbD 5) .err
  | 0x5000 => .accept
  | 0x5040 => if field v 8 8 = 0x96 ∧ v.getLsbD 0 then .prefetch else .reject .cache
  | 0x6000 | 0x6024 => .accept
  | 0x6010 => acceptIf (secOpen s) .sec
  | 0x6014 => acceptIf (secOpen s && lidCfgOk v) .sec
  | 0x6018 => acceptIf (secOpen s && confCfgOk v) .sec
  | 0x7000 => acceptIf (v.getLsbD 11) .hlth
  | 0x700C => if cfgOpen s ∧ 8 ≤ field v 0 8 then .lease else .reject .hlth
  | _ =>
    if 0x1000 ≤ off ∧ off < 0x2000 then qregVerdict s p off v
    else if 0x2040 ≤ off ∧ off < 0x20C0 then .accept
    else if 0x3000 ≤ off ∧ off < 0x3200 then .accept
    else if 0x4000 ≤ off ∧ off < 0x5000 then .reject .err
    else if 0x5010 ≤ off ∧ off < 0x5028 then acceptIf (cfgOpen s) .cache
    else if 0x7000 ≤ off ∧ off < 0x8000 then .reject .hlth
    else .ignore

/-- Known entries are discarded and fetched again, and what polls under way bring is dropped (05 R144, 08 R252). -/
def dropKnown (q : PortSt) : PortSt :=
  { q with rings := q.rings.map fun x => { x with known := [], polling := none },
           reads := q.reads.filter fun r => match r.owner with
             | .poll _ => r.tag.isSome
             | .entry _ => true }

/-- A register write observed in an Intake phase (00 R8). -/
def observeReg (s : State) (p : Port) (off : Nat) (v : W32) : State :=
  match regVerdict s p off v with
  | .ignore => s
  | .accept => addReg s p off v
  | .reject b => addWrej s p b
  | .release => s.modPort p fun q => { q with relReq := some (obsFrame s, none) }
  | .prefetch => s.modPort p dropKnown
  | .lease => addPriv s (.hlthCfg v)

/-- Has the frame's Intake phase passed, so that the next one observes what a host writes now (01 Table 1-2)? -/
def intakePast (s : State) : Bool := s.clock.phase == .plan || s.clock.phase == .dispatch

/-- A write that comes after the frame's Intake phase waits for the next one. -/
def addLate (s : State) (a : HostAct) : State := { s with gate := { s.gate with late := s.gate.late ++ [a] } }

/-- A register write of a host: observed in the Intake phase that runs, or in the next one (00 R8, R15). It is a TLP of the
port (04 R117). -/
def writeReg (s : State) (p : Port) (off : Nat) (v : W32) : State :=
  if ¬ regOpen s p off then s
  else
    let s := s.modPort p (sawTlp s.clock.frame)
    if intakePast s then addLate s (.reg p off v) else observeReg s p off v

/-! ## What an accepted write does at the commit point -/

def setLo (b : BitVec 64) (v : W32) : BitVec 64 := b.extractLsb' 32 32 ++ v
def setHi (b : BitVec 64) (v : W32) : BitVec 64 := v ++ b.extractLsb' 0 32

/-- A write to an MSI-X entry, or to the MSI-X Message Control (04 R114). -/
def applyMsix (q : PortSt) (vec : VecN) (w : MsixWrite) : PortSt :=
  let e := q.msix[vec.val]
  match w with
  | .addrLo v => { q with msix := q.msix.set vec.val { e with addr := setLo e.addr (v &&& 0xFFFFFFFC) } }
  | .addrHi v => { q with msix := q.msix.set vec.val { e with addr := setHi e.addr v } }
  | .data v => { q with msix := q.msix.set vec.val { e with data := v } }
  | .ctrl m => { q with msix := q.msix.set vec.val { e with masked := m } }
  | .functionMask m => { q with cfg := { q.cfg with funcMask := m } }
  | .enable m => { q with cfg := { q.cfg with msixEn := m } }

/-- The MSI-X table write a BAR0 offset and value stand for. -/
def msixAt (off : Nat) (v : W32) : MsixWrite :=
  match (off - 0x3000) % 16 with
  | 0x0 => .addrLo v
  | 0x4 => .addrHi v
  | 0x8 => .data v
  | _ => .ctrl (v.getLsbD 0)

/-- Ring 0's QCFG: enable, depth, vector and ie are writable; setting the enable makes the ring active (05 R133). -/
def enableRing0 (x : Ring) (v : W32) (frame : Nat) : Ring :=
  let cfg := (v &&& 0x03F0001F) ||| 0x2020
  if v.getLsbD 0 then
    { Ring.init with cfg := cfg, base := x.base, poll := x.poll, state := .run, nextPoll := frame + 1 }
  else { x with cfg := cfg }

/-- The QREG block's writes. -/
def applyQreg (s : State) (p : Port) (off : Nat) (v : W32) : State :=
  match off with
  | 0x1000 => s.modPort p fun q => { q with qwrej := q.qwrej && !v.getLsbD 9 }
  | 0x100C => s.modPort p fun q => { q with headBase := setLo q.headBase (v &&& 0xFFFFFE00) }
  | 0x1010 => s.modPort p fun q => { q with headBase := setHi q.headBase v }
  | 0x1014 => s.modPort p fun q => { q with qback := v }
  | 0x1020 => s.modPort p fun q => { q with evBase := setLo q.evBase (v &&& 0xFFFFFFE0) }
  | 0x1024 => s.modPort p fun q => { q with evBase := setHi q.evBase v }
  | 0x1028 => s.modPort p fun q => { q with evCfg := v &&& 0x1F1F }
  | 0x102C => s.modPort p fun q => { q with evDoneIdx := v.extractLsb' 0 12, evDonePhase := v.getLsbD 12 }
  | _ =>
    match qregRing off with
    | none => s
    | some r =>
      match (off - 0x1100) % 32 with
      | 0x00 => s.modRing p r fun x => { x with base := setLo x.base (v &&& 0xFFFFFFC0) }
      | 0x04 => s.modRing p r fun x => { x with base := setHi x.base v }
      | 0x08 => s.modRing p r fun x => enableRing0 x v s.clock.frame
      | 0x0C => s.modRing p r fun x => { x with poll := v &&& 0xFFF }
      | 0x18 => ringOp s p r (field v 0 2) false
      | _ => s

/-- An accepted register write takes effect (00 R8). -/
def applyReg (s : State) (p : Port) (off : Nat) (v : W32) : State :=
  match off with
  | 0x0004 => s.modPort p fun q => { q with wrej := q.wrej && !v.getLsbD 4 }
  | 0x000C => s.modPort p fun q => { q with ordLimit := v.extractLsb' 0 8 }
  | 0x0020 => s.modPort p fun q => { q with pwrIdle := v.extractLsb' 0 8 }
  | 0x0100 => s.modMode fun m => { m with chg := m.chg && !v.getLsbD 17, wrej := m.wrej && !v.getLsbD 18 }
  | 0x0110 => s.modPort p fun q => { q with vote := v.getLsbD 0 }
  | 0x0114 => s.modMode fun m => { m with drowseIdle := v.extractLsb' 0 16, idleSince := none }
  | 0x012C => s.modMode fun m => { m with lima := v.extractLsb' 0 9,
                                          limb := if s.supply.strap then v.extractLsb' 16 9 else m.limb }
  | 0x2000 => s.modPort p fun q => { q with intStat := q.intStat &&& ~~~v }
  | 0x2004 => s.modPort p fun q => { q with intMask := v }
  | 0x4000 => { s with err := { s.err with wrej := false } }
  | 0x5000 => { s with cache := { s.cache with wrej := s.cache.wrej && !v.getLsbD 0 } }
  | 0x6000 => s.modSec fun c => { c with wrej := c.wrej && !v.getLsbD 7 }
  | 0x6024 => s.modSec fun c =>
    { c with lflt := c.lflt && (!v.getLsbD 8 || c.lfltAt == s.clock.frame),
             cflt := c.cflt && (!v.getLsbD 9 || c.cfltAt == s.clock.frame) }
  | 0x6010 =>
    let s := s.modSec fun c => { c with tampCfg := v.extractLsb' 0 18 &&& 0x301FF }
    rootWrite s 0x1480 (leBytes 4 s.sec.tampCfg.toNat)
  | 0x6014 =>
    let s := s.modSec fun c => { c with lidCfg := v.extractLsb' 0 8 }
    rootWrite s 0x1484 (leBytes 4 s.sec.lidCfg.toNat)
  | 0x6018 =>
    let s := s.modSec fun c => { c with confDisc := v.extractLsb' 0 9, confWin := v.extractLsb' 16 8 }
    rootWrite s 0x1488 (leBytes 4 (confCfgReg s.sec).toNat)
  | 0x7000 => s.modCx fun c => { c with wrej := false }
  | _ =>
    if 0x1000 ≤ off ∧ off < 0x2000 then applyQreg s p off v
    else if h : 0x2040 ≤ off ∧ off < 0x20C0 then
      s.modPort p fun q =>
        { q with coal := q.coal.set ((off - 0x2040) / 4)
                   { count := v.extractLsb' 0 8, time := v.extractLsb' 8 12 } (by omega) }
    else if h : 0x3000 ≤ off ∧ off < 0x3200 then
      s.modPort p fun q => applyMsix q ⟨(off - 0x3000) / 16, by omega⟩ (msixAt off v)
    else if h : 0x5010 ≤ off ∧ off < 0x5028 then
      let c : ClassN := ⟨(off - 0x5010) / 4, by omega⟩
      { s with cache := { s.cache with cmaskNext := s.cache.cmaskNext ++ [(c, v.extractLsb' 0 16)] } }
    else s

/-- Sets a block's write-rejection flag: the hardware set wins (00 R14). -/
def setWrej (s : State) (p : Port) (b : RegBlock) : State :=
  match b with
  | .port => s.modPort p fun q => { q with wrej := true }
  | .mode => s.modMode fun m => { m with wrej := true }
  | .qreg => s.modPort p fun q => { q with qwrej := true }
  | .err => { s with err := { s.err with wrej := true } }
  | .cache => { s with cache := { s.cache with wrej := true } }
  | .sec => s.modSec fun c => { c with wrej := true }
  | .hlth => s.modCx fun c => { c with wrej := true }

/-! ## The commands -/

abbrev Result := Host.Outcome State Fault Refusal

/-- QCTL of ring r (05 R153). -/
def qctlOff (r : RingN) : Nat := 0x1118 + 32 * r.val

/-- A write to QCTL[r] whose value names the operation `op`; with another op the row's write did not happen. -/
def writeQctl (s : State) (p : Port) (r : RingN) (op : Nat) (v : W32) : State :=
  if field v 0 2 = op then writeReg s p (qctlOff r) v else s

def execQctlResumeRetry (p : Port) (r : RingN) (v : W32) (s : State) : Result := .next (writeQctl s p r 1 v)
def execQctlResumeSkip (p : Port) (r : RingN) (v : W32) (s : State) : Result := .next (writeQctl s p r 2 v)
def execQctlReset (p : Port) (r : RingN) (v : W32) (s : State) : Result := .next (writeQctl s p r 3 v)

/-- A write to ring 0's QCFG (05 R133). -/
def execRing0Enable (p : Port) (v : W32) (s : State) : Result := .next (writeReg s p 0x1108 v)
/-- A write to EVQ_CFG (05 R133). -/
def execEvqEnable (p : Port) (v : W32) (s : State) : Result := .next (writeReg s p 0x1028 v)
/-- A write to EVQ_DONE (05 R158). -/
def execEvqDoneWrite (p : Port) (v : W32) (s : State) : Result := .next (writeReg s p 0x102C v)
/-- PFINV (08 R252, R255). -/
def execPfinvWrite (p : Port) (v : W32) (s : State) : Result := .next (writeReg s p 0x5040 v)
/-- CMASK[c] (08 R253, R255). -/
def execCmaskWrite (p : Port) (c : ClassN) (v : W32) (s : State) : Result := .next (writeReg s p (0x5010 + 4 * c.val) v)
/-- MODE_REQ (02 Table 2-6). -/
def execModeReqWrite (p : Port) (v : W32) (s : State) : Result := .next (writeReg s p 0x0110 v)
/-- DROWSE_IDLE (02 R50). -/
def execDrowseIdleWrite (p : Port) (v : W32) (s : State) : Result := .next (writeReg s p 0x0114 v)
/-- AUX_EN (02 R54). -/
def execAuxEnWrite (p : Port) (v : W32) (s : State) : Result := .next (writeReg s p 0x0118 v)
/-- STG_LIMIT (02 R52). -/
def execStgLimitWrite (p : Port) (v : W32) (s : State) : Result := .next (writeReg s p 0x012C v)
/-- PORT_REL (04 R124). -/
def execPortRelWrite (p : Port) (v : W32) (s : State) : Result := .next (writeReg s p 0x0008 v)
/-- PORT_ORD (04 R109). -/
def execPortOrdWrite (p : Port) (v : W32) (s : State) : Result := .next (writeReg s p 0x000C v)
/-- PORT_PWR (04 R109). -/
def execPortPwrWrite (p : Port) (v : W32) (s : State) : Result := .next (writeReg s p 0x0020 v)
/-- INT_STAT, W1C (04 R115). -/
def execIntStatWrite (p : Port) (v : W32) (s : State) : Result := .next (writeReg s p 0x2000 v)
/-- INT_MASK (04 R113). -/
def execIntMaskWrite (p : Port) (v : W32) (s : State) : Result := .next (writeReg s p 0x2004 v)
/-- INT_COAL[v] (04 R131). -/
def execIntCoalWrite (p : Port) (vec : VecN) (v : W32) (s : State) : Result :=
  .next (writeReg s p (0x2040 + 4 * vec.val) v)
/-- Does the port serve a configuration write: its link is up, and no FLR is under way (04 R120)? -/
def configOpen (s : State) (p : Port) : Bool :=
  linkLive s p && !(s.port p).crs

/-- An MSI-X table write queues the register write; Message Control is configuration space and acts at once (04 R114). -/
def execMsixVectorWrite (p : Port) (vec : VecN) (w : MsixWrite) (s : State) : Result :=
  let off := 0x3000 + 16 * vec.val
  .next (match w with
    | .addrLo v => writeReg s p off v
    | .addrHi v => writeReg s p (off + 4) v
    | .data v => writeReg s p (off + 8) v
    | .ctrl m => writeReg s p (off + 12) (if m then 1 else 0)
    | w => if configOpen s p then s.modPort p fun q => applyMsix (sawTlp s.clock.frame q) vec w else s)
/-- TAMP_CFG (11 R368). -/
def execTampCfgWrite (p : Port) (v : W32) (s : State) : Result := .next (writeReg s p 0x6010 v)
/-- LID_CFG (11 R368). -/
def execLidCfgWrite (p : Port) (v : W32) (s : State) : Result := .next (writeReg s p 0x6014 v)
/-- CONF_CFG (11 R368). -/
def execConfCfgWrite (p : Port) (v : W32) (s : State) : Result := .next (writeReg s p 0x6018 v)
/-- HLTH_CFG (12 R401). -/
def execHlthCfgWrite (p : Port) (v : W32) (s : State) : Result := .next (writeReg s p 0x700C v)

/-- A write to configuration space (04 R103, R105; places as PCI Express has them, log entry 12). Bus Master Enable,
PowerState, Initiate FLR and MSI-X's Message Control have commands of their own and keep their values here. -/
def writeConfig (q : PortSt) (off : Nat) (v : W32) : PortSt :=
  let c := q.cfg
  let put := fun c : CfgSpace => { q with cfg := c }
  match off with
  | 0x004 => { q with cfg := { c with mse := v.getLsbD 1, perr := v.getLsbD 6, serr := v.getLsbD 8,
                                      intxDis := v.getLsbD 10 },
                      pciStat := q.pciStat &&& ~~~(v.extractLsb' 16 16) }
  | 0x010 => put { c with bar0 := setLo c.bar0 (v &&& 0xFFFF0000 ||| 4) }
  | 0x014 => put { c with bar0 := setHi c.bar0 v }
  | 0x03C => put { c with intLine := v.extractLsb' 0 8 }
  | 0x058 => { q with cfg := { c with errRep := v.extractLsb' 0 4, roEn := v.getLsbD 4, mps := v.extractLsb' 5 3,
                                      extTag := v.getLsbD 8, nsEn := v.getLsbD 11, mrrs := v.extractLsb' 12 3 },
                      devStat := q.devStat &&& ~~~(v.extractLsb' 16 4) }
  | 0x060 => put { c with aspmL1 := v.getLsbD 1, linkCtl := v.extractLsb' 0 16 &&& 0x01C0 }
  | 0x078 => put { c with cto := v.extractLsb' 0 4, idoReq := v.getLsbD 8, idoCpl := v.getLsbD 9, ltrEn := v.getLsbD 10 }
  | 0x104 => { q with aerUnc := q.aerUnc &&& ~~~v }
  | 0x108 => put { c with uncMask := v }
  | 0x10C => put { c with uncSev := v }
  | 0x110 => { q with aerCor := q.aerCor &&& ~~~v }
  | 0x114 => put { c with corMask := v }
  | 0x118 => put { c with ecrcGen := v.getLsbD 6, ecrcChk := v.getLsbD 8 }
  | 0x14C => put { c with maxSnoop := v.extractLsb' 0 16 &&& 0x1FFF, maxNoSnoop := v.extractLsb' 16 16 &&& 0x1FFF }
  | 0x158 => put { c with l12En := v.getLsbD 2, l11En := v.getLsbD 3,
                          l12Thr := v.extractLsb' 29 3 ++ v.extractLsb' 16 10 }
  | 0x1A8 => put { c with margin := c.margin.set 0 (v.extractLsb' 0 16) }
  | 0x1AC => put { c with margin := c.margin.set 1 (v.extractLsb' 0 16) }
  | 0x1B0 => put { c with margin := c.margin.set 2 (v.extractLsb' 0 16) }
  | 0x1B4 => put { c with margin := c.margin.set 3 (v.extractLsb' 0 16) }
  | _ => q

/-- The lanes of a port (R99). -/
def portLanes (s : State) : Nat := if s.supply.strap then 2 else 4

/-- What a lane's margining status shows for its control word: the command mirrored, and the payload where Table 4-3 gives
it: no capability bit, no voltage steps, 16 timing steps (PRESUMED: the places of PCI Express, log entry 12). -/
def marginStatus (c : BitVec 16) : Option (BitVec 16) :=
  let pay := (c.extractLsb' 8 8).toNat
  let put := fun x : Nat => some (BitVec.ofNat 8 x ++ c.extractLsb' 0 8)
  if (c.extractLsb' 3 3).toNat = 7 then put 0
  else if (c.extractLsb' 3 3).toNat ≠ 1 then none
  else match pay with
    | 0x88 | 0x89 => put 0
    | 0x8A => put 16
    | _ => none

/-- A lane's word in the margining capability, where the port has the lane. -/
def marginWord (s : State) (c : CfgSpace) (lane : Fin 4) : Option W32 :=
  if portLanes s ≤ lane.val then some 0
  else (marginStatus c.margin[lane.val]).map fun x => x ++ c.margin[lane.val]

/-- What a configuration read of a doubleword gives (Tables 4-2 and 4-3); `none` while the port does not answer, and where
neither the tables nor State give the value (the lanes' equalization results, a margining payload). PRESUMED: the places
of the fields within a capability (log entry 12). -/
def configRead (s : State) (p : Port) (off : Nat) : Option W32 :=
  let q := s.port p
  let c := q.cfg
  if ¬ configOpen s p then none
  else match off with
  | 0x000 => some 0x06361D9B
  | 0x004 => some (pack [(1, 1, bit c.mse), (2, 1, bit c.bme), (6, 1, bit c.perr), (8, 1, bit c.serr),
                         (10, 1, bit c.intxDis), (19, 1, bit q.intx), (20, 1, 1)] |||
                   (q.pciStat &&& 0xF900) ++ (0 : BitVec 16))
  | 0x008 => some 0x01040001
  | 0x00C | 0x018 | 0x01C | 0x020 | 0x024 | 0x028 | 0x030 | 0x038 => some 0
  | 0x010 => some (lo32 c.bar0.toNat)
  | 0x014 => some (hi32 c.bar0.toNat)
  | 0x02C => some (c.subId ++ c.subVendor)
  | 0x034 => some 0x40
  | 0x03C => some (0x0100 ||| c.intLine.setWidth 32)
  | 0x040 => some 0x00035001
  | 0x044 => some (pack [(0, 2, if q.d3 then 3 else 0), (3, 1, 1)])
  | 0x050 => some 0x0002B010
  | 0x054 => some 0x10008021
  | 0x058 => some (pack [(0, 4, c.errRep.toNat), (4, 1, bit c.roEn), (5, 3, c.mps.toNat), (8, 1, bit c.extTag),
                         (11, 1, bit c.nsEn), (12, 3, c.mrrs.toNat), (16, 4, q.devStat.toNat),
                         (21, 1, bit (!q.reads.isEmpty))])
  | 0x060 => some (pack [(1, 1, bit c.aspmL1), (6, 3, c.linkCtl.toNat / 64), (16, 4, q.linkSpeed.toNat),
                         (20, 6, q.linkWidth.toNat), (28, 1, bit q.refclk)])
  | 0x05C => some (0x00460804 ||| pack [(4, 6, if s.supply.strap then 2 else 4)])
  | 0x074 => some 0x00000803
  | 0x078 => some (pack [(0, 4, c.cto.toNat), (8, 1, bit c.idoReq), (9, 1, bit c.idoCpl), (10, 1, bit c.ltrEn)])
  | 0x07C => some 0x0000001E
  | 0x0B0 => some (0x001F0011 ||| pack [(30, 1, bit c.funcMask), (31, 1, bit c.msixEn)])
  | 0x0B4 => some 0x3000
  | 0x0B8 => some 0x3800
  | 0x100 => some 0x14820001
  | 0x104 => some q.aerUnc
  | 0x108 => some c.uncMask
  | 0x10C => some c.uncSev
  | 0x110 => some q.aerCor
  | 0x114 => some c.corMask
  | 0x118 => some (pack [(0, 5, q.firstErr.toNat), (5, 1, 1), (6, 1, bit c.ecrcGen), (7, 1, 1), (8, 1, bit c.ecrcChk),
                         (11, 1, bit (!q.aerPfx.isEmpty))])
  | 0x11C => some (q.aerHdr.getD 0 0)
  | 0x120 => some (q.aerHdr.getD 1 0)
  | 0x124 => some (q.aerHdr.getD 2 0)
  | 0x128 => some (q.aerHdr.getD 3 0)
  | 0x138 => some (q.aerPfx.getD 0 0)
  | 0x13C => some (q.aerPfx.getD 1 0)
  | 0x140 => some (q.aerPfx.getD 2 0)
  | 0x144 => some (q.aerPfx.getD 3 0)
  | 0x148 => some 0x15010018
  | 0x14C => some (c.maxNoSnoop ++ c.maxSnoop)
  | 0x150 => some 0x1601001E
  | 0x154 => some (0x0000001C ||| pack [(8, 8, 30), (16, 2, 1), (19, 5, 5)])
  | 0x158 => some (pack [(2, 1, bit c.l12En), (3, 1, bit c.l11En), (16, 10, (c.l12Thr.extractLsb' 0 10).toNat),
                         (29, 3, (c.l12Thr.extractLsb' 10 3).toNat)])
  | 0x160 => some 0x17810019
  | 0x164 | 0x168 => some 0
  | 0x178 => some 0x1A010026
  | 0x17C | 0x180 => some 0
  | 0x1A0 => some 0x00010027
  | 0x1A4 => some 0
  | 0x1A8 => marginWord s c 0
  | 0x1AC => marginWord s c 1
  | 0x1B0 => marginWord s c 2
  | 0x1B4 => marginWord s c 3
  | _ => none

/-- A write to any other register: to BAR0 it is observed in the Intake phase (04 R108); configuration space is the port's
hardware and takes it at once. -/
def execRegisterWrite (p : Port) (reg : RegSpace) (v : W32) (s : State) : Result :=
  match reg with
  | .bar0 off => .next (writeReg s p off v)
  | .config off => .next (if configOpen s p then s.modPort p fun q => writeConfig (sawTlp s.clock.frame q) off v else s)

/-- Is the request one BAR0 accepts (04 R108): one aligned DW with all bytes, or an aligned pair in the MSI-X table or
PBA? -/
def barAccepts (offset dwords : Nat) (allBytes : Bool) : Bool :=
  let msix := (decide (0x3000 ≤ offset) && decide (offset < 0x3200)) ||
    (decide (0x3800 ≤ offset) && decide (offset < 0x3808))
  (dwords == 1 && allBytes && offset % 4 == 0) || (dwords == 2 && allBytes && offset % 8 == 0 && msix)

/-- An error message is sent, where the port may originate it: it is not contained (04 Table 4-11). -/
def sendErr (s : State) (p : Port) (m : ErrMsg) : State :=
  if (s.port p).cstate ≠ .run ∨ ¬ linkLive s p then s else (s.emit (.errMsg p m)).modPort p (sendsTlp s.clock.frame)

/-- Logs an uncorrectable error in AER, with its header and the First Error Pointer. -/
def aerUncor (s : State) (p : Port) (bitNo : Nat) (hdr : List W32) : State :=
  s.modPort p fun q =>
    { q with aerUnc := q.aerUnc ||| BitVec.ofNat 32 (2 ^ bitNo),
             firstErr := if q.aerUnc = 0 then BitVec.ofNat 5 bitNo else q.firstErr,
             aerHdr := if hdr.isEmpty then q.aerHdr else hdr.take 4,
             aerPfx := if hdr.isEmpty then q.aerPfx else (hdr.drop 4).take 4 }

/-- The message of an uncorrectable error that does not contain the port: none where it is masked, else by its severity,
where reporting or SERR# is enabled (R121; PRESUMED: the rules of PCI Express, log entry 12). -/
def reportUncor (s : State) (p : Port) (bitNo : Nat) : State :=
  let q := s.port p
  let fatal := q.cfg.uncSev.getLsbD bitNo
  let s := s.modPort p fun q => { q with devStat := q.devStat ||| (if fatal then 4 else 2) }
  if q.cfg.uncMask.getLsbD bitNo then s
  else if q.cfg.errRep.getLsbD (if fatal then 2 else 1) || q.cfg.serr then
    sendErr (s.modPort p fun q => { q with pciStat := q.pciStat ||| (if q.cfg.serr then 0x4000 else 0) }) p
      (if fatal then .fatal else .nonFatal)
  else s

/-- Logs a correctable error, and sends its message where it is not masked and reporting is enabled (R121). -/
def aerCorrect (s : State) (p : Port) (bitNo : Nat) : State :=
  let q := s.port p
  let s := s.modPort p fun q =>
    { q with aerCor := q.aerCor ||| BitVec.ofNat 32 (2 ^ bitNo), devStat := q.devStat ||| 1 }
  if q.cfg.errRep.getLsbD 0 && !q.cfg.corMask.getLsbD bitNo then sendErr s p .cor else s

/-- Unsupported Request sent: uncorrectable and advisory (Table 4-10). Where its severity is non-fatal it is reported as
the correctable Advisory Non-Fatal Error. -/
def unsupportedSent (s : State) (p : Port) : State :=
  let s := (aerUncor s p 20 []).modPort p fun q => { q with devStat := q.devStat ||| 8 }
  if (s.port p).cfg.uncSev.getLsbD 20 then reportUncor s p 20 else aerCorrect s p 13

/-- A request BAR0 does not accept is answered with Unsupported Request and logged in AER (04 R108, Table 4-10). -/
def execBar0UnsupportedRequest (p : Port) (offset dwords : Nat) (allBytes _write : Bool) (s : State) : Result :=
  if ¬ linkLive s p ∨ (barAccepts offset dwords allBytes ∧ ¬ (s.port p).d3 ∧ (s.port p).cfg.mse) then .next s
  else .next (unsupportedSent (s.emit (.unsupported p)) p)

end Sys2Proof.Machine
end

