-- ==== Sys2Proof/Machine/Queue.lean ====
section
/-! DEFINITION. Polling, prefetch, chains and the taking of entries (05 R135 to R146, R173), ring reset (R155), and the
commands POLL, POLL_DATA, DROWSE_POLL and RING_RESET. -/
namespace Sys2Proof.Machine

/-! ## Which rings are served (02 R44, 04 R465, R118, R123) -/

/-- Does the mode serve management rings (02 Table 2-4)? -/
def servesMgmt (s : State) : Bool :=
  match s.mode.mode with
  | .locked | .online | .degraded | .rebuild | .salvage | .service | .factory => true
  | .lockdown => !s.err.dbl
  | _ => false

/-- A MODE_SET Service that waits for the I/O already taken (02 Table 2-2). -/
def serviceWaits (s : State) : Bool :=
  match s.mode.plan with
  | some m => m.waitIo
  | none => false

/-- Does the mode serve this ring? I/O rings are served in the array conditions. -/
def servesRing (s : State) (r : RingN) : Bool :=
  if r = 0 then servesMgmt s else isCondition s.mode.mode && !serviceWaits s

/-- May the port poll: it can read host memory, and Bus Master Enable was seen set in an earlier Intake phase (04 R465)? -/
def portPolls (s : State) (p : Port) : Bool :=
  portActive s p && match (s.port p).bmeSince with
    | some f => decide (f < s.clock.frame)
    | none => false

/-- From frame 0xF_FFF0_0000 no entry is taken (12 R400). -/
def takesEntries (s : State) : Bool := decide (s.clock.frame < 0xFFFF00000) && !s.cx.ftake && !s.cx.fstop && anyPlanning s.cx

/-! ## Polling (05 R138 to R142) -/

/-- The interval after `k` consecutive empty polls (05 R139). -/
def pollInterval (q : PortSt) (x : Ring) : Nat :=
  let after := field q.qback 0 8
  let cap := field q.qback 8 12
  let ivl := Ring.ivl x
  if after = 0 ∨ ivl = 0 ∨ x.k ≤ after then max ivl 1
  else min (max cap ivl) (max ivl 1 * 2 ^ min 16 (x.k - after))

/-- The first entry that is to be fetched again, with the count of its first slot (05 R154). -/
def refetchAt : List Taken → Nat → Option (Nat × Taken)
  | [], _ => none
  | t :: ts, n => if t.stage = .refetch then some (n, t) else refetchAt ts (n + t.entries.length)

/-- Prefetch entries a ring holds, or has kept for the poll in flight; an entry fetched again needs none. -/
def pfHeld (x : Ring) : Nat :=
  Ring.held x + match x.polling, refetchAt x.taken x.passed with
    | some w, none => w.1
    | _, _ => 0

/-- Free prefetch entries for a ring: a port's share less what is held or kept for polls in flight, eight kept for ring 0
(05 R142). -/
def freeShare (s : State) (p : Port) (r : RingN) : Nat :=
  let q := s.port p
  let share := if s.supply.strap then 256 else 512
  let mgmt := pfHeld (q.ring 0)
  let use := (q.rings.toList.map pfHeld).sum
  if r = 0 then share - use else share - max 8 mgmt - (use - mgmt)

/-- W, the slots a poll reads (05 R141), or the slots of an entry to be fetched again. -/
def pollWidth (s : State) (p : Port) (r : RingN) : Nat :=
  let x := s.ring p r
  match refetchAt x.taken x.passed with
  | some t => max 1 t.2.entries.length
  | none => min (8 - Ring.held x) (min (freeShare s p r) (x.passed + Ring.depth x - Ring.fetchAt x))

/-- The count of the first slot a poll reads. -/
def pollStart (x : Ring) : Nat := match refetchAt x.taken x.passed with
  | some t => t.1
  | none => Ring.fetchAt x

/-- Reads `n` slots from count `c`, wrapping to slot 0 in a separate request (05 R141). -/
def readSlots (s : State) (p : Port) (r : RingN) (c n : Nat) : State :=
  let x := s.ring p r
  let d := Ring.depth x
  let a := x.base.toNat
  let n1 := min n (d - c % d)
  let s := readHost s p (.poll r) (a + 64 * (c % d)) (64 * n1)
  if n1 < n then readHost s p (.poll r) a (64 * (n - n1)) else s

/-- Reads outstanding the port may still add to (04 R110). -/
def readRoom (q : PortSt) : Bool := decide (readsOut q < readCap q)

/-- May the ring be polled in this frame (05 R138, R153)? -/
def pollDue (s : State) (p : Port) (r : RingN) : Bool :=
  let x := s.ring p r
  x.state == .run && servesRing s r && portPolls s p && takesEntries s && x.polling.isNone && readRoom (s.port p) &&
  decide (x.nextPoll ≤ s.clock.frame) && (decide (Ring.held x < 8) || (refetchAt x.taken x.passed).isSome)

/-- A poll: the read of the window is issued, or deferred by a frame where W is 0 (05 R138, R142). -/
def execPoll (p : Port) (r : RingN) (s : State) : Result :=
  if s.clock.phase ≠ .intake ∨ ¬ pollDue s p r then .next s
  else
    let w := pollWidth s p r
    if w = 0 then .next (s.modRing p r fun x => { x with nextPoll := s.clock.frame + 1 })
    else
      let s := readSlots s p r (pollStart (s.ring p r)) w
      .next (s.modRing p r fun x => { x with polling := some (w, s.clock.frame) })

/-- The longest run of slots from count `c` with the expected phase and a correct check byte, and whether the slot after
it has the phase but not the check (05 R143). -/
def goodRun (depth : Nat) : Nat → List Entry → List Entry × Bool
  | _, [] => ([], false)
  | c, e :: es =>
    if Entry.phase e ≠ lapPhase c depth then ([], false)
    else if ¬ Entry.checkOk e then ([], true)
    else
      let t := goodRun depth (c + 1) es
      (e :: t.1, t.2)

/-- What a returned window makes known (05 R143): the good run, and a slot whose check failed at the last fetch too. -/
def windowKnown (x : Ring) (w : List Entry) : List Known × Option Nat :=
  let c := Ring.fetchAt x
  let g := goodRun (Ring.depth x) c w
  let ks := g.1.mapIdx fun i e => { e := e, bad := false, aborted := x.gone.contains (c + i) }
  let bad := c + g.1.length
  if ¬ g.2 then (ks, none)
  else if x.badCheck = some bad then
    (ks ++ [{ e := w.getD g.1.length { dw := [] }, bad := true, aborted := x.gone.contains bad }], none)
  else (ks, some bad)

/-- Poll data for a ring (05 R138, R139, R143). -/
def takeWindow (q : PortSt) (x : Ring) (w : List Entry) (frame : Nat) : Ring :=
  let n := windowKnown x w
  let x := { x with polling := none, known := x.known ++ n.1, badCheck := n.2, poisonOnce := false }
  if n.1.isEmpty then
    if n.2.isSome then { x with nextPoll := frame + 1 }
    else
      let x := { x with k := x.k + 1 }
      { x with nextPoll := frame + pollInterval q x }
  else { x with k := 0, nextPoll := frame + 1 }

/-- Poisoned poll data (04 Table 4-10): the slot is fetched once more; a second poison freezes the ring with HOST_POISON.
The slot then counts as an entry that fails when it is taken; an entry that was being fetched again fails at once. -/
def poisonWindow (x : Ring) (frame : Nat) : Ring :=
  let again := { x with polling := none, poisonOnce := true, nextPoll := frame + 1 }
  let twice := { x with polling := none, poisonOnce := false, nextPoll := frame + 1 }
  if ¬ x.poisonOnce then again
  else match refetchAt x.taken x.passed with
    | some t => { twice with taken := x.taken.map fun y =>
        if y.i = t.2.i then { y with stage := .finished, status := Status.hostPoison } else y }
    | none => { twice with known := x.known ++ [{ e := { dw := [] }, bad := true, aborted := false }] }

/-- Poll data for an entry fetched again (05 R154): back-off counts it as any poll (05 R138, R139). -/
def takeRefetch (q : PortSt) (x : Ring) (c : Nat) (t : Taken) (w : List Entry) (frame : Nat) : Ring :=
  let n := max 1 t.entries.length
  let g := goodRun (Ring.depth x) c (w.take n)
  let empty := { x with polling := none, poisonOnce := false, k := x.k + 1 }
  let empty := { empty with nextPoll := frame + pollInterval q empty }
  let x := { x with polling := none, poisonOnce := false, k := 0, nextPoll := frame + 1 }
  let put := fun (t' : Taken) => { x with taken := x.taken.map fun y => if y.i = t.i then t' else y, badCheck := none }
  if g.1.length = n then put { t with entries := g.1, stage := .retake }
  else if g.2 then
    if x.badCheck = some (c + g.1.length) then
      put { t with entries := w.take n, stage := .finished, status := Status.entryCheck }
    else { x with badCheck := some (c + g.1.length), k := empty.k - 1 }
  else empty

/-- Poisoned data logs Poisoned TLP Received (04 Table 4-10). -/
def logPoison (s : State) (p : Port) : State := reportUncor (aerUncor s p 12 []) p 12

/-- Are requests outstanding of a poll whose window the ring has dropped? -/
def strayPoll (q : PortSt) (r : RingN) : Bool := q.reads.any fun x => x.owner == .poll r && x.tag.isSome

/-- The data of a poll is observed, in the Intake phase of a later frame than the poll's (05 R138, R143). What was read for
a window since dropped only gives its tags back (05 R144). -/
def execPollData (p : Port) (r : RingN) (window : List Entry) (poisoned : Bool) (s : State) : Result :=
  match (s.ring p r).polling with
  | none => .next (if observes s && strayPoll (s.port p) r then readsBack s p (.poll r) else s)
  | some (w, issued) =>
    let f := obsFrame s
    if ¬ observes s ∨ f ≤ issued ∨ readsWait (s.port p) (.poll r) then .next s
    else
      let win := window.take w
      let s := readsBack s p (.poll r)
      let s := if poisoned then logPoison s p else s
      .next (s.modRing p r fun x =>
        if x.state ≠ .run then { x with polling := none }
        else if poisoned then poisonWindow x f
        else match refetchAt x.taken x.passed with
          | some t => takeRefetch (s.port p) x t.1 t.2 win f
          | none => takeWindow (s.port p) x win f)

/-! ## Chains (05 R145) -/

/-- The rest of an open chain among known entries: its entries, its status as a chain, and the entries after it; `none`
while its last entry is not known. A slot whose data came poisoned twice belongs to the chain, which fails as a whole (05
R152). DESIGN CHOICE (log entry 60), where R145 is silent: an entry whose check byte was wrong twice ends the open chain as
BAD_CHAIN and is an entry of its own; a chain malformed by another opcode or tag goes on to its entry with last = 1. -/
def chainRest (f : Entry) : List Known → Nat → List Entry → Bool → Option (List Entry × Status × List Known)
  | [], n, acc, _ => if 8 ≤ n then some (acc, Status.badChain, []) else none
  | k :: ks, n, acc, bad =>
    if 8 ≤ n then some (acc, Status.badChain, k :: ks)
    else if k.bad ∧ k.e.dw.isEmpty then some (acc ++ [k.e], Status.hostPoison, ks)
    else if k.bad ∨ Entry.first k.e then some (acc, Status.badChain, k :: ks)
    else
      let bad := bad || Entry.opcode k.e != Entry.opcode f || Entry.tag k.e != Entry.tag f
      if Entry.last k.e then some (acc ++ [k.e], if bad then Status.badChain else Status.success, ks)
      else chainRest f ks (n + 1) (acc ++ [k.e]) bad

/-- The next command of a ring: its entries, its status if it is malformed as a chain or by its check, and the rest. -/
def nextOf : List Known → Option (List Entry × Status × List Known)
  | [] => none
  | k :: ks =>
    if k.bad then some ([k.e], if k.e.dw.isEmpty then Status.hostPoison else Status.entryCheck, ks)
    else if ¬ Entry.first k.e then some ([k.e], Status.badChain, ks)
    else if Entry.last k.e then some ([k.e], Status.success, ks)
    else chainRest k.e ks 1 [k.e] false

/-- The next command of a ring; one that an abort named is done with ABORTED (05 R156). -/
def nextCommand (ks : List Known) : Option (List Entry × Status × List Known) :=
  (nextOf ks).map fun c => match ks with
    | k :: _ => if k.aborted then (c.1, Status.aborted, c.2.2) else c
    | [] => c

/-! ## The checks of an entry when it is taken (06 R173 steps 1 to 4) -/

/-- A port's stored grant on a volume; 0 where it is not present. -/
def grantOf (s : State) (p : Port) (v : VolN) : Nat :=
  match volOf s v with
  | some x => (match p with | .a => x.grantA | .b => x.grantB).toNat
  | none => 0

/-- The effective grant: in Salvage at most READ (02 R45). -/
def effGrant (s : State) (p : Port) (v : VolN) : Nat :=
  if s.mode.mode = .salvage then min 1 (grantOf s p v) else grantOf s p v

/-- Does the I/O entry name every volume (FLUSH all, 06 R177)? -/
def flushAll (e : Entry) : Bool := Entry.opcode e == 4 && Entry.all e

/-- Volume and range of an I/O entry (06 R180). -/
def ioRange (s : State) (e : Entry) : Status :=
  if flushAll e then Status.success
  else match volOf s (Entry.vol e) with
    | none => Status.badVolume
    | some x =>
      if Entry.opcode e ≠ 4 ∧ x.size < Entry.lbn e + ioCount e then Status.badRange else Status.success

/-- Grants and key index of an I/O entry (01 R24, 02 R45, 06 R181); key index 0 is never a host's (10 R309). DESIGN CHOICE
(log entry 74): a FLUSH with all = 1, which ignores its volume, is not checked for its key index either. -/
def ioAccess (s : State) (p : Port) (r : RingN) (e : Entry) : Status :=
  if flushAll e then Status.success
  else
    let g := effGrant s p (Entry.vol e)
    let key := if Entry.kov e then Entry.key e else Ring.keyIdx (s.ring p r)
    if g < volNeeds (Entry.opcode e) then Status.noGrant
    else if Entry.kov e ∧ g < 3 then Status.keyOverride
    else match volOf s (Entry.vol e) with
      | some x => if key = x.key ∧ key ≠ 0 then Status.success else Status.keyMismatch
      | none => Status.success

/-- Grants of a management entry: on volume 0 under Table 6-3 at the stored level, and READ on its volume for the range
subops of CACHE_MAINT (08 R250). -/
def mgmtAccess (s : State) (p : Port) (e : Entry) : Status :=
  if grantOf s p 0 < v0Needs (Entry.opcode e) (Entry.subop e) then Status.noGrant
  else if Entry.opcode e = 0x1B ∧ 1 ≤ Entry.subop e ∧ Entry.subop e ≤ 3 then
    let v : VolN := ⟨field (Entry.a e 0) 0 6, by unfold field; omega⟩
    if (volOf s v).isSome ∧ effGrant s p v < 1 then Status.noGrant else Status.success
  else Status.success

/-- The subop Table 6-3 distinguishes. -/
def ruleSub (e : Entry) : Nat := Entry.subop e

/-- Is the opcode allowed in this mode (06 R175)? ARRAY_CREATE needs that no array is assembled. -/
def modeOk (s : State) (e : Entry) : Bool :=
  modeAllows (Entry.opcode e) (ruleSub e) s.mode.mode (!s.mode.hard) &&
  (Entry.opcode e != 0x23 || s.array.isNone)

/-- Steps 1 to 4 of 06 R173, in order. -/
def checkEntry (s : State) (p : Port) (r : RingN) (es : List Entry) : Status :=
  let e := es.headD { dw := [] }
  let io := isIoOp (Entry.opcode e)
  let form := formCheck r es
  let range := if io then ioRange s e else Status.success
  let access := if io then ioAccess s p r e else mgmtAccess s p e
  if form ≠ Status.success then form
  else if range ≠ Status.success then range
  else if ¬ lifecycleAllows (Entry.opcode e) (ruleSub e) s.mode.mode (lifecycle s.fuse) then Status.lifecycle
  else if access ≠ Status.success then access
  else if ¬ modeOk s e then Status.badMode
  else Status.success

/-! ## Taking entries (05 R146) -/

/-- A ring from which no entry is taken: not running, or with a failure not yet at its commit point (05 R152). -/
def ringBlocked (x : Ring) : Bool :=
  x.state != .run || x.taken.any fun t => t.stage == .finished && !t.done && freezes t.status

/-- The stage of an entry that passed its checks: its parameter block is read first (06 R172). -/
def firstStage (e : Entry) : EStage :=
  if isMgmtOp (Entry.opcode e) && Entry.pblk e != 0 then .param else .waiting

/-- Reply data of an I/O entry that is refused when it is taken: the LBN of the first block that failed (06 R180). DESIGN
CHOICE (log entry 65): that block is the first the command names, also where only its end lies outside the volume. -/
def refusedReply (e : Entry) (st : Status) : Bytes :=
  if isIoOp (Entry.opcode e) ∧ (st = Status.badRange ∨ st = Status.badVolume ∨ st = Status.noGrant ∨ st = Status.keyOverride ∨
      st = Status.keyMismatch ∨ st = Status.badMode) then container (Entry.lbn e) else []

/-- The volumes an I/O entry acts on, under the grants in force when it is taken (01 R24, R25): a FLUSH with all = 1 those
its port may read (06 R177). -/
def actsOn (s : State) (p : Port) (e : Entry) : List VolN :=
  if flushAll e then allVols.filter fun v => (volOf s v).isSome && decide (1 ≤ effGrant s p v)
  else if isIoOp (Entry.opcode e) then [Entry.vol e]
  else []

/-- A newly taken entry with the status of its checks; one that an abort ended has had its reply (05 R156). -/
def newTaken (s : State) (p : Port) (i : Nat) (es : List Entry) (st : Status) (ord : Nat) : Taken :=
  let e := es.headD { dw := [] }
  { i := i, entries := es, frame := s.clock.frame, param := none, data := [], items := [], seqs := [], status := st,
    reply := refusedReply e st, committed := false, done := decide (st = Status.aborted), pressed := false, issued := none,
    vols := actsOn s p e, grant0 := grantOf s p 0, charged := false, wfail := false, ord := ord, stage := if st = Status.success then firstStage e else .finished }

/-- The first entry of a ring that was fetched again and is to be taken anew (05 R154). -/
def retakeOf (x : Ring) : Option Taken := x.taken.find? fun t => t.stage == .retake

/-- The status of the checks of a command: as a chain, then those of R173. -/
def takenStatus (s : State) (p : Port) (r : RingN) (es : List Entry) (st : Status) : Status :=
  if st = Status.success then checkEntry s p r es else st

/-- An entry fetched again is taken anew in its place; the count of its entries. -/
def takeAgain (s : State) (p : Port) (r : RingN) (t : Taken) : State × Nat :=
  let st := match nextOf (t.entries.map fun e => { e := e, bad := false, aborted := false }) with
    | some (es, st, []) => takenStatus s p r es st
    | _ => Status.badChain
  let (ord, s) := freshId s
  let s := s.modPort p fun q => { q with busyFrame := some s.clock.frame }
  (s.modTaken { p := p, r := r, i := t.i } fun _ => newTaken s p t.i t.entries st ord, t.entries.length)

/-- Takes the next command of a ring if it has at most `room` entries, one fetched again before the known ones; answers how
many entries it took. -/
def takeOne (s : State) (p : Port) (r : RingN) (room : Nat) (forced : Bool) (left : Nat) : State × Nat :=
  let x := s.ring p r
  if ringBlocked x then (s, 0)
  else match retakeOf x with
    | some t => if (room < t.entries.length ∧ ¬ forced) ∨ left < t.entries.length then (s, 0) else takeAgain s p r t
    | none =>
      match nextCommand x.known with
      | none => (s, 0)
      | some (es, st, rest) =>
        if (room < es.length ∧ ¬ forced) ∨ left < es.length then (s, 0)
        else
          let i := (x.passed + Ring.takenLen x) % Ring.depth x
          let st := takenStatus s p r es st
          let (ord, s) := freshId s
          let t := newTaken s p i es st ord
          let s := s.modPort p fun q => { q with busyFrame := some s.clock.frame }
          (s.modRing p r fun x => { x with known := rest, taken := x.taken ++ [t] }, es.length)

/-- One visit: commands up to `room` entries; the first may be a longer chain (05 R146). Answers what was taken. -/
def takeVisit (p : Port) (r : RingN) : Nat → State → Nat → Bool → Nat → State × Nat
  | 0, s, _, _, _ => (s, 0)
  | fuel + 1, s, room, isFirst, left =>
    if room = 0 then (s, 0)
    else
      let a := takeOne s p r room isFirst left
      if a.2 = 0 then a
      else
        let b := takeVisit p r fuel a.1 (room - a.2) false (left - a.2)
        (b.1, a.2 + b.2)

/-- I/O rings with known entries, or one fetched again, and credit. -/
def hasCredit (q : PortSt) : Bool :=
  q.rings.toList.tail.any fun x => (!x.known.isEmpty || (retakeOf x).isSome) && decide (0 < x.credit) && !ringBlocked x

/-- A new round: every credit is the weight (05 R146). -/
def newRound (q : PortSt) : PortSt := { q with rings := q.rings.map fun x => { x with credit := Ring.weight x } }

/-- The I/O rings in cyclic order from the pointer. -/
def ringCycle (p : Nat) : List RingN :=
  (allRings.filter fun r => decide (p ≤ r.val) && r != 0) ++ (allRings.filter fun r => decide (r.val < p) && r != 0)

/-- Visits the rings of one port in weighted round robin (05 R146); `left` is what remains of the 64. -/
def takeRings (p : Port) : List RingN → State → Nat → State
  | [], s, _ => s
  | r :: rs, s, left =>
    if left = 0 ∨ ¬ servesRing s r then s
    else
      let s := if hasCredit (s.port p) then s else s.modPort p newRound
      let x := s.ring p r
      let room := min (Ring.burst x) x.credit
      let a := takeVisit p r 64 s room true left
      let s := a.1.modRing p r fun x => { x with credit := if room < a.2 then 0 else x.credit - a.2 }
      let s := if a.2 = 0 then s else s.modPort p fun q => { q with rrPtr := if r.val = 63 then 1 else r.val + 1 }
      takeRings p rs s (left - a.2)

/-- A port's management ring is taken first, up to 8 entries (05 R146); answers how many. -/
def takeMgmt (s : State) (p : Port) : State × Nat :=
  if portActive s p ∧ takesEntries s ∧ servesRing s 0 then takeVisit p 0 8 s 8 true 64 else (s, 0)

/-- Then its I/O rings, 64 entries in all (05 R146). -/
def takeIo (s : State) (p : Port) (n : Nat) : State :=
  if portActive s p ∧ takesEntries s then takeRings p (ringCycle (s.port p).rrPtr) s (64 - n) else s

/-- The taking of a frame's entries in the order of 01 R26: the management rings, then the I/O rings of the port the
frame's number puts first, then those of the other. DESIGN CHOICE (log entry 66): the management rings come in the same
order of the ports, which R26 does not give for them. -/
def takeEntries (s : State) (p q : Port) : State :=
  let a := takeMgmt s p
  let b := takeMgmt a.1 q
  takeIo (takeIo b.1 p a.2) q b.2

/-! ## Drowse polls (05 R140) and ring reset (05 R155) -/

/-- Is the Drowse poll of a ring due: every max(QBACK.drowse, 64) frames from Drowse entry? -/
def drowsePollDue (s : State) (p : Port) (r : RingN) : Bool :=
  let every := max 64 (field (s.port p).qback 20 12)
  s.mode.mode == .drowse && (s.ring p r).state == .run && portEnabled s p && (s.port p).cfg.bme &&
  !(s.port p).perst && (s.port p).cstate == .run && !(s.port p).d3 &&
  decide (0 < s.clock.frame - s.mode.drowseFrame) && (s.clock.frame - s.mode.drowseFrame) % every == 0

/-- Plans the return from Drowse to the prior mode; an array condition is entered as MODE_STAT.cond names it when the
transition takes effect (02 R39, R48). -/
def wakeDrowse (s : State) (src : Nat) : State :=
  if s.mode.mode ≠ .drowse then s
  else
    let target := if isCondition s.mode.drowseFrom then condMode s.mode.cond else s.mode.drowseFrom
    planMode s target .wake 0x0D src 7 none false

/-- The one slot a ring expects next is polled in Drowse; an expected entry becomes known and leads to wake (05 R140, 02
R46), also one that fails its check byte twice, which is taken as malformed (05 R143, R168). -/
def execDrowsePoll (p : Port) (r : RingN) (e : Entry) (s : State) : Result :=
  if s.clock.phase ≠ .intake ∨ ¬ drowsePollDue s p r then .next s
  else
    let x := s.ring p r
    let s := readsBack (readSlots s p r (Ring.fetchAt x) 1) p (.poll r)
    if 8 ≤ Ring.held x ∨ Ring.depth x ≤ Ring.fetchAt x - x.passed then .next s
    else
      let n := windowKnown x [e]
      let s := s.modRing p r fun x => { x with known := x.known ++ n.1, badCheck := n.2 }
      .next (if n.1.isEmpty then s else wakeDrowse s (portSrc p))

/-- A resetting ring may complete: what was taken is done or was discarded, the last of it before this frame (05 R155). -/
def resetReady (x : Ring) (frame : Nat) : Bool :=
  x.state == .resetting && decide (x.doneAt < frame) && x.taken.all fun t => t.done || t.stage == .dropped

/-- The ring's reset takes effect: RING_RESET with the final head, head to slot 0 with phase 1, done count 0, state RUN,
or DISABLED after a delete (05 R155, 06 R182). -/
def resetRing (s : State) (p : Port) (r : RingN) : State :=
  let x := s.ring p r
  let s := postEvent s p { Event.base s 0x0003 (BitVec.ofNat 32 (Ring.headIdx x)) with ring := BitVec.ofNat 6 r.val }
  s.modRing p r fun x =>
    if x.deleting then Ring.init
    else { Ring.init with base := x.base, cfg := x.cfg, poll := x.poll, state := .run, headPub := x.headPub,
                          nextPoll := s.clock.frame + 1 }

/-- RING_RESET (05 R155): at the commit point of a frame after that in which the last taken entry completed. -/
def execRingReset (p : Port) (r : RingN) (s : State) : Result :=
  if s.clock.phase ≠ .commit ∨ ¬ resetReady (s.ring p r) s.clock.frame then .next s
  else .next (publish (resetRing s p r))

end Sys2Proof.Machine
end

