-- ==== Sys2Proof/Machine/Pool.lean ====
section
/-! DEFINITION. The shared pool of staging buffers and its claimants (02 R57, R58, R62, R64, Table 2-10). -/
namespace Sys2Proof.Machine

def engMinimum : Engine → Nat
  | .rebuild => 32
  | .rekey => 8
  | .scrub => 8

def engMaximum : Engine → Nat
  | .rebuild => 128
  | .rekey => 32
  | .scrub => 32

/-- A rekey whose start is under way holds its buffers already. -/
def rekeyStarting (s : State) : Bool :=
  let starts := fun e : SbEffect => match e with
    | .rekeyStart .. => true
    | _ => false
  (s.sbq.any fun u => starts u.effect) || s.gate.priv.any fun a => match a.act with
    | .superblock e => starts e
    | _ => false

def engOn (s : State) : Engine → Bool
  | .rebuild => s.eng.rebuild.running
  | .rekey => s.eng.rekey.running || rekeyStarting s
  | .scrub => s.eng.scrub.running

def engAsked (s : State) : Engine → Nat
  | .rebuild => s.eng.rebuild.asked
  | .rekey => s.eng.rekey.asked
  | .scrub => s.eng.scrub.asked

def engPaused (s : State) : Engine → Bool
  | .rebuild => s.eng.rebuild.paused
  | .rekey => s.eng.rekey.paused
  | .scrub => s.eng.scrub.paused

/-- Is the engine between two shifts, or between two rekey steps? -/
def engAtBoundary (s : State) : Engine → Bool
  | .rebuild => !s.shifts.any fun x => x.purpose == .rebuild || x.purpose == .resync
  | .rekey => !s.eng.rekey.inStep
  | .scrub => !s.shifts.any fun x => x.purpose == .check

/-- An engine's asked count and paused flag. -/
def setEngPool (s : State) (e : Engine) (asked : Nat) (paused : Bool) : State :=
  match e with
  | .rebuild => { s with eng := { s.eng with rebuild := { s.eng.rebuild with asked := asked, paused := paused } } }
  | .rekey => { s with eng := { s.eng with rekey := { s.eng.rekey with asked := asked, paused := paused } } }
  | .scrub => { s with eng := { s.eng with scrub := { s.eng.scrub with asked := asked, paused := paused } } }

/-- The modes that run rebuild and resync (02 Table 2-4). -/
def engineMode (s : State) : Bool :=
  s.mode.mode == .locked || s.mode.mode == .rebuild || s.mode.mode == .service

/-- Does the mode run the engine (02 Table 2-4)? -/
def engRuns (s : State) : Engine → Bool
  | .rebuild => engineMode s
  | .rekey => s.mode.mode == .online || s.mode.mode == .degraded || s.mode.mode == .rebuild
  | .scrub => s.mode.mode == .online || (s.mode.mode == .locked && s.mode.cond == .online)

/-! ## What is held, free and asked for -/

/-- Buffers an engine may use: those in their release are not. -/
def engOwn (s : State) (e : Engine) : Nat := (ownedIdx s (.engine e)).length

/-- Has the engine its minimum? -/
def engFed (s : State) (e : Engine) : Bool := decide (engMinimum e ≤ engOwn s e)

/-- What a running engine lacks of its minimum. -/
def engLack (s : State) (e : Engine) : Nat := if engOn s e && engRuns s e then engMinimum e - engOwn s e else 0

/-- Buffers on their way back to the free pool. -/
def releasing (s : State) : Nat :=
  (s.staging.bufs.toList.filter fun b => match b.owner with
    | .releasing _ => true
    | _ => false).length

/-- Entries of the management rings at a stage. -/
def ring0At (s : State) (f : Taken → Bool) : Nat :=
  (bothPorts.map fun p => ((s.ring p 0).taken.filter f).length).sum

/-- Host allocations that wait for reclaim. -/
def hostWaits (s : State) : Nat := ring0At s fun t => t.stage == .reclaim

/-- Buffers a KEY_ROTATE that waits for them needs: the minimum of rekey (R58). -/
def rotateNeed (s : State) : Nat :=
  if engOn s .rekey ∨ ring0At s (fun t => t.stage == .waiting && Entry.opcode t.head == 0x27) = 0 then 0 else 8

/-- Free buffers beyond what host allocations wait for. -/
def spareBufs (s : State) : Nat := (freeIdx s).length - hostWaits s

/-- What host allocations can be met from, once rebuild has its minimum: free buffers, those on their way there, and those
of the engines ranked below (R57). -/
def hostReach (s : State) : Nat :=
  (freeIdx s).length + releasing s + engOwn s .scrub + engOwn s .rekey - engLack s .rebuild

/-- What an engine asked for `n` gives up: below its minimum it gives all (R57). -/
def givesUp (s : State) (e : Engine) (n : Nat) : Nat :=
  if n = 0 then 0 else if engOwn s e < n + engMinimum e then engOwn s e else n

/-- Sets what each engine is asked for: what rebuild lacks and host allocations wait for, from scrub and then rekey, and
what a KEY_ROTATE needs, from scrub (R57, R58). In Service rekey and scrub give all (R65). -/
def askEngines (s : State) : State :=
  let free := (freeIdx s).length + releasing s
  let need := engLack s .rebuild + hostWaits s
  let scrub := min (need + rotateNeed s - free) (engOwn s .scrub)
  let rekey := min (need - free - givesUp s .scrub scrub) (engOwn s .rekey)
  let all := s.mode.mode == .service
  let s' := setEngPool s .scrub (if all then engOwn s .scrub else scrub) (engPaused s .scrub)
  setEngPool s' .rekey (if all then engOwn s .rekey else rekey) (engPaused s .rekey)

/-! ## The Plan phase's part -/

/-- A running engine below its minimum takes it where as many are free beyond what others wait for, and resumes; else it
is paused (R57). -/
def feedEngine (s : State) (e : Engine) (others : Nat) : State :=
  let lack := engLack s e
  if lack = 0 then (if engFed s e then setEngPool s e (engAsked s e) false else s)
  else if lack + others ≤ (freeIdx s).length then setEngPool (takeBufs s lack (.engine e)) e 0 false
  else setEngPool s e (engAsked s e) true

/-- An engine that has its minimum grows towards its maximum from free buffers that nothing waits for. DESIGN CHOICE (log
entry 72): by one buffer in a Plan phase, since R57 leaves open when and how far it grows. -/
def growEngine (s : State) (e : Engine) (others : Nat) : State :=
  if engOn s e ∧ engRuns s e ∧ engFed s e ∧ engOwn s e < engMaximum e ∧ others < (freeIdx s).length then
    takeBufs s 1 (.engine e)
  else s

/-- The claimants take free buffers in their rank (Table 2-10): rebuild, the host allocations that wait, rekey, scrub; then
engines grow, and what is still missing is asked for. -/
def feedEngines (s : State) : State :=
  let s := takeBufs s (engLack s .rebuild) (.engine .rebuild)
  let hosts := hostWaits s
  let s := feedEngine s .rekey hosts
  let all := hosts + rotateNeed s
  let s := feedEngine s .scrub all
  let s := growEngine (growEngine (growEngine s .rebuild all) .rekey all) .scrub all
  askEngines s

end Sys2Proof.Machine
end

