-- ==== Sys2Proof/Machine/Array.lean ====
section
/-! DEFINITION. The array (09): which positions are available, the superblock and its writes (R270, R271), member orders,
the loss of a member (R275), placement (R273, Table 9-5), and the starting of rebuild and resync (R282, R286, R288). -/
namespace Sys2Proof.Machine

/-! ## Positions -/

/-- The positions of an array of n members. -/
def livePos (a : ArraySt) : List PosN := allPos.filter fun p => decide (p.val < a.n)

def posEntry (a : ArraySt) (p : PosN) : PEntry := a.ptab[p.val]

def setPos (a : ArraySt) (p : PosN) (e : PEntry) : ArraySt := { a with ptab := a.ptab.set p.val e }

/-- The watermark of a target: W where the engine's record names it, qw where it is queued, else 0 (R283, R284). -/
def watermark (a : ArraySt) (p : PosN) : Nat :=
  if a.rbKind ≠ .none ∧ a.rbTarget = p then a.w else if a.queued = some p then a.qw else 0

/-- Has the engine's target, at this block position, been rebuilt (R283)? -/
def targetDone (s : State) (a : ArraySt) (p : PosN) (row b : Nat) : Bool :=
  decide (row < watermark a p) ||
  (a.rbKind != .none && a.rbTarget == p && row == a.w && decide (b < s.eng.rebuild.next))

/-- Does the write-intent bitmap mark the row (R277)? -/
def rowMarked (s : State) (row : Nat) : Bool := s.jnl.bitmap.bits.contains (row / 2 ^ s.jnl.bitmap.g)

/-- Is a position, as a position, unavailable in a row at a block position (R274, R283, R289)? -/
def posOut (s : State) (p : PosN) (row b : Nat) : Bool :=
  match s.array with
  | none => true
  | some a =>
    match (posEntry a p).state with
    | .current => false
    | .missing => true
    | .rebuildTarget => !targetDone s a p row b
    | .resyncTarget => rowMarked s row && !targetDone s a p row b

/-- Does a DESTAGE shift write the position (R283, R289)? -/
def posWritten (s : State) (p : PosN) (row b : Nat) : Bool :=
  match s.array with
  | none => false
  | some a =>
    match (posEntry a p).state with
    | .current | .resyncTarget => true
    | .missing => false
    | .rebuildTarget => targetDone s a p row b

/-- Is the block in the lost-unit map (R279)? -/
def blockLost (s : State) (row : Nat) (p : PosN) (b : Nat) : Bool :=
  s.jnl.lost.any fun l => l.row == row && l.pos == p && !l.good.contains b

/-- Unavailable to a shift: the position is, or the block is lost (R279). -/
def unavailable (s : State) (row b : Nat) (p : PosN) : Bool := posOut s p row b || blockLost s row p b

/-- The slot of a position. -/
def slotOf (s : State) (p : PosN) : Option SlotN := s.array.map fun a => (posEntry a p).slot

/-- The position a slot holds: a MEMBER slot, or one that is brought up again after Drowse, named by a position that is
not missing. -/
def posOfSlot (s : State) (m : SlotN) : Option PosN :=
  match s.array with
  | some a =>
    if (s.slot m).state = .member ∨ (s.slot m).state = .bringup then
      (livePos a).find? fun p => (posEntry a p).slot == m && (posEntry a p).state != .missing
    else none
  | none => none

/-- m, the redundancy of the active layout (07 R203). -/
def layoutM (s : State) : Nat := match s.seq.table with
  | d :: _ => d.m
  | [] => 0

def isTarget (e : PEntry) : Bool := e.state == .rebuildTarget || e.state == .resyncTarget

/-- The unavailable positions (R274): missing, or a target above its watermark. DEDUCED (log entry 40): a member whose return
led out of Salvage is not counted while it is resynced (R288). -/
def lacking (s : State) (a : ArraySt) : List PosN :=
  (livePos a).filter fun p => (posEntry a p).state != .current && !s.eng.back.contains p

/-- The array condition (02 R39, R274, R287): more than m unavailable is Salvage; a target under way is Rebuild; any other
lack is Degraded. -/
def healthCond (s : State) : Cond :=
  match s.array with
  | none => .none
  | some a =>
    let out := (lacking s a).length
    let targets := (livePos a).any fun p => isTarget (posEntry a p)
    if layoutM s < out then .salvage
    else if out = 0 ∧ ¬ targets then .online
    else if targets ∧ s.eng.rebuild.running ∧ a.rbKind ≠ .none then .rebuild
    else .degraded

/-- Writes the condition and its flags into MODE_STAT (02 R39, Table 2-6). -/
def noteCond (s : State) : State :=
  let ddeg := match s.array with
    | some a => decide (2 ≤ (lacking s a).length) && s.eng.rebuild.running
    | none => false
  let rs := match s.array with
    | some a => a.rbKind == .resync && s.eng.rebuild.running
    | none => false
  let c := healthCond s
  s.modMode fun m => { m with cond := c, resync := rs && c == .rebuild, ddeg := ddeg && c == .rebuild }

/-- The transitions of Table 2-2 between array conditions; `m` is the layout's redundancy. -/
def condEdge (m : Nat) : Mode → Mode → Bool
  | .online, .salvage => m == 0
  | .online, .degraded | .online, .rebuild => true
  | .degraded, .rebuild | .degraded, .salvage => true
  | .rebuild, .online | .rebuild, .degraded | .rebuild, .salvage => true
  | .salvage, .rebuild => true
  | _, _ => false

/-- The mode an array condition changes to: that of the condition, where Table 2-2 has the transition; from Online with
redundancy a loss beyond it goes by way of Degraded (09 R295). -/
def condTarget (s : State) (c : Cond) : Option Mode :=
  let now := s.mode.mode
  if ¬ isCondition now ∨ c = .none then none
  else if condEdge (layoutM s) now (condMode c) then some (condMode c)
  else if now = .online ∧ c = .salvage then some .degraded
  else none

/-- Plans the change to the condition the array has, for the reason noted (Table 2-2, R275). -/
def planNoted (s : State) : State :=
  match condTarget s (healthCond s) with
  | some t => planMode s t .plain s.mode.condWhy.cause s.mode.condWhy.src s.mode.condWhy.slot none false
  | none => s

/-- Notes why the array's condition changes and plans the transition. -/
def planCond (s : State) (cause src slot : Nat) : State :=
  planNoted (s.modMode fun m => { m with condWhy := { cause := cause, src := src, slot := slot } })

/-! ## The superblock (R270, Table 9-4) -/

def sbMagic : Nat := 0x4156363653420001

def pstateCode : PState → Nat
  | .current => 0 | .missing => 1 | .rebuildTarget => 2 | .resyncTarget => 3
def pstateOf : Nat → PState
  | 0 => .current | 1 => .missing | 2 => .rebuildTarget | _ => .resyncTarget
def rbCode : RbKind → Nat
  | .none => 0 | .rebuild => 1 | .resync => 2
def rbOf : Nat → RbKind
  | 0 => .none | 1 => .rebuild | _ => .resync

/-- A slot or position number from a byte. -/
def six (n : Nat) : Fin 6 := ⟨n % 6, Nat.mod_lt _ (by decide)⟩
def sixtyFour (n : Nat) : Fin 64 := ⟨n % 64, Nat.mod_lt _ (by decide)⟩

def ptabBytes (e : PEntry) : Bytes :=
  leBytes 1 (pstateCode e.state) ++ [0] ++ leBytes 1 e.slot.val ++ [0] ++ container e.lostAg ++ padTo 20 e.serial

def vtabBytes (v : Volume) : Bytes :=
  container v.base ++ container v.size ++ leBytes 1 v.key.val ++ leBytes 1 (bit v.present + 2 * bit v.isSealed) ++
  leBytes 1 (v.grantA.toNat + 4 * v.grantB.toNat) ++ zeros 5 ++ padTo 40 v.wrap

/-- The 64 bytes of the rekey record (10 R327). -/
def rekeyBytes (r : RekeyRec) : Bytes :=
  leBytes 1 r.vol.val ++ leBytes 1 r.state ++ zeros 6 ++ container r.b ++ padTo 40 r.wrap ++ zeros 8

/-- The 256 bytes of the mkey field (10 R305). -/
def mkeyBytes (a : ArraySt) : Bytes :=
  leBytes 4 a.mkeyFormat ++ zeros 4 ++ padTo 48 a.home ++ padTo 48 a.fleet ++ zeros 8 ++ rekeyBytes a.rekey ++ zeros 80

/-- k of a view's own program. -/
def viewK (a : ArraySt) : Nat := match buildTable a.prog a.n with
  | d :: _ => d.k
  | [] => 0

/-- C, the capacity in blocks (07 R203). -/
def viewCap (a : ArraySt) : Nat := a.dsz / unitBlocks a.su * viewK a * unitBlocks a.su

/-- The 16 384 bytes of a copy, with the crc field as given. -/
def sbRaw (sgen : Nat) (pos : PosN) (a : ArraySt) (cap : Nat) (mkey : Bytes) (crc : Nat) : Bytes :=
  leBytes 8 sbMagic ++ container sgen ++ uuidBytes a.uuid ++ container a.ag ++ leBytes 1 pos.val ++ leBytes 1 a.n ++
  leBytes 1 a.layout ++ leBytes 1 a.su ++ leBytes 4 64 ++ container a.dsz ++ container cap ++
  a.ptab.toList.flatMap ptabBytes ++
  (leBytes 1 (rbCode a.rbKind) ++ leBytes 1 a.rbTarget.val ++
    leBytes 1 (match a.queued with | some p => p.val | none => 7) ++ zeros 5 ++ container a.w) ++
  container a.scRow ++ container a.scPasses ++ container a.qw ++ zeros 216 ++ mkey ++
  a.vtab.toList.flatMap vtabBytes ++ container a.pgen ++ leBytes 4 a.prog.length ++ zeros 4 ++ leBytes 4 crc ++
  zeros 3308 ++ padTo 8192 (a.prog.flatMap fun w => container w.toNat)

/-- A copy with its CRC-32C, taken with the crc field read as zero. -/
def sbSeal (sgen : Nat) (pos : PosN) (a : ArraySt) (cap : Nat) (mkey : Bytes) : Bytes :=
  sbRaw sgen pos a cap mkey (crc32c (sbRaw sgen pos a cap mkey 0)).toNat

/-- The copy the device writes for a position. -/
def sbBytes (sgen : Nat) (pos : PosN) (a : ArraySt) : Bytes := sbSeal sgen pos a (viewCap a) (mkeyBytes a)

def parsePtab (bs : Bytes) : PEntry :=
  { state := pstateOf (leNat (bs.take 1)), slot := six (leNat (slice bs 2 1)), lostAg := leNat (slice bs 4 8),
    serial := slice bs 12 20 }

def parseVol (bs : Bytes) : Volume :=
  let flags := leNat (slice bs 17 1)
  let g := leNat (slice bs 18 1)
  { present := flags % 2 == 1, isSealed := flags / 2 % 2 == 1, base := leNat (slice bs 0 8), size := leNat (slice bs 8 8),
    key := sixtyFour (leNat (slice bs 16 1)), grantA := BitVec.ofNat 2 g, grantB := BitVec.ofNat 2 (g / 4),
    wrap := slice bs 24 40, stale := false, deleting := false }

def parseRekey (bs : Bytes) : RekeyRec :=
  { vol := sixtyFour (leNat (slice bs 0 1)), state := leNat (slice bs 1 1), b := leNat (slice bs 8 8),
    wrap := slice bs 16 40 }

/-- The fields of a copy, whatever they hold. -/
def sbView (bs : Bytes) : ArraySt :=
  let q := leNat (slice bs 258 1)
  { uuid := BitVec.ofNat 128 (leNat (slice bs 16 16)), ag := leNat (slice bs 32 8), n := leNat (slice bs 41 1),
    layout := leNat (slice bs 42 1), su := leNat (slice bs 43 1), dsz := leNat (slice bs 48 8),
    ptab := Vector.ofFn fun i : Fin 6 => parsePtab (slice bs (64 + 32 * i.val) 32),
    rbKind := rbOf (leNat (slice bs 256 1)), rbTarget := six (leNat (slice bs 257 1)),
    queued := if q = 7 then none else some (six q), w := leNat (slice bs 264 8), qw := leNat (slice bs 288 8),
    scRow := leNat (slice bs 272 8), scPasses := leNat (slice bs 280 8), mkeyFormat := leNat (slice bs 512 4),
    home := slice bs 520 48, fleet := slice bs 568 48, rekey := parseRekey (slice bs 624 64),
    vtab := Vector.ofFn fun i : Fin 64 => parseVol (slice bs (768 + 64 * i.val) 64),
    pgen := leNat (slice bs 4864 8),
    prog := (List.range (min 1024 (leNat (slice bs 4872 4)))).map fun i =>
      BitVec.ofNat 36 (leNat (slice bs (8192 + 8 * i) 8)) }

/-- The current content of one copy, or `none` where it is not valid (R270): its ranges hold, and the fields it was read
into make up all of its bytes again, so every byte shown as 0 is zero, every container is in range and the CRC checks. -/
def parseSb (bs : Bytes) : Option Superblock :=
  let a := sbView bs
  let pos := leNat (slice bs 40 1)
  let pw := leNat (slice bs 4872 4)
  let states := (List.range 6).all fun i => decide (leNat (slice bs (64 + 32 * i) 1) ≤ 3)
  if h : bs.length = 16384 ∧ 1 ≤ a.n ∧ a.n ≤ 6 ∧ pos < a.n ∧ a.layout ≤ 5 ∧ a.su ≤ 4 ∧ 2 ≤ pw ∧ pw ≤ 1024 ∧
      states = true ∧ leNat (slice bs 256 1) ≤ 2 ∧
      sbSeal (leNat (slice bs 8 8)) (six pos) a (leNat (slice bs 56 8)) (slice bs 512 256) = bs then
    some { sgen := leNat (slice bs 8 8), pos := ⟨pos, by omega⟩, view := a }
  else none

/-- The current superblock of a member: the valid copy with the higher sgen (R270). -/
def currentSb (c : SbCopies) : Option Superblock :=
  match c.a.bind parseSb, c.b.bind parseSb with
  | some a, some b => if a.sgen < b.sgen then some b else some a
  | some a, none => some a
  | none, b => b

/-! ## Member orders -/

/-- A slot whose ladder runs, or that is not ready after Drowse, holds its orders (R464, 02 Table 2-3). -/
def slotHolds (s : State) (m : SlotN) : Bool := (s.slot m).ladder.isSome || (s.slot m).step != 8

/-- A member command of the read class: it goes out in the next Dispatch phase, the running frame's where that is still to
come (01 R19). -/
def sendMember (s : State) (m : SlotN) (c : MemberCmd) (o : MOwner) : State :=
  let (id, s) := freshId s
  { s with morders := s.morders ++
      [{ id := id, slot := m, cmd := c, owner := o, retried := false, held := slotHolds s m, sent := none }] }

/-- Plans a member command of the write class: it is released at the commit point (01 R18). -/
def planMember (s : State) (m : SlotN) (c : MemberCmd) (o : MOwner) : State :=
  let (id, s) := freshId s
  addOrder s (.member { id := id, slot := m, cmd := c, owner := o, retried := false, held := false, sent := none })

/-- A released member order: it goes out, or waits while its slot holds orders; its shift has had a write released. -/
def releaseMember (s : State) (o : MOrder) : State :=
  let hold := slotHolds s o.slot
  let s := if hold then s else s.emit (.member o.slot o.cmd)
  let out := fun x : Shift => match o.owner with
    | .shift id _ => if x.id = id then { x with released := true } else x
    | _ => x
  { s with morders := s.morders ++ [{ o with held := hold, sent := if hold then none else some s.clock.frame }],
           shifts := s.shifts.map out }

/-- The Dispatch phase sends the orders that wait for it (01 R19), as far as the frame has room for orders (12 R378); one
whose slot holds orders by then is held. -/
def dispatchMembers (s : State) : State :=
  let due := fun o : MOrder => o.sent.isNone && !o.held
  let now := (s.morders.filter fun o => due o && !slotHolds s o.slot).take (orderRoom s.gate)
  let f := s.clock.frame
  { s with out := s.out ++ now.map fun o => .member o.slot o.cmd,
           gate := now.foldl (fun g o => issueTag s false false (.member o) g) s.gate,
           morders := s.morders.map fun o =>
             if now.contains o then { o with sent := some f }
             else if due o ∧ slotHolds s o.slot then { o with held := true } else o }

/-- May the order's completion be observed: in an Intake phase of a later frame than the one it went out in (01 R19)? -/
def MOrder.answered (s : State) (o : MOrder) : Bool :=
  observes s && !o.held && match o.sent with
    | some f => decide (f < obsFrame s)
    | none => false

/-! ## Superblock updates (R271) -/

/-- An absent volume entry. -/
def Volume.empty : Volume :=
  { present := false, isSealed := false, base := 0, size := 0, key := 0, grantA := 0, grantB := 0, wrap := zeros 40,
    stale := false, deleting := false }

/-- The rekey record while none runs. -/
def RekeyRec.none : RekeyRec := { vol := 0, state := 0, b := 0, wrap := zeros 40 }

/-- An update's content on top of a view. -/
def applySbEffect (prog : List W36) (a : ArraySt) : SbEffect → ArraySt
  | .none | .reply _ => a
  | .volumeCreate _ v vol _ => { a with vtab := a.vtab.set v.val vol }
  | .volumeDelete _ v =>
    { a with vtab := a.vtab.set v.val Volume.empty,
             rekey := if a.rekey.state ≠ 0 ∧ a.rekey.vol = v then RekeyRec.none else a.rekey }
  | .rekeyStart _ v _ w => { a with rekey := { vol := v, state := 1, b := 0, wrap := w } }
  | .rekeyEnd v =>
    { a with vtab := a.vtab.set v.val { a.vtab[v.val] with wrap := a.rekey.wrap },
             rekey := RekeyRec.none }
  | .swap => { a with prog := prog, pgen := a.pgen + 1, layout := 5 }
  | .creds _ h f => { a with home := h, fleet := f }
  | .adopt _ h _ => { a with home := h }
  | .arrayCreate _ v => v

/-- The program of the bank a swap activates. -/
def swapProg (s : State) : List W36 := match s.seq.swap with
  | some w => if w.bank then s.seq.bank1 else s.seq.bank0
  | none => []

/-- The updates under way: those whose writes are complete and whose EXEC is to come, then those still being written. -/
def sbPending (s : State) : List SbEffect :=
  (s.gate.priv.filterMap fun a => match a.act with
    | .superblock e => some e
    | _ => none) ++ s.sbq.map (·.effect)

/-- The content the superblocks are to hold once every update under way is complete. -/
def pendingView (s : State) : Option ArraySt :=
  (sbPending s).foldl (fun a e => match e, a with
    | .arrayCreate _ v, _ => some v
    | e, some a => some (applySbEffect (swapProg s) a e)
    | _, none => none) s.array

/-- One member's superblock write: sgen rises, copy A when it is even (R270). -/
def sbWriteOne (s : State) (view : ArraySt) (p : PosN) : State :=
  let m := (posEntry view p).slot
  let g := (s.slot m).sgen + 1
  let s := s.modSlot m fun x => { x with sgen := g }
  planMember s m (.write (if g % 2 = 0 then 0 else 4) (sbBytes g p view)) .superblock

/-- Rewrites the superblock of one position from the current view (Table 9-5). -/
def rewriteSb (s : State) (p : PosN) : State :=
  let s := { s with sbq := s.sbq ++ [{ effect := .none }] }
  match pendingView s with
  | none => s
  | some v => sbWriteOne s v p

/-- Starts an update: every member whose position is current or a target is written (R271). -/
def writeSb (s : State) (e : SbEffect) : State :=
  let s := { s with sbq := s.sbq ++ [{ effect := e }] }
  match pendingView s with
  | none => s
  | some v => ((livePos v).filter fun p => (posEntry v p).state != .missing).foldl (fun s p => sbWriteOne s v p) s

/-- ag rises; events at one commit point raise it once (R272). -/
def raiseAg (s : State) : State :=
  if s.gate.agUp then s
  else
    let s := s.modArray fun a => { a with ag := a.ag + 1 }
    { s with gate := { s.gate with agUp := true } }

/-! ## The write-intent bitmap (R277) -/

/-- log2 G for R rows: the smallest with ⌈R / G⌉ at most 2 096 640. -/
def bitmapG (rows : Nat) : Nat :=
  ((List.range 37).find? fun g => decide ((rows + 2 ^ g - 1) / 2 ^ g ≤ 2096640)).getD 36

def bitmapBase : Nat := 0x3E00000

def bitmapHeader (b : Bitmap) : Bytes :=
  leBytes 1 b.g ++ leBytes 1 (bit b.active) ++ zeros 6 ++ container b.ag ++ zeros 48

/-- A journal commit of the device's own records: it is released at the commit point of its frame (01 R18). -/
def planRecords (s : State) (ws : List (Nat × Bytes)) : State :=
  addOrder s (.journal { writes := ws, owner := .none, frame := s.clock.frame })

/-- Marking begins with the ag in force before the rise; the header says so, in Start once replay has ended. -/
def startMarking (s : State) (ag : Nat) : State :=
  if s.jnl.bitmap.active then s
  else
    let s := s.modJnl fun j => { j with bitmap := { j.bitmap with active := true, ag := ag } }
    if s.mode.mode = .start then s else planRecords s [(bitmapBase, bitmapHeader s.jnl.bitmap)]

/-- The bitmap is cleared when the last position becomes current: its header and every line with a mark. -/
def clearMarks (s : State) : State :=
  match s.array with
  | some a =>
    if (livePos a).all fun p => (posEntry a p).state == .current || (posEntry a p).state == .rebuildTarget then
      let marked := (s.jnl.bitmap.bits.map fun i => (512 + i) / 512).eraseDups
      let s := s.modJnl fun j => { j with bitmap := { j.bitmap with active := false, ag := 0, bits := [] } }
      planRecords s ((bitmapBase, bitmapHeader s.jnl.bitmap) :: marked.map fun l => (bitmapBase + 64 * l, zeros 64))
    else s
  | none => s

/-! ## Rebuild and resync (R282, R286, R288) -/

/-- The engine starts on a target, from the given watermark. -/
def runTarget (s : State) (p : PosN) (kind : RbKind) (w : Nat) : State :=
  let s := s.modArray fun a => { a with rbKind := kind, rbTarget := p, w := w }
  { s with eng := { s.eng with rebuild := { EngSt.init with running := true } } }

def kindOf (e : PEntry) : RbKind := if e.state = .resyncTarget then .resync else .rebuild

/-- The queued position's rebuild starts, from qw (R284); none queued leaves the engine stopped. -/
def startQueued (s : State) : State :=
  match s.array with
  | none => s
  | some a =>
    match a.queued with
    | some p =>
      runTarget (s.modArray fun a => { a with queued := none, qw := 0 }) p (kindOf (posEntry a p)) a.qw
    | none =>
      let s := s.modArray fun a => { a with rbKind := .none, rbTarget := 0, w := 0 }
      { s with eng := { s.eng with rebuild := EngSt.init } }

/-- A position placed as a target: one that returns in Salvage is resynced first, and the interrupted rebuild waits with its
W in qw (R288); any other target runs at once, or is queued with qw 0 where a rebuild runs (R282, R284). -/
def startTarget (s : State) (p : PosN) (kind : RbKind) (first : Bool) : State :=
  match s.array with
  | none => s
  | some a =>
    if a.rbKind = .none then runTarget s p kind 0
    else if s.eng.rebuild.running ∧ ¬ first then
      if a.queued.isNone then s.modArray fun a => { a with queued := some p, qw := 0 } else s
    else
      let s := s.modArray fun a => { a with queued := some a.rbTarget, qw := a.w }
      runTarget s p kind 0

/-! ## Loss (R275, R286, R296) -/

/-- A read-modify-write shift before its compute treats a unit whose position has gone as unavailable (07 R218). -/
def Shift.loses (x : Shift) (p : PosN) : Shift :=
  if x.purpose = .destage ∧ x.rmw ∧ (x.step = .reads ∨ x.step = .compute) then
    { x with out := if x.out.contains p then x.out else x.out ++ [p], wait := x.wait.erase p,
             got := x.got.filter fun u => u.pos != p, step := .reads }
  else x

/-- The position of a lost member becomes missing: its lost-at ag is the ag before the rise, 0 for a rebuild target,
unchanged for a resync target; the target's engine goes to the queued position (R272, R286, R296). -/
def losePos (s : State) (p : PosN) : State :=
  match s.array with
  | none => s
  | some a =>
    let e := posEntry a p
    let before := if s.gate.agUp then a.ag - 1 else a.ag
    let lost := match e.state with
      | .rebuildTarget => 0
      | .resyncTarget => e.lostAg
      | _ => before
    let s := startMarking s before
    let s := s.modArray fun a => setPos a p { e with state := .missing, lostAg := lost }
    let s := { s with eng := { s.eng with back := s.eng.back.erase p } }
    let s := { s with shifts := s.shifts.map fun x => x.loses p }
    let s := if a.queued = some p then s.modArray fun a => { a with queued := none, qw := 0 } else s
    let s := if a.rbKind ≠ .none ∧ a.rbTarget = p then startQueued s else s
    raiseAg s

/-- What an order that is treated as failed leaves behind: a block to solve, a source that is out, a write that did not
happen (R275, R294). -/
def failOrder (s : State) (o : MOrder) : State :=
  match o.owner with
  | .item f k => s.modTaken f fun t => { t with items := t.items.modify k fun i => { i with lost := true, data := none } }
  | .part id p _ =>
    { s with shifts := s.shifts.map fun x => if x.id = id ∧ x.wait.contains p then
        { x with out := if x.out.contains p then x.out else x.out ++ [p], wait := x.wait.erase p,
                 parts := x.parts.filter fun q => q.1 != p } else x }
  | .shift id p =>
    { s with shifts := s.shifts.map fun x =>
        if x.id ≠ id then x
        else match o.cmd with
          | .read .. => { x with out := if x.out.contains p then x.out else x.out ++ [p], wait := x.wait.erase p }
          | _ => { x with writesLeft := x.writesLeft - 1, written := x.written.erase p, failed := true,
                          endAt := max x.endAt (obsFrame s) } }
  | _ => s

/-- Fails every order to a slot, released or planned. -/
def failSlotOrders (s : State) (m : SlotN) : State :=
  let mine := s.morders.filter fun o => o.slot == m
  let planned := s.gate.orders.filterMap fun o => match o with
    | .member o => if o.slot = m then some o else none
    | _ => none
  let s := { s with morders := s.morders.filter (fun o => o.slot != m),
                    gate := { s.gate with orders := s.gate.orders.filter fun o => match o with
                      | .member o => o.slot != m
                      | _ => true } }
  (mine ++ planned).foldl failOrder s

/-- Fails the orders a slot holds: they do not go out again (R269). -/
def failHeld (s : State) (m : SlotN) : State :=
  let mine := s.morders.filter fun o => o.slot == m && o.held
  mine.foldl failOrder { s with morders := s.morders.filter fun o => !(o.slot == m && o.held) }

/-- ARRAY and the array-level record of a loss (13 R409, R410, Table 13-5). -/
def logLoss (s : State) (m : SlotN) (row ag : Nat) : State :=
  let s := { s with err := { s.err with arr := satInc s.err.arr } }
  let s := s.raise { LogRec.base 0x030 3 3 with
    src := 3, slot := BitVec.ofNat 3 m.val, payload := [row, ag], adds := bit s.err.arrOpen }
  { s with err := { s.err with arrOpen := true } }

/-- ARRAY on both ports (05 Table 5-6). -/
def postArray (s : State) (info : Nat) : State :=
  bothPorts.foldl (fun s p => if (s.port p).cstate = .run then
    postEvent s p (Event.base s 0x0020 (BitVec.ofNat 32 info)) else s) s

/-- MODE_CAUSE of a member cause (02 Table 2-6). -/
def memberCause (cause : Nat) (m : SlotN) : Nat := cause + 2 ^ 8 * 3 + 2 ^ 12 * m.val

/-- The slot begins its power-down (R269): a loss skips the flush and the shutdown. -/
def powerDown (s : State) (m : SlotN) (skip : Bool) : State :=
  s.modSlot m fun x => { x with pd := some { step := if skip then 1 else 0, due := none }, starting := none, waiting := false }

/-- A member is lost (R275): its orders fail, its position becomes missing, the mode change is planned, ag rises, and
the superblocks of the others are rewritten. -/
def loseMember (s : State) (m : SlotN) (row : Nat) (rail : Bool) : State :=
  let ag := match s.array with | some a => a.ag | none => 0
  let pos := posOfSlot s m
  let s := failSlotOrders s m
  let s := match pos with | some p => losePos s p | none => s
  let s := s.modSlot m fun x => { x with state := if rail then .powerFault else .failed, ladder := none, format := false }
  let s := powerDown s m true
  match pos with
  | none => s
  | some _ =>
    let s := postArray (logLoss s m row ag) (memberCause 0x06 m)
    let s := writeSb s .none
    let c := healthCond s
    planCond s (if c = .degraded ∧ s.mode.mode = .rebuild then 0x09 else 0x06) 3 m.val

def lossRow : LossRow → Nat
  | .removal => 1 | .rail => 2 | .writeError => 3 | .readOnly => 4 | .ladder => 5 | .linkLadder => 6 | .unrecovered => 7
  | .otherError => 8 | .smart => 9 | .mapFull => 10

/-! ## Placement and assembly (R273, Table 9-5) -/

/-- The rows of Table 9-5. -/
inductive Placing where
  | asRecorded
  | resync
  | rebuild
  | rewritten
  | foreign
deriving DecidableEq, Repr

/-- Table 9-5 for a member's superblock and the drive's serial. `taken`: another member of equal or higher ag holds the
position. -/
def placing (a : ArraySt) (sb : Superblock) (serial : Bytes) (taken : Bool) : Placing :=
  let e := posEntry a sb.pos
  if taken ∨ a.ag < sb.view.ag ∨ ¬ sb.pos.val < a.n then .foreign
  else if e.state = .missing then (if sb.view.ag = e.lostAg then .resync else .rebuild)
  else if sb.view.ag = a.ag then .asRecorded
  else if e.serial = padTo 20 serial then .rewritten
  else .foreign

/-- The NOTE of a placement that Table 9-5 logs. -/
def notePlacing (s : State) (m : SlotN) (foreign : Bool) : State := 
  logCase s 3 (if foreign then .foreign else .placedAgain) m.val

/-- Puts a ready member in its place. One that is behind has its own superblock rewritten. -/
def placeMember (s : State) (m : SlotN) (sb : Superblock) (taken : Bool) : State :=
  match s.array with
  | none => s.modSlot m fun x => { x with state := .foreign, sgen := sb.sgen }
  | some a =>
    let serial := match (s.slot m).drive with | some d => d.serial | none => []
    let e := posEntry a sb.pos
    let put := fun (s : State) (e : PEntry) =>
      (s.modArray fun a => setPos a sb.pos e).modSlot m fun x => { x with state := .member, sgen := sb.sgen }
    match placing a sb serial taken with
    | .asRecorded => put s { e with slot := m }
    | .rewritten => rewriteSb (notePlacing (put s { e with slot := m }) m false) sb.pos
    | .foreign => notePlacing (s.modSlot m fun x => { x with state := .foreign, sgen := sb.sgen }) m true
    | .resync =>
      let first := healthCond s == .salvage
      let s := put s { e with state := .resyncTarget, slot := m, serial := padTo 20 serial }
      let s := if first then { s with eng := { s.eng with back := s.eng.back ++ [sb.pos] } } else s
      raiseAg (startTarget s sb.pos .resync first)
    | .rebuild =>
      let s := put s { e with state := .rebuildTarget, slot := m, serial := padTo 20 serial }
      raiseAg (startTarget s sb.pos .rebuild false)

/-- Ready slots of S6: those that read a superblock or found none. -/
def readySlots (s : State) : List SlotN := allSlots.filter fun m => (s.slot m).state == .spare && (s.slot m).step == 8

/-- The slots whose superblock carries the uuid. -/
def groupOf (s : State) (u : BitVec 128) : List SlotN :=
  (readySlots s).filter fun m => match (s.slot m).sb with | some b => b.view.uuid == u | none => false

/-- The uuids present, by slot. -/
def groupIds (s : State) : List (BitVec 128) :=
  ((readySlots s).filterMap fun m => ((s.slot m).sb).map (·.view.uuid)).eraseDups

/-- Is the drive at least as large as the array's data area (R278)? -/
def bigEnough (s : State) (m : SlotN) : Bool :=
  match s.array, (s.slot m).drive with
  | some a, some d => decide (a.dsz ≤ d.blocks - 64)
  | _, _ => true

/-- The uuid the root store names as this device's last array. -/
def lastUuid (s : State) : BitVec 128 := BitVec.ofNat 128 (leNat (rootUuid s))

/-- The array to assemble: the last array if any member of it is present, else the largest group, lower slots first, but
never a foreign one while the journal holds unretired records (R273). -/
def chooseUuid (s : State) : Option (BitVec 128) :=
  let ids := groupIds s
  if ids.contains (lastUuid s) then some (lastUuid s)
  else if ¬ s.jnl.recs.isEmpty then none
  else ids.foldl (fun best u => match best with
    | none => some u
    | some b => if (groupOf s b).length < (groupOf s u).length then some u else some b) none

/-- The slot of the group with the highest ag, and the view of the highest pgen's program (R273). -/
def newestView (s : State) (g : List SlotN) : Option ArraySt :=
  let views := g.filterMap fun m => ((s.slot m).sb).map (·.view)
  let top := views.foldl (fun best v => match best with
    | none => some v
    | some b => if b.ag < v.ag then some v else some b) (none : Option ArraySt)
  let prog := views.foldl (fun best v => match best with
    | none => some v
    | some b => if b.pgen < v.pgen then some v else some b) (none : Option ArraySt)
  match top, prog with
  | some t, some p => some { t with prog := p.prog, pgen := p.pgen, layout := p.layout }
  | _, _ => none

/-- Is the position held by another of the group's members, of higher ag, or of equal ag in a lower slot? -/
def heldByOther (s : State) (g : List SlotN) (m : SlotN) (sb : Superblock) : Bool :=
  g.any fun x => x != m && match (s.slot x).sb with
    | some o => o.pos == sb.pos && (decide (sb.view.ag < o.view.ag) || (o.view.ag == sb.view.ag && decide (x.val < m.val)))
    | none => false

/-- The persisted rebuild or resync goes on from its watermark (R274); with more than m positions lacking it does not. -/
def resumeEngine (s : State) : State :=
  match s.array with
  | none => s
  | some a =>
    if a.rbKind ≠ .none ∧ isTarget (posEntry a a.rbTarget) ∧ ¬ layoutM s < (lacking s a).length then
      { s with eng := { s.eng with rebuild := { EngSt.init with running := true } } }
    else s

/-- Positions of the view whose member is not there are missing from now on (R274, R275). -/
def dropAbsent (s : State) : State :=
  match s.array with
  | none => s
  | some a =>
    ((livePos a).filter fun p => (posEntry a p).state != .missing &&
        !((s.slot (posEntry a p).slot).state == .member && posOfSlot s (posEntry a p).slot == some p)).foldl losePos s

/-- Assembly (R273): the array is chosen, its program goes to bank 0, and every ready member is placed. A foreign group
is adopted: the root store names it. -/
def assemble (s : State) : State :=
  let blankOrForeign := fun (s : State) =>
    allSlots.foldl (fun s m =>
      if (s.slot m).state = .spare ∧ (s.slot m).sb.isSome then
        s.modSlot m fun x => { x with state := .foreign } else s) s
  match chooseUuid s with
  | none => blankOrForeign { s with array := none }
  | some u =>
    let g := groupOf s u
    match newestView s g with
    | none => blankOrForeign s
    | some v =>
      let rest := (readySlots s).filter fun m => !g.contains m && ((s.slot m).sb).isSome
      let s := { s with array := some v, seq := { s.seq with bank0 := v.prog, bank1 := [], active := some false,
                                                             table := buildTable v.prog v.n } }
      let s := if u = lastUuid s then s else rootWrite s 0 (uuidBytes u)
      let small := fun (s : State) (m : SlotN) => s.modSlot m fun x => { x with state := .unsuitable }
      let s := g.foldl (fun s m => match (s.slot m).sb with
        | some sb => if bigEnough s m then placeMember s m sb (heldByOther s g m sb) else small s m
        | none => s) s
      let s := ((readySlots s).filter fun m => (s.slot m).sb.isNone && !bigEnough s m).foldl small s
      let s := rest.foldl (fun s m => s.modSlot m fun x => { x with state := .foreign }) s
      let s := resumeEngine (dropAbsent s)
      noteCond (if s.gate.agUp then writeSb s .none else s)

end Sys2Proof.Machine
end

