-- ==== Sys2Proof/Machine/Cache.lean ====
section
/-! DEFINITION. The stripe cache and the victim cache (08 R244 to R253): placement, lookup, allocation under the class
masks, fills, invalidation and way retirement; and the bulk read cache (01 Table 1-3). -/
namespace Sys2Proof.Machine

/-- The set of a line (R244). -/
def cacheSet (pos : PosN) (d l : Nat) : Nat := (16 * d + l + 171 * pos.val) % 1024

/-- Is it the line l of data-area block d of a position? The set tells l from the other lines of the block. -/
def CLine.at (c : CLine) (pos : PosN) (d l : Nat) : Bool := c.pos == pos && c.d == d && c.set == cacheSet pos d l

def lineIn (ls : List CLine) (pos : PosN) (d l : Nat) : Option CLine := ls.find? fun c => c.at pos d l

/-- The ways class c may allocate (01 R27, 03 R74). -/
def classMask (c : CacheSt) (i : ClassN) : BitVec 16 := c.cmask[i.val] &&& ~~~c.wayRet

/-- The lowest-numbered invalid way of a set among those of a mask. -/
def freeWay (c : CacheSt) (mask : BitVec 16) (set : Nat) : Option Nat :=
  (List.range 16).find? fun w => mask.getLsbD w && !c.lines.any fun x => x.set == set && x.way == w

/-- The least recently used unlocked line of a set among the ways of a mask. -/
def lruLine (c : CacheSt) (mask : BitVec 16) (set : Nat) : Option CLine :=
  (c.lines.filter fun x => x.set == set && mask.getLsbD x.way && !x.lock).getLast?

/-- Victim lines in service. -/
def victimRoom (c : CacheSt) : Nat := 32 - c.victRet

/-- A displaced line goes to the victim cache; the oldest victim makes room (R249). -/
def pushVictim (c : CacheSt) (x : CLine) : CacheSt :=
  if c.victDis ∨ c.victFenced ∨ victimRoom c = 0 then c
  else
    let v := c.victim ++ [x]
    { c with victim := v.drop (v.length - victimRoom c) }

/-- Allocation by a class (R245): the way chosen and the line it displaces; `none` where nothing is allocated, as while the
cache is under test (03 R92). -/
def allocWay (c : CacheSt) (cls : ClassN) (set : Nat) : Option (Nat × Option CLine) :=
  let mask := classMask c cls
  if c.fenced then none
  else match freeWay c mask set with
  | some w => some (w, none)
  | none => (lruLine c mask set).map fun x => (x.way, some x)

/-- Allocates a line for a class, most recently used; the displaced line moves to the victim cache. -/
def placeLine (c : CacheSt) (cls : ClassN) (x : CLine) : CacheSt :=
  match allocWay c cls x.set with
  | none => c
  | some (w, none) => { c with lines := { x with way := w } :: c.lines }
  | some (w, some old) =>
    pushVictim { c with lines := { x with way := w } :: c.lines.erase old } old

/-- A hit: the line becomes the most recently used; a victim hit by a class with a non-zero mask recalls the line, and
the line displaced by the recall takes its place (R249). -/
def touchLine (c : CacheSt) (cls : ClassN) (pos : PosN) (d l : Nat) : CacheSt :=
  match lineIn c.lines pos d l with
  | some x => { c with lines := x :: c.lines.erase x }
  | none =>
    match lineIn c.victim pos d l with
    | none => c
    | some x =>
      if classMask c cls = 0 then c
      else match allocWay c cls x.set with
        | none => c
        | some (w, none) => { c with lines := { x with way := w } :: c.lines, victim := c.victim.erase x }
        | some (w, some old) =>
          { c with lines := { x with way := w } :: c.lines.erase old,
                   victim := c.victim.map fun y => if y = x then old else y }

/-- The line wherever it is. -/
def anyLine (c : CacheSt) (pos : PosN) (d l : Nat) : Option CLine := match lineIn c.lines pos d l with
  | some x => some x
  | none => lineIn c.victim pos d l

/-- The 4096 bytes of a block whose 16 lines are all fully valid. -/
def cachedBlock (c : CacheSt) (pos : PosN) (d : Nat) : Option Bytes :=
  let ls := (List.range 16).map fun l => anyLine c pos d l
  if ls.all fun x => match x with | some x => x.sv == 15 | none => false then
    some (ls.flatMap fun x => match x with | some x => x.data | none => [])
  else none

/-! ## The bulk read cache (01 "How a read travels", Table 1-3) -/

/-- Blocks the read cache has room for: the 1 536 MiB the memory engine protects (10 R324) less the staging region, the
firmware data of both complexes and the retired pages (03 R76). DEDUCED (log entry 71). -/
def bulkRoom (s : State) : Nat := 16 * (24576 - 128 - 1024 - s.bulk.bad.length)

/-- The block as the bulk read cache holds it. -/
def bulkBlock (s : State) (pos : PosN) (d : Nat) : Option Bytes :=
  (s.bulk.reads.find? fun x => x.1 == pos && x.2.1 == d).map (·.2.2)

/-- Lines of a block leave the bulk read cache. -/
def bulkDrop (s : State) (pos : PosN) (d : Nat) : State :=
  { s with bulk := { s.bulk with reads := s.bulk.reads.filter fun x => !(x.1 == pos && x.2.1 == d) } }

/-- A host's member read enters the bulk read cache, whose oldest block makes room. DESIGN CHOICE (log entry 71). -/
def bulkFill (s : State) (pos : PosN) (d : Nat) (bs : Bytes) : State :=
  let s := bulkDrop s pos d
  { s with bulk := { s.bulk with reads := ((pos, d, bs) :: s.bulk.reads).take (bulkRoom s) } }

/-- What the stripe cache, or else the bulk read cache, has of a block. -/
def heldBlock (s : State) (pos : PosN) (d : Nat) : Option Bytes :=
  match cachedBlock s.cache pos d with
  | some bs => some bs
  | none => bulkBlock s pos d

/-! ## Reads, writes and fills -/

/-- A read that hits: its content, and the recency and recalls it causes. -/
def readCache (s : State) (cls : ClassN) (pos : PosN) (d : Nat) : Option (Bytes × State) :=
  (cachedBlock s.cache pos d).map fun bs =>
    (bs, { s with cache := (List.range 16).foldl (fun c l => touchLine c cls pos d l) s.cache })

/-- A read looks up the stripe cache, and on a miss the bulk read cache (01 "How a read travels"). -/
def readHeld (s : State) (cls : ClassN) (pos : PosN) (d : Nat) : Option (Bytes × State) :=
  match readCache s cls pos d with
  | some r => some r
  | none => (bulkBlock s pos d).map fun bs => (bs, s)

/-- Sectors of a line replaced where `want` has the bit: the bytes of the new content, else the old. -/
def mixSectors (want : BitVec 4) (old new : Bytes) : Bytes :=
  (List.range 4).flatMap fun i => slice (if want.getLsbD i then new else old) (64 * i) 64

/-- Changes a line in place, in the stripe cache or the victim cache. -/
def modLine (c : CacheSt) (pos : PosN) (d l : Nat) (f : CLine → CLine) : CacheSt :=
  let g := fun x : CLine => if x.at pos d l then f x else x
  { c with lines := c.lines.map g, victim := c.victim.map g }

/-- One line of a write: every sector valid and dirty under the request's key (R246). -/
def writeLine (c : CacheSt) (cls : ClassN) (pos : PosN) (d l : Nat) (key : Fin 64) (bs : Bytes) : CacheSt :=
  match anyLine c pos d l with
  | some _ =>
    touchLine (modLine c pos d l fun x => { x with sv := 15, sd := 15, key := key, data := bs }) cls pos d l
  | none =>
    placeLine c cls { set := cacheSet pos d l, way := 0, pos := pos, d := d, key := key, sv := 15, sd := 15,
                      lock := false, data := bs }

/-- One line of a member read: only sectors that are not valid, placed clean (R246). -/
def fillLine (c : CacheSt) (cls : ClassN) (pos : PosN) (d l : Nat) (key : Fin 64) (bs : Bytes) : CacheSt :=
  match anyLine c pos d l with
  | some x =>
    if x.sv = 15 then touchLine c cls pos d l
    else touchLine (modLine c pos d l fun x =>
      { x with sv := 15, data := mixSectors (~~~x.sv) x.data bs }) cls pos d l
  | none =>
    placeLine c cls { set := cacheSet pos d l, way := 0, pos := pos, d := d, key := key, sv := 15, sd := 0,
                      lock := false, data := bs }

/-- A WRITE block after encryption fills its 16 lines (R246); the bulk read cache no longer holds it. -/
def cacheWrite (s : State) (cls : ClassN) (pos : PosN) (d : Nat) (key : Fin 64) (bs : Bytes) : State :=
  let s := bulkDrop s pos d
  { s with cache := (List.range 16).foldl (fun c l => writeLine c cls pos d l key (slice bs (256 * l) 256)) s.cache }

/-- A member read fills the lines of its block (R246). -/
def cacheFill (s : State) (cls : ClassN) (pos : PosN) (d : Nat) (key : Fin 64) (bs : Bytes) : State :=
  { s with cache := (List.range 16).foldl (fun c l => fillLine c cls pos d l key (slice bs (256 * l) 256)) s.cache }

/-- Drops the unlocked lines `f` holds for, in both caches (R250, R251). -/
def dropLines (s : State) (f : CLine → Bool) : State :=
  let keep := fun x : CLine => x.lock || !f x
  { s with cache := { s.cache with lines := s.cache.lines.filter keep, victim := s.cache.victim.filter keep } }

/-- Is a line `f` holds for locked? -/
def lockedLine (s : State) (f : CLine → Bool) : Bool := s.cache.lines.any fun x => x.lock && f x

/-- Locks or unlocks the lines of a block. -/
def lockBlock (s : State) (pos : PosN) (d : Nat) (v : Bool) : State :=
  { s with cache := { s.cache with lines := s.cache.lines.map fun x =>
      if x.pos = pos ∧ x.d = d then { x with lock := v } else x } }

/-- Clears the dirty bits of a block (R246). -/
def cleanBlock (s : State) (pos : PosN) (d : Nat) : State :=
  let g := fun x : CLine => if x.pos = pos ∧ x.d = d then { x with sd := 0 } else x
  { s with cache := { s.cache with lines := s.cache.lines.map g, victim := s.cache.victim.map g } }

/-- The lines a CACHE_MAINT subop 2, 3 or 5 names: those of its range, or the one in its set and way, with the lines of
the victim cache that came from that set (R250). -/
def invalNames (s : State) (e : Entry) (x : CLine) : Bool :=
  if Entry.subop e = 5 then
    x.set == field (Entry.a e 0) 0 10 && x.way == field (Entry.a e 0) 16 4
  else
    let v : VolN := sixtyFour (field (Entry.a e 0) 0 6)
    let lbn := (Entry.a e 1).toNat + field (Entry.a e 2) 0 4 * 2 ^ 32
    let n := (Entry.a e 3).toNat
    (List.range n).any fun i =>
      let p := blockPlace s v (lbn + i)
      x.d == areaBlock s p.row p.b && rolePos s p.row (.data p.j) == some x.pos

/-- An invalidate acts: unlocked lines go now, and the command ends when no locked line of it is left (R251). -/
def invalAct (s : State) (f : Ref) (e : Entry) : State :=
  let names := invalNames s e
  let s := dropLines s names
  if lockedLine s names then setStage s f .drain else finishEntry s f Status.success []

/-- The invalidates that wait for locked lines, at the end of a shift (R251). -/
def invalWaiting (s : State) : State :=
  bothPorts.foldl (fun s p =>
    (s.ring p 0).taken.foldl (fun s t =>
      if t.stage = .drain ∧ Entry.opcode t.head = 0x1B then
        invalAct s { p := p, r := 0, i := t.i } t.head
      else s) s) s

/-- Retires a way: its lines go and every mask loses its bit (R248, 03 R74). -/
def retireWay (s : State) (w : Nat) : State :=
  { s with cache := { s.cache with wayRet := s.cache.wayRet ||| BitVec.ofNat 16 (2 ^ w),
                                   lines := s.cache.lines.filter (fun x => x.way != w) } }

end Sys2Proof.Machine
end

