-- ==== Sys2Proof/Machine/Journal.lean ====
section
/-! DEFINITION. The journal (08): regions, intent records, slots and room, what a record holds of a block, dirty blocks
and retirement, and the control block. -/
namespace Sys2Proof.Machine

/-! ## Regions (Table 8-1) -/

def slotAddr (k : Nat) : Nat := 0x1000 * k
def intentA : Nat := 0x3800000
def intentB : Nat := 0x3980000
def metaBase : Nat := 0x3B00000
def ctlA : Nat := 0x3DF8000
def ctlB : Nat := 0x3DF8040
def lostBase : Nat := 0x3E40000
def slotCount : Nat := 14336
def recCount : Nat := 24576

/-! ## Intent records (R233, Table 8-2) -/

def recTypeCode : RecType → Nat
  | .write => 1 | .dealloc => 2 | .row => 3 | .rowDone => 4 | .solved => 5
def recTypeOf : Nat → Option RecType
  | 1 => some .write | 2 => some .dealloc | 3 => some .row | 4 => some .rowDone | 5 => some .solved | _ => none

/-- The slot word of Table 8-2. -/
def recSlotWord (r : IntentRec) : Nat :=
  match r.type with
  | .write => r.slot
  | .dealloc => 0
  | .row => r.b0 + r.positions.toNat * 2 ^ 16 + r.dirty.toNat * 2 ^ 24
  | .rowDone => r.b0
  | .solved => r.slot + r.b0 * 2 ^ 16

/-- The 64 bytes of a record. -/
def intentBytes (r : IntentRec) : Bytes :=
  let named := r.names
  leBytes 8 r.seq ++ leBytes 1 (recTypeCode r.type) ++ leBytes 1 (if named then r.vol.val else 0) ++
  leBytes 2 (if named then bit r.isSealed + 2 * bit (r.through && r.type == .write) else 0) ++ leBytes 4 r.count ++
  container r.at_ ++ leBytes 4 (recSlotWord r) ++ leBytes 4 (if r.type = .solved then r.positions.toNat else 0) ++
  zeros 16 ++ container r.frame ++ zeros 8

/-- The record a line holds if it carries the sequence number (R241). -/
def parseIntent (bs : Bytes) (seq : Nat) : Option IntentRec :=
  let w := leNat (slice bs 24 4)
  match recTypeOf (leNat (slice bs 8 1)) with
  | none => none
  | some t =>
    if leNat (slice bs 0 8) ≠ seq then none
    else some {
      seq := seq, type := t, vol := sixtyFour (leNat (slice bs 9 1)), isSealed := leNat (slice bs 10 2) % 2 == 1,
      through := leNat (slice bs 10 2) / 2 % 2 == 1, count := leNat (slice bs 12 4), at_ := leNat (slice bs 16 8),
      slot := if t = .write ∨ t = .solved then w % 2 ^ 14 else 0,
      b0 := if t = .solved then w / 2 ^ 16 % 64 else if t = .row ∨ t = .rowDone then w % 64 else 0,
      positions := if t = .solved then BitVec.ofNat 6 (leNat (slice bs 28 4)) else BitVec.ofNat 6 (w / 2 ^ 16),
      dirty := BitVec.ofNat 6 (w / 2 ^ 24), frame := leNat (slice bs 48 8), port := none,
      durable := true, done := [] }

/-- A record goes to one line of both copies in the same commit (R233). -/
def intentWrites (r : IntentRec) : List (Nat × Bytes) :=
  let l := r.seq % recCount
  [(intentA + 64 * l, intentBytes r), (intentB + 64 * l, intentBytes r)]

/-- A record of a type with everything 0. -/
def IntentRec.base (t : RecType) : IntentRec :=
  { seq := 0, type := t, vol := 0, isSealed := false, through := false, count := 0, at_ := 0, slot := 0, b0 := 0,
    positions := 0, dirty := 0, frame := 0, port := none, durable := false,
    done := [] }

/-- Gives a record the next sequence number and the frame of its commit, and holds it. -/
def addRecIn (s : State) (frame : Nat) (r : IntentRec) : IntentRec × State :=
  let r := { r with seq := s.jnl.nextSeq, frame := frame }
  (r, s.modJnl fun j => { j with nextSeq := j.nextSeq + 1, recs := j.recs ++ [r] })

/-- A record whose commit is planned with the orders of the next commit point. -/
def addRec (s : State) (r : IntentRec) : IntentRec × State := addRecIn s (obsFrame s) r

/-! ## Slots (R234, R237) -/

def freeSlots (s : State) : Nat := slotCount - s.jnl.wcUsed

/-- Records the running destages still need: a SOLVED and a ROWDONE each (R239, R240). -/
def owedRecs (s : State) : Nat := 2 * (s.shifts.filter fun x => x.purpose == .destage).length

/-- Free records: those of the two copies that neither an unretired record nor a running destage needs. -/
def freeRecs (s : State) : Nat := recCount - (s.jnl.nextSeq - s.jnl.oldest) - owedRecs s

/-- Takes n consecutive slots at the head of the write cache. -/
def takeSlots (s : State) (n : Nat) : Nat × State :=
  (s.jnl.wcHead, s.modJnl fun j => { j with wcHead := (j.wcHead + n) % slotCount, wcUsed := j.wcUsed + n })

/-- The writes that put blocks into consecutive slots. -/
def slotWrites (first : Nat) (blocks : List Bytes) : List (Nat × Bytes) :=
  (List.range blocks.length).flatMap fun i => jnlWrite (slotAddr ((first + i) % slotCount)) (blocks.getD i [])

/-- The journal commits a frame plans: they are released at its commit point. -/
def plannedCommits (s : State) : List JCommit :=
  s.gate.orders.filterMap fun o => match o with
    | .journal c => some c
    | _ => none

/-- Plans a journal commit (01 R18): it is released at the commit point of its frame. -/
def planJournal (s : State) (ws : List (Nat × Bytes)) (o : JOwner) : State :=
  addOrder s (.journal { writes := ws, owner := o, frame := s.clock.frame })

/-- The journal's content with the writes that are planned or released and not yet durable. -/
def jnlMem (s : State) : Memory :=
  (s.jnl.inflight ++ plannedCommits s).foldl (fun m c => c.writes.foldl (fun m w => Memory.write m w.1 w.2) m) s.jnl.mem

def slotBytes (s : State) (k : Nat) : Bytes := Memory.read (jnlMem s) (slotAddr (k % slotCount)) blockBytes

/-- What a WRITE or DEALLOC record holds of its block i: ciphertext, or the zeros of R292. -/
def recBlock (s : State) (r : IntentRec) (i : Nat) : Bytes :=
  if r.type = .dealloc then zeros blockBytes else slotBytes s (r.slot + i)

/-! ## Dirty blocks (R238, R239) -/

/-- The array block address a record starts at. -/
def recAddr (s : State) (r : IntentRec) : Nat := volBase s r.vol + r.at_

/-- The array block address of a place. -/
def addrOf (s : State) (row j b : Nat) : Nat := row * rowBlocks s + j * arrayU s + b

/-- Does a record name the array block address? -/
def recHas (s : State) (r : IntentRec) (addr : Nat) : Bool :=
  r.names && decide (recAddr s r ≤ addr) && decide (addr < recAddr s r + r.count)

/-- The newest complete record that names the address (R239). -/
def newestComplete (s : State) (addr : Nat) : Option IntentRec :=
  (s.jnl.recs.filter fun r => r.durable && recHas s r addr).getLast?

/-- The record and offset by which a block is dirty: its newest complete record, not yet written by an ended shift. -/
def dirtyRec (s : State) (addr : Nat) : Option (IntentRec × Nat) :=
  match newestComplete s addr with
  | some r => if r.done.contains (addr - recAddr s r) then none else some (r, addr - recAddr s r)
  | none => none

/-- The array block address a data-area block of a position holds, where it holds one. -/
def areaAddr (s : State) (p : PosN) (d : Nat) : Option Nat :=
  let row := d / arrayU s
  match (rowDesc s row).lanes.getD p.val Role.none with
  | Role.data j => some (addrOf s row j (d % arrayU s))
  | _ => none

/-- The journal's content of a position's block, where an unretired record names it. -/
def journalBlock (s : State) (p : PosN) (d : Nat) : Option Bytes :=
  match areaAddr s p d with
  | none => none
  | some a => match (s.jnl.recs.filter fun r => recHas s r a).getLast? with
    | some r => if r.done.contains (a - recAddr s r) then none else some (recBlock s r (a - recAddr s r))
    | none => none

/-! ## Errors of the stripe cache (R247) -/

/-- The place of a line within its block. -/
def CLine.index (x : CLine) : Nat := (x.set + 1024 - (16 * x.d + 171 * x.pos.val) % 1024) % 1024

/-- One error: a corrected word is counted; a sector beyond correction is taken from the journal again or, where it does not
hold the block, leaves the line and is read from the members by its next use; a line whose tag fails is dropped. -/
def cacheFault (s : State) (f : CacheFault) : State :=
  let at_ := fun (set way : Nat) => s.cache.lines.find? fun x => x.set == set && x.way == way
  match f with
  | .single set way =>
    if (at_ set way).isNone then s else { s with cache := { s.cache with corr := satInc s.cache.corr } }
  | .double set way sector =>
    match at_ set way with
    | none => s
    | some x =>
      if ¬ x.sv.getLsbD sector then s
      else
        let bit := BitVec.ofNat 4 (2 ^ sector)
        let y := match journalBlock s x.pos x.d with
          | some bs => { x with data := mixSectors bit x.data (slice bs (256 * x.index) 256) }
          | none => { x with sv := x.sv &&& ~~~bit }
        { s with cache := { s.cache with
            lines := s.cache.lines.map fun z => if z = x then y else z,
            unc := satInc s.cache.unc,
            wayErr := if h : way < 16 then s.cache.wayErr.set way (s.cache.wayErr[way] + 1) else s.cache.wayErr } }
  | .tag set way =>
    if (at_ set way).isNone then s
    else { s with cache := { s.cache with
      lines := s.cache.lines.filter fun x => !(x.set == set && x.way == way), tpar := satInc s.cache.tpar } }

/-- The errors the lookups of a step meet. -/
def cacheFaults (s : State) (fs : List CacheFault) : State := fs.foldl cacheFault s

/-- Is the block dirty, on any of the row's data units at this block position? -/
def dirtyAt (s : State) (row b : Nat) : Bool :=
  (List.range (layoutK s)).any fun j => (dirtyRec s (addrOf s row j b)).isSome

/-- The windows of a row from its dirty block positions (R238). -/
def windowsFrom (s : State) (row u : Nat) : Nat → Nat → List (Nat × Nat)
  | 0, _ => []
  | fuel + 1, b =>
    match (List.range (u - b)).find? fun i => dirtyAt s row (b + i) with
    | none => []
    | some i =>
      let b0 := b + i
      let top := min (b0 + 16) u
      let w := ((List.range (top - b0)).filter fun i => dirtyAt s row (b0 + i)).getLastD 0 + 1
      (b0, w) :: windowsFrom s row u fuel top

def rowWindows (s : State) (row : Nat) : List (Nat × Nat) := windowsFrom s row (arrayU s) 8 0

/-! ## The control block (R235) and retirement (R240) -/

def ctlBytes (gen oldest tail : Nat) : Bytes := leBytes 8 gen ++ leBytes 8 oldest ++ leBytes 2 tail ++ zeros 46

/-- The write-cache tail: the first slot of the oldest unretired record that has slots, else the head. -/
def wcTail (s : State) : Nat :=
  match s.jnl.recs.find? fun r => r.type == .write || r.type == .solved with
  | some r => r.slot
  | none => s.jnl.wcHead

/-- A new control block, alternately in the two copies: an odd generation in the first. -/
def writeCtl (s : State) : State :=
  let g := s.jnl.ctlGen + 1
  let s := s.modJnl fun j => { j with ctlGen := g }
  planJournal s [(if g % 2 = 1 then ctlA else ctlB, ctlBytes g s.jnl.oldest (wcTail s))] .none

/-- Is every block of the record written, or named by a later complete record (R240)? -/
def recFinished (s : State) (r : IntentRec) : Bool :=
  r.durable && (List.range r.count).all fun i =>
    r.done.contains i ||
      s.jnl.recs.any fun q => q.durable && decide (r.seq < q.seq) && q.covers r.vol (r.at_ + i)

/-- Does an unretired WRITE or DEALLOC older than the record name a block of its window? -/
def windowOpen (s : State) (left : List IntentRec) (r : IntentRec) : Bool :=
  left.any fun q => q.names && decide (q.seq < r.seq) &&
    (List.range (layoutK s)).any fun j => (List.range r.count).any fun i => recHas s q (addrOf s r.at_ j (r.b0 + i))

/-- Is a shift of the record's window still running? -/
def windowRuns (s : State) (r : IntentRec) : Bool :=
  s.shifts.any fun x => x.purpose == .destage && x.row == r.at_ && x.b0 == r.b0

/-- The records that stay after retirement. -/
def recsLeft (s : State) : List IntentRec :=
  let named := s.jnl.recs.filter fun r => r.names && !recFinished s r
  s.jnl.recs.filter fun r =>
    if r.names then !recFinished s r
    else windowRuns s r || windowOpen s named r

/-- Retires what can retire; the tails advance over retired records, and the control block is rewritten when any did
(R235, R240). -/
def retire (s : State) : State :=
  let left := recsLeft s
  if left.length = s.jnl.recs.length then s
  else
    let s := s.modJnl fun j => { j with recs := left, oldest := (left.head?.map (·.seq)).getD j.nextSeq }
    let used := if left.any fun r => r.type == .write || r.type == .solved then
        (s.jnl.wcHead + slotCount - wcTail s - 1) % slotCount + 1 else 0
    writeCtl (s.modJnl fun j => { j with wcUsed := used })

/-- Blocks [lo, lo + n) of a volume have been written with content no older than the record's (R240). -/
def markDone (s : State) (upTo addr : Nat) : State :=
  let one := fun r : IntentRec =>
    if r.seq ≤ upTo ∧ recHas s r addr ∧ ¬ r.done.contains (addr - recAddr s r) then
      { r with done := r.done ++ [addr - recAddr s r] }
    else r
  s.modJnl fun j => { j with recs := j.recs.map one }

/-! ## The write-intent bitmap and the lost-unit map in the journal (09 R277, R279) -/

/-- The line of the bitmap that holds bit i. -/
def bitmapLine (b : Bitmap) (i : Nat) : Nat × Bytes :=
  let l := (512 + i) / 512
  (bitmapBase + 64 * l, leBytes 64 ((b.bits.filter fun x => (512 + x) / 512 == l).foldl
    (fun a x => a + 2 ^ ((512 + x) % 512)) 0))

/-- Marks a row; the line belongs to the shift's ROW commit (R277). -/
def markRow (s : State) (row : Nat) : State × List (Nat × Bytes) :=
  let i := row / 2 ^ s.jnl.bitmap.g
  if s.jnl.bitmap.bits.contains i then (s, [])
  else
    let s := s.modJnl fun j => { j with bitmap := { j.bitmap with bits := j.bitmap.bits ++ [i] } }
    (s, [bitmapLine s.jnl.bitmap i])

/-- The 16 bytes of a lost-unit entry. -/
def lostBytes (l : LostUnit) : Bytes :=
  leBytes 8 (l.row + l.pos.val * 2 ^ 36 + 2 ^ 39) ++ leBytes 8 ((l.good.map (2 ^ ·)).sum)

/-- The whole map as it is written: the header and the valid entries. -/
def lostWrites (s : State) : List (Nat × Bytes) :=
  jnlWrite lostBase (leBytes 8 s.jnl.lost.length ++ zeros 8 ++ s.jnl.lost.flatMap lostBytes ++ zeros 16)

/-- Enters a unit with the block positions of a window that are good; positions outside the window stay good. `none` where
the map is full (R281). -/
def enterLost (s : State) (row : Nat) (pos : PosN) (bad : List Nat) : Option State :=
  match s.jnl.lost.find? fun l => l.row == row && l.pos == pos with
  | some _ =>
    let one := fun l : LostUnit =>
      if l.row = row ∧ l.pos = pos then { l with good := l.good.filter fun b => !bad.contains b } else l
    some (s.modJnl fun j => { j with lost := j.lost.map one })
  | none =>
    if 16383 ≤ s.jnl.lost.length then none
    else
      let l : LostUnit := { row := row, pos := pos, good := (List.range (arrayU s)).filter fun b => !bad.contains b }
      some (s.modJnl fun j => { j with lost := j.lost ++ [l] })

/-- The LOST_UNIT record: row, position, block mask (13 Table 13-5). -/
def logLost (s : State) (row : Nat) (pos : PosN) : State :=
  let good := match s.jnl.lost.find? fun l => l.row == row && l.pos == pos with
    | some l => (l.good.map (2 ^ ·)).sum
    | none => 0
  s.raise { LogRec.base 0x031 3 0 with payload := [row, pos.val, good] }

/-- Enters a lost unit and logs it; a full map loses the position instead (R281). -/
def enterOrLose (s : State) (row : Nat) (pos : PosN) (bad : List Nat) : State :=
  if bad.isEmpty then s
  else match enterLost s row pos bad with
    | some s => logLost s row pos
    | none => match slotOf s pos with
      | some m => loseMember s m 10 false
      | none => s

/-- Sets the bit of a block; an entry with every bit set is removed (R280). -/
def healBlock (s : State) (row : Nat) (pos : PosN) (b : Nat) : State :=
  let set := fun l : LostUnit =>
    if l.row = row ∧ l.pos = pos ∧ ¬ l.good.contains b then { l with good := l.good ++ [b] } else l
  let keep := fun l : LostUnit => decide (l.good.length < arrayU s)
  s.modJnl fun j => { j with lost := (j.lost.map set).filter keep }

end Sys2Proof.Machine
end

