-- ==== Sys2Proof/Machine/Seal.lean ====
section
/-! DEFINITION. Sealed volumes (10 R313 to R322): tree geometry, the tag log, verified nodes, folds, the volume roots of
the root store, and the content of a block as the journal, the cache or the media give it. -/
namespace Sys2Proof.Machine

/-! ## Tree geometry (R313, R314) -/

/-- Sizes of the tree's levels, level 0 first; at most five for 2^36 blocks. -/
def levelSizes : Nat → Nat → List Nat
  | 0, _ => []
  | fuel + 1, n =>
    let m := (n + 255) / 256
    if m ≤ 1 then [1] else m :: levelSizes fuel m

def treeLevels (size : Nat) : List Nat := levelSizes 6 size

/-- Metadata blocks: the header and every node. -/
def metaBlocks (size : Nat) : Nat := 1 + (treeLevels size).sum

/-- S_r: the size rounded up to whole rows. -/
def roundedSize (s : State) (size : Nat) : Nat :=
  let kb := max 1 (rowBlocks s)
  (size + kb - 1) / kb * kb

/-- Rows a volume takes: its data rows and, sealed, its metadata rows. -/
def volRows (s : State) (size : Nat) (isSealed : Bool) : Nat :=
  let kb := max 1 (rowBlocks s)
  (size + kb - 1) / kb + (if isSealed then (metaBlocks size + kb - 1) / kb else 0)

/-- The LBN of node x of a level. -/
def nodeLbn (s : State) (size level x : Nat) : Nat := roundedSize s size + 1 + ((treeLevels size).take level).sum + x

def headerLbn (s : State) (size : Nat) : Nat := roundedSize s size

/-! ## Volume roots (R322) -/

structure VolRoot where
  version : Nat
  mac     : Bytes
  commit  : Nat
deriving DecidableEq, Repr

def rootBank (v : VolN) (b : Bool) : Nat := (if b then 0x0C40 else 0x0440) + 32 * v.val

def readRoot (s : State) (v : VolN) (b : Bool) : VolRoot :=
  let bs := s.root.read (rootBank v b) 32
  { version := leNat (slice bs 0 8), mac := slice bs 8 8, commit := leNat (slice bs 16 8) }

/-- The bank in force. -/
def rootBankNow (s : State) (v : VolN) : Bool := s.tags.bankB.getLsbD v.val

def setRootBank (s : State) (v : VolN) (b : Bool) : State :=
  let bit := BitVec.ofNat 64 (2 ^ v.val)
  { s with tags := { s.tags with bankB := if b then s.tags.bankB ||| bit else s.tags.bankB &&& ~~~bit } }

/-- The bank a Start takes: the newer entry whose commit number does not exceed the commit replay accepted (R322). -/
def startBank (s : State) (accepted : Nat) (v : VolN) : Bool :=
  let a := (readRoot s v false).commit
  let b := (readRoot s v true).commit
  decide (b ≤ accepted) && (decide (a < b) || decide (accepted < a))

/-- A root that is planned: a fold's goes with its commit, and one that a failed fold replaced is written again (R318). -/
def plannedRoot (v : VolN) : Order → Option VolRoot
  | .journal c => match c.owner with
    | .fold w ver mac => if w = v then some { version := ver, mac := mac, commit := 0 } else none
    | _ => none
  | .rootBack w ver mac n => if w = v then some { version := ver, mac := mac, commit := n } else none
  | _ => none

/-- A volume's root as the walks of its tree use it: the last one planned, else the one in force. -/
def volRoot (s : State) (v : VolN) : VolRoot :=
  ((s.gate.orders.filterMap (plannedRoot v)).getLast?).getD (readRoot s v (rootBankNow s v))

/-- Writes a volume's root into the bank not in force, which is in force from then on. -/
def writeVolRoot (s : State) (v : VolN) (r : VolRoot) : State :=
  setRootBank (rootWrite s (rootBank v (!rootBankNow s v)) (leBytes 8 r.version ++ padTo 8 r.mac ++ leBytes 8 r.commit ++ zeros 8))
    v (!rootBankNow s v)

/-- The root a failed fold replaced is written over the fold's (R318). -/
def restoreRoot (s : State) (v : VolN) (version : Nat) (mac : Bytes) (commit : Nat) : State :=
  rootWrite s (rootBank v (rootBankNow s v)) (leBytes 8 version ++ padTo 8 mac ++ leBytes 8 commit ++ zeros 8)

/-- The root-store write of a fold goes with the journal root of its commit (R318, R322). -/
def commitRoot (s : State) (o : JOwner) : State :=
  match o with
  | .fold v ver mac =>
    writeVolRoot s v { version := ver, mac := mac, commit := s.jnl.commitNo + s.jnl.inflight.length + 1 }
  | _ => s

/-- The number the next journal commit will have. -/
def nextCommit (s : State) : Nat := s.jnl.commitNo + s.jnl.inflight.length + (plannedCommits s).length + 1

/-! ## Keys of a block -/

/-- Is the volume under rekey, and its boundary B (10 R309)? -/
def rekeyBoundary (s : State) (v : VolN) : Nat :=
  match s.array with
  | some a => if a.rekey.state ≠ 0 ∧ a.rekey.vol = v then s.eng.rekey.b else 0
  | none => 0

/-- The slot of a block: the shadow slot below B, else the primary (10 R309). -/
def blockKeys (s : State) (v : VolN) (lbn : Nat) : Option VolKeys :=
  match volOf s v with
  | some x => if lbn < rekeyBoundary s v then s.keys.shadow[x.key.val] else s.keys.prim[x.key.val]
  | none => none

/-! ## Content of a block -/

/-- What a media read of an indivisible step gave for a position and data-area block. -/
def mediaAt (m : List MediaRead) (pos : PosN) (d : Nat) : Option Bytes :=
  match m.find? fun x => x.pos == pos && x.d == d with
  | some x => x.data
  | none => none

/-- The block of a role at a block position of a row, where its position is available and its read succeeded. -/
def mediaRole (s : State) (m : List MediaRead) (row b : Nat) (r : Role) : Option Bytes :=
  match rolePos s row r with
  | some p => if unavailable s row b p then none else mediaAt m p (areaBlock s row b)
  | none => none

/-- A data block from the media: read, or solved from the rest of its row (07 R219). -/
def mediaBlock (s : State) (m : List MediaRead) (row j b : Nat) : Option Bytes :=
  let d := rowDesc s row
  match mediaRole s m row b (.data j) with
  | some x => some x
  | none =>
    let data := (List.range d.k).map fun j => mediaRole s m row b (.data j)
    let reds := (List.range d.m).map fun a => mediaRole s m row b (.red a)
    (solveBlock d data reds).map fun bs => bs.getD j []

/-- Ciphertext (or metadata) of a block as it stands: the newest record that names it, the stripe cache, or the media. -/
def contentNow (s : State) (m : List MediaRead) (v : VolN) (lbn : Nat) : Option Bytes :=
  match newestRec s v lbn with
  | some r => some (recBlock s r (lbn - r.at_))
  | none =>
    let p := blockPlace s v lbn
    match (rolePos s p.row (.data p.j)).bind fun pos => heldBlock s pos (areaBlock s p.row p.b) with
    | some bs => some bs
    | none => mediaBlock s m p.row p.j p.b

/-! ## Nodes -/

/-- K_tree of a volume: from its slot, or from AMK in the master register (R318). -/
def treeKeyOf (s : State) (v : VolN) : Option Bytes :=
  match s.array, volOf s v with
  | some a, some x =>
    match s.keys.prim[x.key.val] with
    | some k => some k.tree
    | none => s.keys.amk.map fun k => treeKey k a.uuid v
  | _, _ => none

/-- A verified node of the metadata cache. -/
def cachedNode (s : State) (v : VolN) (level x : Nat) : Option Bytes :=
  (s.tags.nodes.find? fun n => n.vol == v && n.level == level && n.x == x).map (·.data)

/-- Holds a verified node, most recently used, of 64 (R320). -/
def keepNode (s : State) (v : VolN) (level x : Nat) (data : Bytes) : State :=
  let rest := s.tags.nodes.filter fun n => !(n.vol == v && n.level == level && n.x == x)
  { s with tags := { s.tags with nodes := (({ vol := v, level := level, x := x, data := data } : Node) :: rest).take 64 } }

/-- What the tree says of a block. -/
inductive TreeRes where
  | counter (ctr : Nat) (tag : Bytes)
  | need (lbn : Nat)
  | bad
deriving DecidableEq, Repr

/-- Walks from the node of a level whose version and MAC its parent gives down to the block's counter and tag (R315,
R320). Answers also the nodes it verified. -/
def treeWalk (s : State) (v : VolN) (size : Nat) (key : Bytes) (have_ : Nat → Option Bytes) (blk : Nat) :
    Nat → Nat → Bytes → List Node → TreeRes × List Node
  | 0, _, _, ns => (.bad, ns)
  | level + 1, version, mac, ns =>
    if version = 0 then (.counter 0 (zeros 8), ns)
    else
      let x := blk / 256 ^ (level + 1)
      let go := fun (data : Bytes) (ns : List Node) =>
        if level = 0 then
          (TreeRes.counter (leNat (slice data (2048 + 7 * (blk % 256)) 7)) (slice data (8 * (blk % 256)) 8), ns)
        else
          let c := blk / 256 ^ level % 256
          treeWalk s v size key have_ blk level (leNat (slice data (16 * c) 8)) (slice data (16 * c + 8) 8) ns
      match cachedNode s v level x with
      | some data => go data ns
      | none =>
        match have_ (nodeLbn s size level x) with
        | none => (.need (nodeLbn s size level x), ns)
        | some data =>
          if nodeMac key level x version data = mac then
            go data (ns ++ [{ vol := v, level := level, x := x, data := data }])
          else (.bad, ns)

/-- The newest tag-log entry that names a block (R320). -/
def tagEntry (s : State) (v : VolN) (lbn : Nat) : Option TagEnt :=
  (s.tags.tagLog.filter fun e => e.vol == v && e.lbn == lbn).getLast?

/-- Counter and tag of a sealed block: the tag log, else the tree from the root store down. -/
def sealedInfo (s : State) (v : VolN) (size : Nat) (have_ : Nat → Option Bytes) (lbn : Nat) : TreeRes × List Node :=
  match tagEntry s v lbn with
  | some e => (.counter e.ctr e.tag, [])
  | none =>
    match treeKeyOf s v with
    | none => (.bad, [])
    | some k => treeWalk s v size k have_ lbn (treeLevels size).length (volRoot s v).version (volRoot s v).mac []

/-- A volume marked stale (Table 10-3): every I/O on it fails until it is deleted; record and ARRAY event. -/
def markStale (s : State) (v : VolN) (row : Nat) : State :=
  let s := s.modArray fun a => { a with vtab := a.vtab.set v.val { a.vtab[v.val] with stale := true } }
  postArray (logIntegrity s v.val 0 row Status.treeMismatch) v.val

/-! ## The tag log (R317) -/

def tagLines : Nat := 16382
def freeTagLines (s : State) : Nat := tagLines - (s.tags.head - s.tags.tail)

/-- One entry of a tag-log line. -/
def tagBytes (e : TagEnt) : Bytes := container e.lbn ++ leBytes 8 e.ctr ++ padTo 8 e.tag

/-- A line of one or two entries. -/
def tagLine (es : List TagEnt) : Bytes :=
  match es with
  | [] => zeros 64
  | e :: _ => leBytes 6 e.seq ++ leBytes 1 e.vol.val ++ leBytes 1 es.length ++ zeros 8 ++ padTo 48 (es.flatMap tagBytes)

/-- Lays entries two to a line from the head. -/
def layTags (seq frame head : Nat) (v : VolN) : Nat → List (Nat × Nat × Bytes) → List TagEnt
  | _, [] => []
  | i, (lbn, ctr, tag) :: es =>
    { line := head + i / 2, seq := seq, vol := v, lbn := lbn, ctr := ctr, tag := tag, frame := frame } ::
      layTags seq frame head v (i + 1) es

/-- Adds a record's tags to the log; answers the writes of their lines. -/
def addTags (s : State) (seq : Nat) (v : VolN) (es : List (Nat × Nat × Bytes)) : List (Nat × Bytes) × State :=
  let ents := layTags seq s.clock.frame s.tags.head v 0 es
  let n := (es.length + 1) / 2
  let ws := (List.range n).map fun i =>
    (metaBase + 64 * ((s.tags.head + i) % tagLines), tagLine (ents.filter fun e => e.line == s.tags.head + i))
  (ws, { s with tags := { s.tags with tagLog := s.tags.tagLog ++ ents, head := s.tags.head + n } })

/-- Retires entries by record sequence; the tail advances to the oldest line still named. -/
def dropTags (s : State) (f : TagEnt → Bool) : State :=
  let left := s.tags.tagLog.filter fun e => !f e
  { s with tags := { s.tags with tagLog := left, tail := (left.head?.map (·.line)).getD s.tags.head } }

/-- Entries of a volume not in a fold under way. -/
def unfolded (s : State) (v : VolN) : List TagEnt :=
  s.tags.tagLog.filter fun e => e.vol == v && !s.tags.folding.any fun f => f.vol == v && f.seqs.contains e.seq

/-! ## Folds (R318) -/

/-- Replaces n bytes at an offset. -/
def patch (bs : Bytes) (o : Nat) (x : Bytes) : Bytes := bs.take o ++ x ++ bs.drop (o + x.length)

/-- A level-0 node with a block's counter and tag. -/
def putLeaf (data : Bytes) (e : TagEnt) : Bytes :=
  patch (patch data (8 * (e.lbn % 256)) (padTo 8 e.tag)) (2048 + 7 * (e.lbn % 256)) (leBytes 7 e.ctr)

/-- A node's version and MAC as its parent gives them: from the parent's content, or the root for the top. -/
structure NodeState where
  level   : Nat
  x       : Nat
  version : Nat
  data    : Bytes
deriving DecidableEq, Repr

/-- Loads and verifies the path to node x of level 0, from the top: `none` where a node fails or cannot be read. Nodes
already loaded are kept. -/
def loadPath (s : State) (v : VolN) (size : Nat) (key : Bytes) (media : List MediaRead) (x0 : Nat) :
    Nat → Nat → Bytes → List NodeState → Option (List NodeState)
  | 0, _, _, ns => some ns
  | level + 1, version, mac, ns =>
    let x := x0 / 256 ^ level
    let next := fun (n : NodeState) (ns : List NodeState) =>
      if level = 0 then some ns
      else
        let c := x0 / 256 ^ (level - 1) % 256
        loadPath s v size key media x0 level (leNat (slice n.data (16 * c) 8)) (slice n.data (16 * c + 8) 8) ns
    match ns.find? fun n => n.level == level && n.x == x with
    | some n => next n ns
    | none =>
      if version = 0 then
        let n : NodeState := { level := level, x := x, version := 0, data := zeros blockBytes }
        next n (ns ++ [n])
      else
        let got := match cachedNode s v level x with
          | some d => some d
          | none => match contentNow s media v (nodeLbn s size level x) with
            | some d => if nodeMac key level x version d = mac then some d else none
            | none => none
        match got with
        | none => none
        | some d =>
          let n : NodeState := { level := level, x := x, version := version, data := d }
          next n (ns ++ [n])

/-- Writes a child's new version and MAC into its parent. -/
def liftChild (ns : List NodeState) (level x version : Nat) (mac : Bytes) : List NodeState :=
  ns.map fun n => if n.level = level + 1 ∧ n.x = x / 256 then
    { n with data := patch n.data (16 * (x % 256)) (leBytes 8 version ++ mac) } else n

/-- Raises the versions of one level's nodes and carries their MACs up. -/
def liftLevel (key : Bytes) (ns : List NodeState) (level : Nat) : List NodeState :=
  (ns.filter fun n => n.level == level).foldl (fun ns n =>
    let ver := n.version + 1
    let ns := ns.map fun m => if m.level = level ∧ m.x = n.x then { m with version := ver } else m
    liftChild ns level n.x ver (nodeMac key level n.x ver n.data)) ns

/-- The nodes a fold writes, with their new contents and versions; `none` where one fails or cannot be read. -/
def foldNodes (s : State) (v : VolN) (size : Nat) (key : Bytes) (media : List MediaRead) (es : List TagEnt) :
    Option (List NodeState) :=
  let h := (treeLevels size).length
  let r := volRoot s v
  let loaded := ((es.map fun e => e.lbn / 256).eraseDups).foldl (fun a x => match a with
    | some ns => loadPath s v size key media x h r.version r.mac ns
    | none => none) (some [])
  loaded.map fun ns =>
    let ns := es.foldl (fun ns e => ns.map fun n =>
      if n.level = 0 ∧ n.x = e.lbn / 256 then { n with data := putLeaf n.data e } else n) ns
    (List.range h).foldl (liftLevel key) ns

/-- The header block (Table 10-2). -/
def headerBytes (version : Nat) (mac : Bytes) (h : Nat) : Bytes :=
  padTo blockBytes (leBytes 8 0x5345414C4B415631 ++ leBytes 8 version ++ padTo 8 mac ++ leBytes 8 h)

/-- One metadata block as a device write: a slot and a WRITE record. -/
def metaWrite (v : VolN) (a : List (Nat × Bytes) × List Nat × State) (b : Nat × Bytes) :
    List (Nat × Bytes) × List Nat × State :=
  let (first, s) := takeSlots a.2.2 1
  let (r, s) := addRec s { IntentRec.base .write with vol := v, count := 1, at_ := b.1, slot := first }
  (a.1 ++ slotWrites first [b.2] ++ intentWrites r, a.2.1 ++ [r.seq], s)

/-- Device writes of metadata blocks: their journal writes and records. -/
def metaWrites (s : State) (v : VolN) (blocks : List (Nat × Bytes)) : List (Nat × Bytes) × List Nat × State :=
  blocks.foldl (metaWrite v) ([], [], s)

/-- Does an entry wait for tag-log lines: a part of a sealed write that has fewer than its blocks need (R317, R336)? -/
def waitsForLines (s : State) (t : Taken) : Bool :=
  t.stage == .room && (match volOf s (Entry.vol t.head) with
    | some x => x.isSealed
    | none => false) && decide (freeTagLines s < (min 256 (ioCount t.head) + 1) / 2)

/-- Is a fold of the volume due: its oldest unfolded entry is 4096 F old, the tag log holds 8 191 lines, or a FLUSH or
LOCK needs it; folds of one volume start at least 64 F apart (R318)? A write that waits for lines needs it too (R336). -/
def foldDue (s : State) (v : VolN) : Bool :=
  let es := unfolded s v
  let waits := bothPorts.any fun p => allRings.any fun r => (s.ring p r).taken.any fun t =>
    (t.stage == .destage && Entry.opcode t.head == 4 && t.vols.contains v) || waitsForLines s t
  let gap := match s.tags.lastFold.find? fun x => x.1 == v with
    | some x => decide (64 ≤ s.clock.frame - x.2)
    | none => true
  let locking := match s.mode.plan with
    | some m => m.kind == .lock
    | none => false
  !es.isEmpty && gap && !(s.tags.folding.any fun f => f.vol == v) && (treeKeyOf s v).isSome &&
  ((es.any fun e => decide (4096 ≤ s.clock.frame - e.frame)) || decide (8191 ≤ s.tags.head - s.tags.tail) || waits ||
    locking || s.mode.mode == .locked)

/-- Room for the fold's writes. -/
def foldRoom (s : State) (n : Nat) : Bool := decide (n ≤ freeSlots s) && decide (n ≤ freeRecs s)

/-- A fold is released: node and header writes, and the root, in one journal commit. Waiting FLUSHes of the volume wait
for its node writes too (R319). -/
def foldRelease (s : State) (v : VolN) (size : Nat) (key : Bytes) (ns : List NodeState) (es : List TagEnt) : State :=
  let h := (treeLevels size).length
  let old := volRoot s v
  match ns.find? fun n => n.level + 1 == h with
  | none => s
  | some top =>
    let mac := nodeMac key top.level top.x top.version top.data
    let blocks := (ns.map fun n => (nodeLbn s size n.level n.x, n.data)) ++
      [(headerLbn s size, headerBytes top.version mac (h - 1))]
    let (ws, seqs, s) := metaWrites s v blocks
    let s := planJournal s ws (.fold v top.version mac)
    let s := ns.foldl (fun s n => keepNode s v n.level n.x n.data) s
    let last := (v, s.clock.frame) :: s.tags.lastFold.filter fun x => x.1 != v
    let f : Fold := { vol := v, seqs := (es.map (·.seq)).eraseDups, old := (old.version, old.mac) }
    let s := { s with tags := { s.tags with lastFold := last, folding := s.tags.folding ++ [f] } }
    let wait := fun t : Taken =>
      if t.stage = .destage ∧ Entry.opcode t.head = 4 ∧ t.vols.contains v then
        { t with seqs := t.seqs ++ seqs }
      else t
    let one := fun q : PortSt => { q with rings := q.rings.map fun x => { x with taken := x.taken.map wait } }
    { s with portA := one s.portA, portB := one s.portB }

/-- FOLD_START (R318): the fold is verified and released, or the volume is marked stale and its entries retire. -/
def foldVolume (s : State) (v : VolN) (media : List MediaRead) : State :=
  match volOf s v, treeKeyOf s v with
  | some x, some key =>
    let es := unfolded s v
    if x.stale then dropTags s fun e => e.vol == v
    else match foldNodes s v x.size key media es with
      | none => markStale (dropTags s fun e => e.vol == v) v 7
      | some ns =>
        if foldRoom s (ns.length + 1) then foldRelease s v x.size key ns es else s
  | _, _ => s

/-- The fold's commit is durable: its entries retire. -/
def foldDurable (s : State) (v : VolN) : State :=
  match s.tags.folding.find? fun f => f.vol == v with
  | none => s
  | some f =>
    let s := dropTags s fun e => e.vol == v && f.seqs.contains e.seq
    { s with tags := { s.tags with folding := s.tags.folding.filter fun f => f.vol != v } }

/-- The fold's commit failed: the nodes go, and the root before it is written again at the commit point (R318). -/
def foldFailed (s : State) (v : VolN) : State :=
  match s.tags.folding.find? fun f => f.vol == v with
  | none => s
  | some f =>
    let s := addOrder s (.rootBack v f.old.1 f.old.2 s.jnl.commitNo)
    { s with tags := { s.tags with nodes := s.tags.nodes.filter (fun n => n.vol != v),
                                   folding := s.tags.folding.filter (fun f => f.vol != v),
                                   lastFold := (v, s.clock.frame) :: s.tags.lastFold.filter fun x => x.1 != v } }

/-- FOLD_START as a command of the Plan phase. -/
def execFoldStart (v : VolN) (media : List MediaRead) (s : State) : Host.Outcome State Fault Refusal :=
  if planPhase s ∧ foldDue s v then .next (foldVolume s v media) else .next s

end Sys2Proof.Machine
end

