-- ==== Sys2Proof/Machine/Charges.lean ====
section
/-! DEFINITION. Frame shares (01 R28, R29, 09 R285): what each party is guaranteed, the work that waits for charges, and
the two passes that hand them out. A party is a port, or `none` for the background engines. -/
namespace Sys2Proof.Machine

/-- A party with share s is guaranteed 2 × s charges. -/
def guarantee (s : State) : Option Port → Nat
  | some .a => 2 * shareA s
  | some .b => 2 * shareB s
  | none => 2 * shareBg s

/-- The weight of an engine in the background split. -/
def engWeight (s : State) : Engine → Nat
  | .rebuild => splitWord s % 16
  | .rekey => splitWord s / 16 % 16
  | .scrub => splitWord s / 256 % 16

def engRunning (s : State) : Engine → Bool
  | .rebuild => s.eng.rebuild.running && !s.eng.rebuild.paused
  | .rekey => s.eng.rekey.running && !s.eng.rekey.paused
  | .scrub => s.eng.scrub.running && !s.eng.scrub.paused

/-- ⌊B·w / 8⌋ (R285). -/
def engGuarantee (s : State) (e : Engine) : Nat := guarantee s none * engWeight s e / 8

/-- Does a rekey step hold a block of the range (10 R329)? -/
def rekeyHolds (s : State) (v : VolN) (lbn n : Nat) : Bool :=
  let k := s.eng.rekey
  k.inStep && k.vol == v && decide (lbn < k.b + 32) && decide (k.b < lbn + n)

/-- The part of a DEALLOCATE that is next (10 R461), or the whole range. -/
def partOf (t : Taken) (x : Volume) : Nat × Nat :=
  let e := t.head
  let n := ioCount e
  if Entry.opcode e = 5 ∧ x.isSealed then (Entry.lbn e + 256 * t.seqs.length, min 256 (n - 256 * t.seqs.length))
  else (Entry.lbn e, n)

/-- Does a rekey step hold the blocks of an I/O entry (10 R329)? It waits then. -/
def heldByRekey (s : State) (t : Taken) : Bool :=
  let v := Entry.vol t.head
  match volOf s v with
  | some x => isIoOp (Entry.opcode t.head) && rekeyHolds s v (partOf t x).1 (partOf t x).2
  | none => false

/-! ## Work that waits for charges (R28) -/

/-- What waits for charges: an entry, a shift, or a step of rekey. -/
inductive Work where
  | entry (f : Ref)
  | shift (id : Nat)
  | rekey
deriving DecidableEq, Repr

/-- Puts an element in the order of the numbers. -/
def insertOrd {α : Type} (x : Nat × α) : List (Nat × α) → List (Nat × α)
  | [] => [x]
  | y :: ys => if x.1 ≤ y.1 then x :: y :: ys else y :: insertOrd x ys

def sortOrd {α : Type} (l : List (Nat × α)) : List (Nat × α) := l.foldr insertOrd []

/-- The entries of a port that wait for charges, each with its number and need; one a rekey step holds waits (10 R329). -/
def entryWork (s : State) (p : Port) : List (Nat × Work × Nat) :=
  allRings.flatMap fun r => (s.ring p r).taken.filterMap fun t => match t.stage with
    | .engine n => if heldByRekey s t then none else some (t.ord, .entry { p := p, r := r, i := t.i }, n)
    | _ => none

/-- The engine of a background shift. DESIGN CHOICE (log entry 70): the destage of the device's own records, which no host
entry caused, counts with rekey. -/
def shiftEngine (x : Shift) : Engine := match x.purpose with
  | .check => .scrub
  | .destage => .rekey
  | _ => .rebuild

/-- The shifts that a test holds for and whose compute is planned, each with its number and need. -/
def shiftWork (s : State) (f : Shift → Bool) : List (Nat × Work × Nat) :=
  (s.shifts.filter fun x => x.step == .compute && f x).map fun x => (x.id, .shift x.id, x.need)

/-- The step of rekey that waits for charges. -/
def rekeyWork (s : State) : List (Nat × Work × Nat) :=
  let k := s.eng.rekey
  if k.inStep ∧ ¬ k.sent ∧ k.need ≠ 0 then [(s.gate.nextId, .rekey, k.need)] else []

/-- A port's work, in the order in which it began; while 87.5 % of the write cache is in use its destages come first (08
R238). -/
def portWork (s : State) (p : Port) : List (Nat × Work × Nat) :=
  let full := decide (12544 ≤ s.jnl.wcUsed)
  let first := fun x : Shift => full && x.purpose == .destage
  sortOrd (shiftWork s fun x => x.party == some p && first x) ++
    sortOrd (shiftWork s (fun x => x.party == some p && !first x) ++ entryWork s p)

/-- An engine's work. -/
def engWork (s : State) (e : Engine) : List (Nat × Work × Nat) :=
  sortOrd (shiftWork s (fun x => x.party.isNone && shiftEngine x == e)) ++ if e = .rekey then rekeyWork s else []

def workNeed (ws : List (Nat × Work × Nat)) : Nat := (ws.map fun w => w.2.2).sum

/-- The engines in the order of R285. -/
def engOrder : List Engine := [.rebuild, .rekey, .scrub]

/-! ## The two passes (R29, 09 R285) -/

/-- One turn: a charge to each party that still has work, while any is left. -/
def handRound : Nat → List Nat → List Nat
  | _, [] => []
  | left, n :: ns => if n = 0 ∨ left = 0 then 0 :: handRound left ns else 1 :: handRound (left - 1) ns

/-- The second pass: what is left is handed out in turns. -/
def handOut : Nat → Nat → List Nat → List Nat
  | 0, _, ns => ns.map fun _ => 0
  | fuel + 1, left, ns =>
    let r := handRound left ns
    if r.sum = 0 then r
    else List.zipWith (· + ·) r (handOut fuel (left - r.sum) (List.zipWith (· - ·) ns r))

/-- Both passes of R29 over the parties in turn order: their needs and their guarantees give what each is charged. -/
def handCharges (needs guaranteed : List Nat) : List Nat :=
  let first := List.zipWith min needs guaranteed
  List.zipWith (· + ·) first (handOut 32 (32 - first.sum) (List.zipWith (· - ·) needs first))

/-- Charges that are left go to the engines with work in their order (R285). -/
def handDown : Nat → List Nat → List Nat
  | _, [] => []
  | left, n :: ns => min left n :: handDown (left - min left n) ns

/-- The background party's charges among its engines (R285). -/
def splitCharges (total : Nat) (needs guaranteed : List Nat) : List Nat :=
  let first := List.zipWith min needs guaranteed
  List.zipWith (· + ·) first (handDown (total - first.sum) (List.zipWith (· - ·) needs first))

/-- Charges a port. -/
def chargePort (s : State) (p : Port) (n : Nat) : State :=
  match p with
  | .a => { s with gate := { s.gate with spentA := s.gate.spentA + n } }
  | .b => { s with gate := { s.gate with spentB := s.gate.spentB + n } }

def chargeEng (s : State) (e : Engine) (n : Nat) : State :=
  match e with
  | .rebuild => { s with gate := { s.gate with spentRb := s.gate.spentRb + n } }
  | .rekey => { s with gate := { s.gate with spentRk := s.gate.spentRk + n } }
  | .scrub => { s with gate := { s.gate with spentSc := s.gate.spentSc + n } }

end Sys2Proof.Machine
end

