-- ==== Sys2Proof/Machine/Shifts.lean ====
section
/-! DEFINITION. Shifts (07 R217 to R219, 08 R238 to R240, R463, 09 R276, R280 to R291): evaluation, reads, compute,
writes and ends, for the five purposes, and the commands that drive them. -/
namespace Sys2Proof.Machine

/-! ## Contexts and windows -/

/-- Do two windows of one row overlap? -/
def overlaps (x : Shift) (row b0 w : Nat) : Bool :=
  x.row == row && decide (x.b0 < b0 + w) && decide (b0 < x.b0 + x.w)

/-- A self-test of a target runs (03 Table 3-8). -/
def testing (s : State) (id : Nat) : Bool := match s.test with
  | some t => t.id == id
  | none => false

/-- May a shift of this purpose start (R217): a context is free, and eight are left to RECON; not during a hold (R223) or
a test of the sequencer (03 Table 3-8)? -/
def contextFree (s : State) (recon : Bool) : Bool :=
  decide (s.shifts.length < 32) && !testing s 0x0D &&
  (recon || decide ((s.shifts.filter fun x => x.purpose != .recon).length < 24)) && (recon || !s.seq.hold)

def windowFree (s : State) (row b0 w : Nat) : Bool := !s.shifts.any fun x => overlaps x row b0 w

/-- Is a position unavailable anywhere in a window? -/
def winOut (s : State) (row b0 w : Nat) (p : PosN) : Bool := (List.range w).any fun i => posOut s p row (b0 + i)

def Shift.idx (x : Shift) : List Nat := List.range x.w

/-- The class of a port's own reads (01 Table 1-5). -/
def portCls : Port → ClassN
  | .a => 0
  | .b => 1

/-- The class of a shift's reads (01 Table 1-5): a RECON reads for its port. -/
def Shift.cls (x : Shift) : ClassN := match x.purpose with
  | .destage => 2
  | .recon => match x.party with
    | some p => portCls p
    | none => 0
  | .rebuild | .resync => 3
  | .check => 4

/-- The position of a role in a descriptor. -/
def descPos (d : Descriptor) (r : Role) : Option PosN :=
  match d.laneOf r with
  | some l => if h : l < 6 then some ⟨l, h⟩ else none
  | none => none

def Shift.pos (x : Shift) (r : Role) : Option PosN := descPos x.desc r
def Shift.dataIdx (x : Shift) : List Nat := List.range x.desc.k
def Shift.redIdx (x : Shift) : List Nat := List.range x.desc.m

/-- What a shift has read of a role at block i of its window. -/
def Shift.have_ (x : Shift) (r : Role) (i : Nat) : Option Bytes :=
  match x.pos r with
  | none => none
  | some p => match x.got.find? fun u => u.pos == p with
    | some u => u.blocks.getD i none
    | none => none

/-- The new content of data unit j at block i, where it is dirty. -/
def Shift.new (x : Shift) (j i : Nat) : Option Bytes :=
  match x.dirty.find? fun u => u.1 == j with
  | some u => u.2.getD i none
  | none => none

def Shift.isDirty (x : Shift) (j : Nat) : Bool := x.dirty.any fun u => u.1 == j

/-- A position whose window cannot be read whole: out, or read with a block missing. -/
def Shift.bad (x : Shift) (p : PosN) : Bool :=
  x.out.contains p || x.got.any fun u => u.pos == p && u.blocks.any Option.isNone

def Shift.badRole (x : Shift) (r : Role) : Bool := match x.pos r with
  | some p => x.bad p
  | none => true

/-- Data units a solve must supply: for a destage those not wholly dirty, else every one. -/
def Shift.unknown (x : Shift) : List Nat :=
  x.dataIdx.filter fun j => x.badRole (.data j) &&
    !(x.purpose == .destage && x.idx.all fun i => (x.new j i).isSome ||
      !x.dataIdx.any fun l => (x.new l i).isSome)

/-- The first e accumulators that can be read whole (R219). -/
def Shift.solveReds (x : Shift) : List Nat := (x.redIdx.filter fun a => !x.badRole (.red a)).take x.unknown.length

/-- The roles a shift reads (Table 7-6, R218, R219). -/
def Shift.reads (x : Shift) : List Role :=
  let reds := fun as : List Nat => as.map Role.red
  let datas := fun js : List Nat => js.map Role.data
  match x.purpose with
  | .check => datas x.dataIdx ++ reds x.redIdx
  | .destage =>
    if x.rmw then datas (x.dirty.map (·.1)) ++ reds x.redIdx
    else if x.unknown.isEmpty then
      datas (x.dataIdx.filter fun j => !x.idx.all fun i =>
        (x.new j i).isSome || !x.dataIdx.any fun l => (x.new l i).isSome)
    else datas x.dataIdx ++ reds x.solveReds
  | _ => datas x.dataIdx ++ reds x.solveReds

/-- Positions still to be read: neither out, nor read, nor under way. -/
def Shift.toRead (x : Shift) : List PosN :=
  (x.reads.filterMap fun r => x.pos r).filter fun p =>
    !x.out.contains p && !x.wait.contains p && !x.got.any fun u => u.pos == p

def putShift (s : State) (x : Shift) : State :=
  { s with shifts := s.shifts.map fun y => if y.id = x.id then x else y }

def dropShift (s : State) (id : Nat) : State := { s with shifts := s.shifts.filter fun y => y.id != id }

/-- Dispatches the reads a shift needs and has not made (R217, R218). -/
def dispatchReads (s : State) (x : Shift) : State :=
  let ps := x.toRead
  let s := putShift s { x with wait := x.wait ++ ps, parts := x.parts.filter fun q => !ps.contains q.1 }
  ps.foldl (fun s p => match slotOf s p with
    | some m => sendMember s m (.read (64 + areaBlock s x.row x.b0) x.w) (.shift x.id p)
    | none => s) s

/-- A source has failed or gone: a read-modify-write shift changes to reconstruct-write, and what is still needed is read
(R218). A CHECK shift that lost a source reads nothing more. -/
def replan (s : State) (id : Nat) : State :=
  match s.shifts.find? fun x => x.id == id with
  | none => s
  | some x =>
    let hit := x.reads.any fun r => x.badRole r
    let x := if x.purpose = .destage ∧ x.rmw ∧ hit then { x with rmw := false } else x
    if x.step = .reads then dispatchReads s x else s

/-- A shift at evaluation. It is charged one charge per block position where it passes a block through the parity units,
which a row without accumulators never does (R217). -/
def newShift (s : State) (id : Nat) (p : Purpose) (row b0 w : Nat) : Shift :=
  let desc := rowDesc s row
  { id := id, purpose := p, row := row, b0 := b0, w := w, bank := s.seq.active.getD false, desc := desc,
    dirty := [], rmw := false,
    out := match s.array with
      | some a => (livePos a).filter fun q => winOut s row b0 w q
      | none => [],
    wait := [], got := [], step := .reads, seq := s.jnl.nextSeq - 1, rowDurable := false,
    solvedWait := false, written := [], writesLeft := 0, released := false, unrecoverable := false, party := none,
    need := if desc.m = 0 then 0 else w, endAt := 0, failed := false }

/-- The table or its bank fails: the active bank is loaded again, from the ROM program of layouts 0 to 4 and else from the
superblock copy, the table is rebuilt and a record is written; what was to be evaluated issues no order (R221). -/
def descriptorReload (s : State) : State :=
  match s.array, s.seq.active with
  | some a, some bank =>
    let prog := if a.layout ≤ 4 then romProgram a.layout else a.prog
    let q := { s.seq with table := buildTable prog a.n }
    logCase { s with seq := if bank then { q with bank1 := prog } else { q with bank0 := prog } } 0 .descriptor bank.toNat
  | _, _ => s

/-! ## DESTAGE (08 R238, R239) -/

/-- The modes whose Table 2-4 row lists a service or an engine, and Drowse entry. -/
def destageMode (s : State) : Bool :=
  match s.mode.mode with
  | .vault | .freeze | .lockdown | .start => false
  | _ => true

/-- Class 1: the row holds a block of a WRITE_THROUGH entry, or one a FLUSH or a clean waits for (R238, Table 8-4). -/
def rowUrgent (s : State) (row : Nat) : Bool :=
  let waits := bothPorts.flatMap fun p => allRings.flatMap fun r =>
    ((s.ring p r).taken.filter fun t => t.stage == .destage).flatMap fun t => t.seqs
  s.jnl.recs.any fun r => r.names && (r.through || waits.contains r.seq) &&
    decide ((recRows s r).1 ≤ row) && decide (row ≤ (recRows s r).2)

/-- The destage queue: class 1, then the others, each in the order of their oldest unretired record (R238). -/
def destageQueue (s : State) : List Nat :=
  let rows := dirtyRows s
  (rows.filter fun r => rowUrgent s r) ++ (rows.filter fun r => !rowUrgent s r)

/-- The first queued window that overlaps no running shift of its row. -/
def nextWindow (s : State) : Option (Nat × Nat × Nat) :=
  ((destageQueue s).flatMap fun r => (rowWindows s r).map fun w => (r, w.1, w.2)).find? fun x =>
    windowFree s x.1 x.2.1 x.2.2

/-- The dirty units of a window with their new content (R239). -/
def windowDirty (s : State) (row b0 w : Nat) : List (Nat × List (Option Bytes)) :=
  ((List.range (layoutK s)).map fun j => (j, (List.range w).map fun i =>
    (dirtyRec s (addrOf s row j (b0 + i))).map fun r => recBlock s r.1 r.2)).filter fun u => u.2.any Option.isSome

/-- The port of the window's oldest dirty record. -/
def windowParty (s : State) (row b0 w : Nat) : Option Port :=
  let rs := (List.range (layoutK s)).flatMap fun j => (List.range w).filterMap fun i =>
    (dirtyRec s (addrOf s row j (b0 + i))).map (·.1)
  ((rs.foldl (fun best r => match best with
    | none => some r
    | some b => if r.seq < b.seq then some r else some b) none).bind fun r => r.port)

/-- Read-modify-write, where its units are available and |S| + m < k − |S| (R218). -/
def useRmw (x : Shift) : Bool :=
  let n := x.dirty.length
  decide (n + x.desc.m < x.desc.k - n) &&
  (x.dirty.all fun u => !x.badRole (.data u.1)) && x.redIdx.all fun a => !x.badRole (.red a)

/-- The positions a destage writes: dirty units and accumulators, where they can be written. -/
def destageTargets (x : Shift) : List PosN :=
  (x.dirty.filterMap fun u => x.pos (.data u.1)) ++ x.redIdx.filterMap fun a => x.pos (.red a)

def posMask (ps : List PosN) : BitVec 6 := BitVec.ofNat 6 ((ps.eraseDups.map fun p => 2 ^ p.val).sum)
def unitMask (js : List Nat) : BitVec 6 := BitVec.ofNat 6 ((js.map fun j => 2 ^ j).sum)

/-- Does the window skip a position that marking records: one that is missing (R277)? -/
def skipsMissing (s : State) (ps : List PosN) : Bool := match s.array with
  | some a => ps.any fun p => (posEntry a p).state == .missing
  | none => false

/-- Locks or unlocks the lines of the window's dirty blocks. -/
def lockWindow (s : State) (x : Shift) (v : Bool) : State :=
  x.dirty.foldl (fun s u => match x.pos (.data u.1) with
    | some p => x.idx.foldl (fun s i => lockBlock s p (areaBlock s x.row (x.b0 + i)) v) s
    | none => s) s

/-- Is it a line of the window's dirty blocks? -/
def shiftLocks (s : State) (x : Shift) (y : CLine) : Bool :=
  x.dirty.any fun u => x.pos (.data u.1) == some y.pos && x.idx.any fun i => areaBlock s x.row (x.b0 + i) == y.d

/-- A DESTAGE shift is evaluated: its content is taken, its reads go out, and its ROW record is released (R217, R239). -/
def startDestage (s : State) (row b0 w : Nat) : State :=
  let (id, s) := freshId s
  let x := { newShift s id .destage row b0 w with dirty := windowDirty s row b0 w, party := windowParty s row b0 w }
  let x := { x with rmw := useRmw x }
  let targets := (destageTargets x).filter fun p => x.idx.any fun i => posWritten s p row (b0 + i)
  let (r, s) := addRec s { IntentRec.base .row with
    count := w, at_ := row, b0 := b0, positions := posMask targets, dirty := unitMask (x.dirty.map (·.1)) }
  let (s, marks) := if skipsMissing s (destageTargets x) then markRow s row else (s, [])
  let s := planJournal s (marks ++ intentWrites r) (.row id)
  let s := lockWindow { s with shifts := s.shifts ++ [x] } x true
  match s.shifts.find? fun y => y.id == id with
  | some x => dispatchReads s x
  | none => s

/-! ## Compute -/

/-- Old content of every data unit at block i: as read, solved from the accumulators where some are missing. -/
def Shift.old (x : Shift) (i : Nat) : Option (List Bytes) :=
  solveBlock x.desc (x.dataIdx.map fun j => x.have_ (.data j) i) (x.redIdx.map fun a => x.have_ (.red a) i)

/-- The data units of block i after the shift: new content where dirty, else what was read or solved; `none` where the
window is unrecoverable there. -/
def Shift.full (x : Shift) (i : Nat) : Option (List Bytes) :=
  let cur := x.dataIdx.map fun j => match x.new j i with
    | some b => some b
    | none => x.have_ (.data j) i
  if cur.all Option.isSome then some (cur.map (·.getD []))
  else (x.old i).map fun o => x.dataIdx.map fun j => match x.new j i with
    | some b => b
    | none => o.getD j []

/-- Accumulator a of block i after a destage: updated from its old content, or computed from the full set (R218). -/
def Shift.newRed (x : Shift) (a i : Nat) : Option Bytes :=
  if x.rmw then
    match x.have_ (.red a) i with
    | none => none
    | some old => x.dirty.foldl (fun acc u => match acc, x.new u.1 i, x.have_ (.data u.1) i with
      | some acc, some n, some o => some (xorBytes acc (gfScale (x.desc.coef a u.1) (xorBytes n o)))
      | some acc, none, _ => some acc
      | _, _, _ => none) (some old)
  else (x.full i).map fun ds => redBlock x.desc a ds

/-- Is any unit dirty at block i? -/
def Shift.dirtyAt (x : Shift) (i : Nat) : Bool := x.dirty.any fun u => (x.new u.1 i).isSome

/-- Joins writes of consecutive blocks. -/
def joinRuns : List (Nat × Bytes) → List (Nat × Bytes)
  | [] => []
  | (b, bs) :: rest => match joinRuns rest with
    | (c, cs) :: more => if c = b + bs.length / blockBytes then (b, bs ++ cs) :: more else (b, bs) :: (c, cs) :: more
    | [] => [(b, bs)]

/-- What a shift writes: position, data-area block and content. -/
abbrev Plan := List (PosN × Nat × Bytes)

/-- The block of a role, from the full set of data units. -/
def roleBlock (x : Shift) (r : Role) (ds : List Bytes) : Bytes :=
  match r with
  | .data j => ds.getD j []
  | .red a => redBlock x.desc a ds
  | .none => []

/-- The roles of a row: its data units, then its accumulators. -/
def Shift.roles (x : Shift) : List Role := x.dataIdx.map Role.data ++ x.redIdx.map Role.red

/-- Does a destage write the role's block by itself? -/
def Shift.rewrites (x : Shift) (r : Role) (i : Nat) : Bool :=
  x.purpose == .destage && match r with
    | .data j => (x.new j i).isSome
    | .red _ => x.dirtyAt i
    | .none => false

/-- Solved blocks that go back to the member they could not be read from (Table 9-6): the position is there. A rebuild,
resync or scrub writes back what the lost-unit map names too (R280). -/
def writeBacks (s : State) (x : Shift) (full : Nat → Option (List Bytes)) : Plan :=
  x.roles.flatMap fun r => match x.pos r with
    | none => []
    | some p => x.idx.filterMap fun i =>
      match x.got.find? (fun u => u.pos == p), full i with
      | some u, some ds =>
        if (u.blocks.getD i none).isNone ∧ ¬ x.rewrites r i ∧ ¬ posOut s p x.row (x.b0 + i) ∧
            ¬ (x.purpose = .destage ∧ blockLost s x.row p (x.b0 + i)) then
          some (p, areaBlock s x.row (x.b0 + i), roleBlock x r ds)
        else none
      | _, _ => none

/-- The blocks so written back heal at the end of a rebuild, resync or scrub window (R280). -/
def healBacks (s : State) (x : Shift) : State :=
  x.got.foldl (fun s u => if x.written.contains u.pos then
    x.idx.foldl (fun s i => if (u.blocks.getD i none).isNone ∧ (x.old i).isSome then healBlock s x.row u.pos (x.b0 + i)
      else s) s else s) s

/-- The writes of a destage: dirty blocks and, unless the window is unrecoverable, the accumulators of the dirty block
positions, on the positions that are written (R217, R218, R463). -/
def destagePlan (s : State) (x : Shift) : Plan :=
  let put := fun (r : Role) (i : Nat) (bs : Option Bytes) => match x.pos r, bs with
    | some p, some b => if posWritten s p x.row (x.b0 + i) then [(p, areaBlock s x.row (x.b0 + i), b)] else []
    | _, _ => []
  let datas := x.dirty.flatMap fun u => x.idx.flatMap fun i => put (.data u.1) i (x.new u.1 i)
  let reds := if x.unrecoverable then [] else
    x.redIdx.flatMap fun a => x.idx.flatMap fun i => if x.dirtyAt i then put (.red a) i (x.newRed a i) else []
  datas ++ reds ++ writeBacks s x x.full

/-- Is the window unrecoverable (R219, R463)? -/
def Shift.lostAt (x : Shift) : List Nat :=
  x.idx.filter fun i => x.dirtyAt i && !(x.rmw || x.desc.m == 0) && (x.full i).isNone

/-- Clean data units the members cannot supply, with solved content for the whole window (R239). -/
def solvedUnits (x : Shift) : List (PosN × List Bytes) :=
  if x.rmw then []
  else x.dataIdx.filterMap fun j =>
    let gone := x.idx.any fun i => x.dirtyAt i && (x.new j i).isNone && (x.have_ (.data j) i).isNone
    match x.pos (.data j) with
    | some p => if gone ∧ x.desc.m ≠ 0 then
        some (p, x.idx.map fun i => ((x.full i).map fun ds => ds.getD j []).getD (zeros blockBytes))
      else none
    | none => none

/-- Ascending positions. -/
def byPos (us : List (PosN × List Bytes)) : List (PosN × List Bytes) :=
  allPos.filterMap fun p => us.find? fun u => u.1 == p

/-- Puts a plan's member commands into the frame, the consecutive blocks of a position in one (R217). -/
def releasePlan (s : State) (x : Shift) (plan : Plan) (dealloc : Bool) : State :=
  let ps := (plan.map (·.1)).eraseDups
  let cmds := ps.flatMap fun p =>
    let runs := joinRuns ((plan.filter fun w => w.1 == p).map fun w => (w.2.1, w.2.2))
    runs.map fun r => (p, if dealloc then MemberCmd.deallocate (64 + r.1) (r.2.length / blockBytes)
      else .write (64 + r.1) r.2)
  let s := putShift s { x with step := .writes, writesLeft := cmds.length, written := ps, endAt := obsFrame s }
  cmds.foldl (fun s c => match slotOf s c.1 with
    | some m => planMember s m c.2 (.shift x.id c.1)
    | none => s) s

/-- R292: a window of zeros that covers every data unit of a row whole, on drives that read deallocated blocks as zero. -/
def mayDeallocate (s : State) (x : Shift) : Bool :=
  x.b0 == 0 && x.w == arrayU s && x.dirty.length == x.desc.k && x.desc.k != 0 &&
  (x.dirty.all fun u => u.2.all fun b => match b with
    | some bs => bs.all (· == 0)
    | none => false) &&
  (match s.array with
    | some a => (livePos a).all fun p => match (s.slot (posEntry a p).slot).drive with
      | some d => d.dlfeat
      | none => false
    | none => false)

/-- The member writes of a destage are planned once its records are durable, for a commit point later than the one at which
the durable completion of its ROW record is observed (R239). -/
def releaseDestage (s : State) (x : Shift) : State :=
  if x.step = .record ∧ x.rowDurable ∧ x.rowAt < s.clock.frame ∧ ¬ x.solvedWait then
    releasePlan s x (destagePlan s x) (mayDeallocate s x)
  else s

/-- The destages whose member writes may go, in a Dispatch phase. -/
def releaseDestages (s : State) : State :=
  (s.shifts.map (·.id)).foldl (fun s id => match s.shifts.find? fun x => x.id == id with
    | some x => releaseDestage s x
    | none => s) s

/-- A destage has computed: solved units go to the journal with a SOLVED record, for which it waits until there are slots, and
its writes wait for the records. -/
def computeDestage (s : State) (x : Shift) : State :=
  let x := { x with step := .record, unrecoverable := !x.lostAt.isEmpty }
  let us := byPos (solvedUnits x)
  if us.isEmpty ∨ x.unrecoverable then putShift s x
  else if freeSlots s < us.length * x.w then s
  else
    let (first, s) := takeSlots s (us.length * x.w)
    let (r, s) := addRec s { IntentRec.base .solved with
      count := x.w, at_ := x.row, b0 := x.b0, slot := first, positions := posMask (us.map (·.1)) }
    let s := planJournal s (slotWrites first (us.flatMap (·.2)) ++ intentWrites r) (.solved x.id)
    putShift s { x with solvedWait := true }

/-! ## RECON (07 R219, 09 R276) -/

/-- Gives a solved block to every entry that waits for it. -/
def deliver (s : State) (pos : PosN) (d : Nat) (bs : Bytes) : State :=
  let it := fun k : Item => if k.pos = pos ∧ k.d = d ∧ k.data.isNone then
    { k with data := some bs, lost := false, solved := true } else k
  let one := fun q : PortSt => { q with rings := q.rings.map fun x =>
    { x with taken := x.taken.map fun t => { t with items := t.items.map it } } }
  { s with portA := one s.portA, portB := one s.portB }

/-- Fails every entry that waits for a block that cannot be had: MEMBER_READ, with the first block that failed (R276), or
TAG_MISMATCH where its content failed its tag (10 Table 10-3). -/
def failWaiting (s : State) (pos : PosN) (d : Nat) (st : Status) : State :=
  bothPorts.foldl (fun s p => allRings.foldl (fun s r =>
    (s.ring p r).taken.foldl (fun s t =>
      match t.items.find? fun k => k.pos == pos && k.d == d && k.data.isNone with
      | some k =>
        let lbn := if Entry.lbn t.head ≤ k.lbn ∧ k.lbn < Entry.lbn t.head + Entry.nblk t.head then k.lbn
          else Entry.lbn t.head
        failIo s { p := p, r := r, i := t.i } (if k.retag.isSome then Status.tagMismatch else st) lbn
      | none => s) s) s) s

/-- The positions whose block entries wait for, to have it solved, and that a test of the wait holds for. -/
def wantedBy (f : Item → Bool) (s : State) (d : Nat) : List PosN :=
  (bothPorts.flatMap fun p => allRings.flatMap fun r => (s.ring p r).taken.flatMap fun t =>
    t.items.filterMap fun k => if k.d = d ∧ k.data.isNone ∧ k.lost ∧ f k then some k.pos else none).eraseDups

def wanted (s : State) (d : Nat) : List PosN := wantedBy (fun _ => true) s d

/-- Those that could not be read; a block that failed its tag was (10 Table 10-3). -/
def unreadable (s : State) (d : Nat) : List PosN := wantedBy (fun k => k.retag.isNone) s d

/-- A RECON shift for one block position of a row, with a position to do without. -/
def startRecon (s : State) (row b : Nat) (pos : PosN) (party : Port) : State :=
  match s.shifts.find? fun x => x.purpose == .recon && x.row == row && x.b0 == b with
  | some x =>
    if x.out.contains pos then s
    else
      let s := putShift s { x with out := x.out ++ [pos], got := x.got.filter fun u => u.pos != pos,
                                   wait := x.wait.erase pos }
      replan s x.id
  | none =>
    if ¬ contextFree s true ∨ ¬ windowFree s row b 1 then s
    else
      let (id, s) := freshId s
      let x := newShift s id .recon row b 1
      let x := { x with party := some party,
                        out := if x.out.contains pos then x.out else x.out ++ [pos] }
      let s := { s with shifts := s.shifts ++ [x] }
      match s.shifts.find? fun y => y.id == id with
      | some x => dispatchReads s x
      | none => s

/-- Does a solved block pass the tag of every read that gave it up for its tag (10 Table 10-3)? -/
def tagHolds (s : State) (pos : PosN) (d : Nat) (bs : Bytes) : Bool :=
  bothPorts.all fun p => allRings.all fun r => (s.ring p r).taken.all fun t => t.items.all fun k =>
    match k.retag with
    | none => true
    | some (ctr, tag) => k.pos != pos || k.d != d || k.data.isSome || match blockKeys s k.vol k.lbn with
      | some ks => blockTag ks k.lbn ctr bs == tag
      | none => false

/-- Positions of a RECON shift whose member is there but could not be read, or whose block failed its tag while the solved
one passes it: the solved block goes back to them. -/
def reconBacks (s : State) (x : Shift) (ds : List Bytes) : Plan :=
  x.roles.filterMap fun r => match x.pos r with
    | some p =>
      let failed := x.out.contains p || x.got.any fun u => u.pos == p && (u.blocks.getD 0 none).isNone
      if failed ∧ tagHolds s p (areaBlock s x.row x.b0) (roleBlock x r ds) ∧ ¬ posOut s p x.row x.b0 ∧ ¬ blockLost s x.row p x.b0 then
        some (p, areaBlock s x.row x.b0, roleBlock x r ds)
      else none
    | none => none

/-- A RECON shift has computed: the solved block goes to the reads and back to members that failed to read it; or the
units that failed enter the lost-unit map and the reads fail (R276). DEDUCED (log entry 40): in Salvage a unit on an
unavailable position does not enter it, since its member may return (R287, R288). -/
def computeRecon (s : State) (x : Shift) : State :=
  let d := areaBlock s x.row x.b0
  match x.old 0 with
  | some ds =>
    let plan := reconBacks s x ds
    let s := x.dataIdx.foldl (fun s j => match x.pos (.data j) with
      | some p => deliver s p d (ds.getD j [])
      | none => s) s
    if plan.isEmpty then dropShift s x.id else releasePlan s x plan false
  | none =>
    let read := wanted s d
    let failed := (x.roles.filterMap fun r => x.pos r).filter fun p =>
      ((unreadable s d).contains p && !(healthCond s == .salvage && posOut s p x.row x.b0)) ||
        x.got.any fun u => u.pos == p && u.blocks.any Option.isNone
    let s := failed.foldl (fun s p => enterOrLose s x.row p [x.b0]) s
    let s := planJournal s (lostWrites s) .none
    let s := read.foldl (fun s p => failWaiting s p d Status.memberRead) s
    dropShift s x.id

/-! ## REBUILD and RESYNC (09 R283, R287, R289) -/

/-- The target's role in a row. -/
def targetRole (x : Shift) (p : PosN) : Option Role := x.desc.lanes[p.val]?

/-- The target's block at block i of the window: a data unit, or an accumulator computed from the full set. -/
def targetBlock (x : Shift) (r : Role) (i : Nat) : Option Bytes :=
  match r with
  | .data j => (x.old i).map fun ds => ds.getD j []
  | .red a => (x.old i).map fun ds => redBlock x.desc a ds
  | .none => none

/-- A rebuild shift has computed: the target is written, sources that failed to read are written back, and blocks that
could not be recovered enter the lost-unit map (Table 9-7). -/
def computeRebuild (s : State) (x : Shift) : State :=
  match s.array with
  | none => dropShift s x.id
  | some a =>
    let p := a.rbTarget
    let role := (targetRole x p).getD .none
    let target := x.idx.filterMap fun i => (targetBlock x role i).map fun b => (p, areaBlock s x.row (x.b0 + i), b)
    let bad := x.idx.filter fun i => role != .none && (targetBlock x role i).isNone
    let s := if bad.isEmpty then s else
      let s := enterOrLose s x.row p (bad.map (x.b0 + ·))
      let s := x.got.foldl (fun s u =>
        let b := x.idx.filter fun i => bad.contains i && (u.blocks.getD i none).isNone
        enterOrLose s x.row u.pos (b.map (x.b0 + ·))) s
      planJournal s (lostWrites s) .none
    match s.shifts.find? fun y => y.id == x.id with
    | some x => releasePlan s x (target ++ writeBacks s x x.old) false
    | none => s

/-! ## CHECK (09 R290, R291) -/

/-- Is the CHECK shift's comparison possible: everything was read? -/
def checkWhole (x : Shift) : Bool :=
  x.out.isEmpty && (x.dataIdx.all fun j => x.idx.all fun i => (x.have_ (.data j) i).isSome) &&
  x.redIdx.all fun a => x.idx.all fun i => (x.have_ (.red a) i).isSome

/-- The syndrome of accumulator a at block i. -/
def syndrome (x : Shift) (a i : Nat) : Bytes :=
  let ds := x.dataIdx.map fun j => (x.have_ (.data j) i).getD []
  xorBytes (redBlock x.desc a ds) ((x.have_ (.red a) i).getD [])

def differs (x : Shift) (a : Nat) : Bool := x.idx.any fun i => (syndrome x a i).any (· != 0)

/-- The data index z with Q-syndrome = g^z · P-syndrome at every differing byte of the window (R291). -/
def culprit (x : Shift) : Option Nat :=
  x.dataIdx.find? fun z => x.idx.all fun i =>
    syndrome x 1 i == gfScale (gfPow z) (syndrome x 0 i)

/-- Scrub's repair of a window (R291): each redundancy unit that differs is rewritten, in a mirror every one of them, or, in
PARITY2 with P and Q both differing, the one data unit the syndromes name. Answers the writes and the table's row. -/
def scrubRepair (s : State) (x : Shift) : Plan × Nat :=
  let bad := x.redIdx.filter (differs x)
  let layout := match s.array with | some a => a.layout | none => 0
  let red := fun a => match x.pos (.red a) with
    | some p => x.idx.map fun i => (p, areaBlock s x.row (x.b0 + i),
        redBlock x.desc a (x.dataIdx.map fun j => (x.have_ (.data j) i).getD []))
    | none => []
  if bad.isEmpty then ([], 0)
  else if bad.length = 2 ∧ (layout = 4 ∨ layout = 5) then
    match culprit x with
    | some z => match x.pos (.data z) with
      | some p => (x.idx.map fun i => (p, areaBlock s x.row (x.b0 + i),
          xorBytes ((x.have_ (.data z) i).getD []) (syndrome x 0 i)), 4)
      | none => ([], 0)
    | none => (bad.flatMap red, 4)
  else if layout = 1 ∨ layout = 2 then (x.redIdx.flatMap red, 2)
  else (bad.flatMap red, if x.desc.m ≤ 1 then 1 else 3)

/-- SCRUB_REPAIR (13 Table 13-5): row, position, row of R291's table. -/
def logScrub (s : State) (row pos kind : Nat) : State :=
  s.raise { LogRec.base 0x032 3 0 with payload := [row, pos, kind] }

/-- A CHECK shift has computed: differences are logged and, but in Locked, repaired; blocks that failed to read are
solved and written back (R290, R291). -/
def computeCheck (s : State) (x : Shift) : State :=
  let (plan, kind) := if checkWhole x then scrubRepair s x else (writeBacks s x x.old, 0)
  let ps := (plan.map (·.1)).eraseDups
  let s := if kind = 0 then s else ps.foldl (fun s p => logScrub s x.row p.val kind) s
  if plan.isEmpty ∨ s.mode.mode = .locked then
    putShift s { x with step := .writes, writesLeft := 0, endAt := s.clock.frame }
  else releasePlan s x plan false

/-! ## SHIFT_COMPUTE -/

/-- The compute of a shift, whose charges are all given: its writes and what it brings follow (R217). -/
def shiftCompute (s : State) (x : Shift) : State :=
  match x.purpose with
  | .destage => computeDestage s x
  | .recon => computeRecon s x
  | .rebuild | .resync => computeRebuild s x
  | .check => computeCheck s x

/-- The last read of a shift has been observed: its compute is planned, and its charges are given in the Dispatch phase of
this frame and, where they do not fit, of those that follow (R217, 01 R28). Where a failure left reads to make, they are made
first (R218). A sector beyond correction among its locked lines is fetched again before it computes (08 R258). -/
def execShiftCompute (id : Nat) (faults : List CacheFault) (s : State) : Host.Outcome State Fault Refusal :=
  let waits := fun x : Shift => faults.any fun f => match f with
    | .double set way _ => s.cache.lines.any fun y => y.set == set && y.way == way && y.lock && shiftLocks s x y
    | _ => false
  let due := fun x : Shift => x.id == id && x.step == .reads && x.wait.isEmpty
  if ¬ planPhase s then .next s
  else match s.shifts.find? due with
    | none => .next s
    | some x =>
      let s := replan (cacheFaults s faults) id
      if waits x then .next s
      else match s.shifts.find? due with
        | none => .next s
        | some x => .next (putShift s { x with step := .compute })

/-! ## SHIFT_END -/

/-- Does a destage shift still run over a block of the entry? -/
def shiftHolds (s : State) (t : Taken) : Bool :=
  (List.range (Entry.nblk t.head)).any fun i =>
    let p := blockPlace s (Entry.vol t.head) (Entry.lbn t.head + i)
    s.shifts.any fun x => x.purpose == .destage && x.row == p.row && x.isDirty p.j && decide (x.b0 ≤ p.b) &&
      decide (p.b < x.b0 + x.w)

/-- Does the entry's condition hold: no record it waits for is unretired, no tag of them is unfolded (R254, 10 R319), and
no member write of a WRITE_THROUGH's destage is out (01 R20)? -/
def destaged (s : State) (t : Taken) : Bool :=
  (t.seqs.all fun q => !(s.jnl.recs.any fun r => r.seq == q) &&
    !(Entry.opcode t.head == 4 && s.tags.tagLog.any fun e => e.seq == q)) &&
  !(Entry.opcode t.head == 3 && shiftHolds s t)

/-- A block a FLUSH covers that lies in the lost-unit map (R254). -/
def flushLost (s : State) (t : Taken) : Option Nat :=
  if Entry.opcode t.head ≠ 4 then none
  else (s.jnl.lost.findSome? fun l =>
    match (rowDesc s l.row).lanes.getD l.pos.val Role.none with
    | Role.data j =>
      ((List.range (arrayU s)).filter fun b => !l.good.contains b).findSome? fun b =>
        let addr := addrOf s l.row j b
        allVols.findSome? fun v => match volOf s v with
          | some x =>
            if t.vols.contains v ∧ volBase s v ≤ addr ∧ addr < volBase s v + x.size then
              some (addr - volBase s v) else none
          | none => none
    | _ => none)

/-- Can every block of a row be read: its position is available, or it can be solved (07 R219)? -/
def rowReadable (s : State) (row : Nat) : Bool :=
  let d := rowDesc s row
  (List.range (arrayU s)).all fun b =>
    let out := fun l : Nat => if h : l < 6 then unavailable s row b ⟨l, h⟩ else false
    (List.range d.k).all fun j => match rolePos s row (.data j) with
      | some pos => !unavailable s row b pos || solvable d out
      | none => true

/-- The first block of a WRITE_THROUGH whose row is no longer readable, where a member write of its destage failed (06
R176). -/
def throughLost (s : State) (t : Taken) : Option Nat :=
  if Entry.opcode t.head ≠ 3 ∨ ¬ t.wfail then none
  else ((List.range (Entry.nblk t.head)).find? fun i =>
    !rowReadable s (blockPlace s (Entry.vol t.head) (Entry.lbn t.head + i)).row).map (Entry.lbn t.head + ·)

/-- A FLUSH of a volume under rekey persists B (10 R330). -/
def flushRekey (s : State) (t : Taken) : State :=
  let k := s.eng.rekey
  if Entry.opcode t.head = 4 ∧ k.running ∧ t.vols.contains k.vol then
    writeSb (s.modArray fun a => { a with rekey := { a.rekey with b := k.b } }) .none
  else s

/-- The command's effect is planned: it comes at the commit point (01 R18). -/
def planAct (s : State) (f : Ref) (a : CommitAct) : State := addOrder (setStage s f .commit) (.act f a)

/-- An entry that waits for retirement completes (R254, Table 8-4, 06 R176); what it invalidates goes at a commit point (01
R18). -/
def finishOne (s : State) (f : Ref) (t : Taken) : State :=
  if t.stage ≠ .destage ∨ ¬ destaged s t then s
  else match flushLost s t, throughLost s t with
    | some l, _ => failIo s f Status.lostUnit l
    | none, some l => failIo s f Status.memberWrite l
    | none, none =>
      if Entry.opcode t.head = 0x1B ∧ Entry.subop t.head = 3 then
        (if s.clock.phase = .commit then invalAct s f t.head else planAct s f .invalidate)
      else finishEntry (flushRekey s t) f Status.success []

/-- Every entry that waits for retirement. -/
def finishDestaged (s : State) : State :=
  bothPorts.foldl (fun s p => allRings.foldl (fun s r =>
    (s.ring p r).taken.foldl (fun s t => finishOne s { p := p, r := r, i := t.i } t) s) s) s

/-- A member write of the shift failed: the WRITE_THROUGH entries with a record of its blocks learn of it (06 R176). -/
def noteFailed (s : State) (x : Shift) : State :=
  if ¬ x.failed then s
  else
    let hit := fun r : IntentRec => x.dirty.any fun u => x.idx.any fun i =>
      (x.new u.1 i).isSome && recHas s r (addrOf s x.row u.1 (x.b0 + i))
    let one := fun t : Taken =>
      if t.seqs.any fun q => s.jnl.recs.any fun r => r.seq == q && hit r then { t with wfail := true } else t
    let each := fun q : PortSt => { q with rings := q.rings.map fun y => { y with taken := y.taken.map one } }
    { s with portA := each s.portA, portB := each s.portB }

/-- Writes the lost-unit map where it has changed. -/
def healLogged (s : State) (was : List LostUnit) : State :=
  if s.jnl.lost = was then s else planJournal s (lostWrites s) .none

/-- The end of a destage: what it covered is written, the map heals or takes what was lost, its ROWDONE goes out, and its
records may retire (R240, R463, R280, R294). -/
def endDestage (s : State) (x : Shift) : State :=
  let s := noteFailed s x
  let s := x.dirty.foldl (fun s u => x.idx.foldl (fun s i =>
    if (x.new u.1 i).isNone then s
    else
      let s := markDone s x.seq (addrOf s x.row u.1 (x.b0 + i))
      match x.pos (.data u.1) with
      | none => s
      | some p =>
        let s := if x.written.contains p then healBlock s x.row p (x.b0 + i) else s
        if (dirtyRec s (addrOf s x.row u.1 (x.b0 + i))).isNone then
          cleanBlock s p (areaBlock s x.row (x.b0 + i)) else s) s) s
  let lost := s.jnl.lost
  let s := if x.unrecoverable then
      let bad := (x.idx.filter fun i => (x.full i).isNone).map (x.b0 + ·)
      let s := x.redIdx.foldl (fun s a => match x.pos (.red a) with
        | some p => enterOrLose s x.row p bad
        | none => s) s
      x.got.foldl (fun s u =>
        let b := x.idx.filter fun i => (u.blocks.getD i none).isNone && !blockLost s x.row u.pos (x.b0 + i)
        enterOrLose s x.row u.pos (b.map (x.b0 + ·))) s
    else if x.rmw then s
    else x.redIdx.foldl (fun s a => match x.pos (.red a) with
      | some p => if x.written.contains p then
          x.idx.foldl (fun s i => if x.dirtyAt i then healBlock s x.row p (x.b0 + i) else s) s else s
      | none => s) s
  let s := healLogged s lost
  let (s, marks) := if skipsMissing s (destageTargets x) then markRow s x.row else (s, [])
  let (r, s) := addRecIn s s.clock.frame { IntentRec.base .rowDone with count := x.w, at_ := x.row, b0 := x.b0 }
  let s := planJournal s (marks ++ intentWrites r) .none
  let s := lockWindow (dropShift s x.id) x false
  invalWaiting (finishDestaged (retire s))

/-- The next row the engine works on: every row, or for a resync the next marked one. -/
def nextRow (s : State) (a : ArraySt) (from_ : Nat) : Nat :=
  if a.rbKind = .resync then
    let g := 2 ^ s.jnl.bitmap.g
    let here := if s.jnl.bitmap.bits.contains (from_ / g) then [from_] else []
    let later := (s.jnl.bitmap.bits.filter fun i => decide (from_ / g < i)).map (· * g)
    min ((here ++ later).foldl min (arrayRows s)) (arrayRows s)
  else from_

/-- The target becomes current: ag rises, the bitmap may clear, the queued position starts next, and the condition
changes (R283, R289). -/
def completeTarget (s : State) : State :=
  match s.array with
  | none => s
  | some a =>
    let e := posEntry a a.rbTarget
    let s := s.modArray fun a => setPos a a.rbTarget { e with state := .current, lostAg := 0 }
    let s := clearMarks s
    let s := startQueued s
    let s := writeSb (raiseAg s) .none
    planCond (noteCond s) 0x08 3 e.slot.val

/-- The end of a rebuild or resync window: the row's progress, the watermark, and its persistence every 4096 rows (R283,
R284). -/
def endRebuild (s : State) (x : Shift) : State :=
  match s.array with
  | none => dropShift s x.id
  | some a =>
    let was := s.jnl.lost
    let s := x.idx.foldl (fun s i => if x.written.contains a.rbTarget ∧ (x.old i).isSome then
      healBlock s x.row a.rbTarget (x.b0 + i) else s) s
    let s := healLogged (healBacks s x) was
    let s := dropShift s x.id
    if ¬ s.eng.rebuild.running ∨ x.row ≠ a.w then s
    else
      let next := x.b0 + x.w
      if next < arrayU s then { s with eng := { s.eng with rebuild := { s.eng.rebuild with next := next } } }
      else
        let w := nextRow s a (x.row + 1)
        let s := s.modArray fun a => { a with w := w }
        let s := { s with eng := { s.eng with rebuild := { s.eng.rebuild with next := 0 } } }
        if arrayRows s ≤ w then completeTarget s
        else if x.row / 4096 < w / 4096 ∨ testing s 0x0F then writeSb s .none
        else s

/-- The end of a scrub window: the scrub row moves on, and a whole pass is counted (R290). -/
def endCheck (s : State) (x : Shift) : State :=
  let s := dropShift (healLogged (healBacks s x) s.jnl.lost) x.id
  match s.array with
  | none => s
  | some a =>
    let next := x.b0 + x.w
    if x.row ≠ a.scRow then s
    else if next < arrayU s then { s with eng := { s.eng with scrub := { s.eng.scrub with next := next } } }
    else
      let s := { s with eng := { s.eng with scrub := { s.eng.scrub with next := 0 } } }
      if arrayRows s ≤ x.row + 1 then
        let s := s.modArray fun a => { a with scRow := 0, scPasses := a.scPasses + 1 }
        writeSb { s with eng := { s.eng with scrub := EngSt.init } } .none
      else
        let s := s.modArray fun a => { a with scRow := x.row + 1 }
        if (x.row + 1) % 65536 = 0 then writeSb s .none else s

/-- An engine asked to stop stops at this boundary; the state it persists goes to the superblocks (R286, R290, 02 R58). -/
def engineBoundary (s : State) : State :=
  let s := if s.eng.rebuild.stop ∧ ¬ s.shifts.any (fun x => x.purpose == .rebuild || x.purpose == .resync) then
      let ref := s.eng.rebuild.ref
      let s := { s with eng := { s.eng with rebuild := EngSt.init } }
      let s := writeSb s (match ref with | some f => .reply f | none => .none)
      planCond (noteCond s) 0x09 (match ref with | some f => portSrc f.p | none => 0) 7
    else s
  if s.eng.scrub.stop ∧ ¬ s.shifts.any (fun x => x.purpose == .check) then
    let ref := s.eng.scrub.ref
    let s := { s with eng := { s.eng with scrub := EngSt.init } }
    writeSb s (match ref with | some f => .reply f | none => .none)
  else s

/-- Orders that this commit point's own work planned are released with it; those planned before it wait for theirs. -/
def releaseNew (was : List Order) (s : State) : State :=
  (s.gate.orders.filter fun o => !was.contains o).foldl (fun s o => match o with
    | .member o => releaseMember s o
    | .journal c => journalCommit s c.writes c.owner
    | o => addOrder s o) { s with gate := { s.gate with orders := s.gate.orders.filter fun o => was.contains o } }

/-- What the end of a shift brings, by its purpose. -/
def shiftEnds (s : State) (x : Shift) : State :=
  match x.purpose with
  | .destage => endDestage s x
  | .recon => dropShift s x.id
  | .rebuild | .resync => engineBoundary (endRebuild s x)
  | .check => engineBoundary (endCheck s x)

/-- A shift whose ROW or SOLVED commit failed frees its context; its blocks stay dirty (08 R239). -/
def abortEnds (s : State) (x : Shift) : State := invalWaiting (lockWindow (dropShift s x.id) x false)

/-- A shift ends at the commit point of the frame whose Intake phase observed its last write, or the failure of its record's
commit, or of its compute frame where it has no writes (R217, 08 R239); what its end completes and releases goes with that
commit point. -/
def execShiftEnd (id : Nat) (s : State) : Host.Outcome State Fault Refusal :=
  match s.shifts.find? fun x => x.id == id with
  | none => .next s
  | some x =>
    if s.clock.phase ≠ .commit ∨ s.clock.cancelled ∨ s.clock.frame < x.endAt then .next s
    else match x.step with
      | .aborted => .next (publish (releaseNew s.gate.orders (abortEnds s x)))
      | .writes =>
        if x.writesLeft ≠ 0 then .next s else .next (publish (releaseNew s.gate.orders (shiftEnds s x)))
      | _ => .next s

/-! ## Starting shifts -/

/-- DESTAGE_SHIFT_START (R238): the window's ROW, SOLVED and ROWDONE records must fit. -/
def execDestageShiftStart (tableBad : Bool) (s : State) : Host.Outcome State Fault Refusal :=
  if ¬ planPhase s ∨ ¬ destageMode s ∨ s.array.isNone ∨ ¬ contextFree s false ∨ freeRecs s < 3 then .next s
  else match nextWindow s with
    | none => .next s
    | some (row, b0, w) => .next (if tableBad then descriptorReload s else startDestage s row b0 w)

/-- A shift of the rebuild engine over the next window of row W, reading under R219. -/
def startRebuildShift (s : State) (kind : RbKind) (purpose : Purpose) (tableBad : Bool) : State :=
  match s.array with
  | none => s
  | some a =>
    let e := s.eng.rebuild
    if a.rbKind ≠ kind ∨ ¬ e.running ∨ ¬ engFed s .rebuild ∨ e.stop ∨ testing s 0x0F ∨ ¬ contextFree s false then s
    else
      let row := nextRow s a a.w
      if arrayRows s ≤ row then completeTarget s
      else
        let b0 := if row = a.w then e.next else 0
        let w := min 16 (arrayU s - b0)
        if w = 0 ∨ ¬ windowFree s row b0 w then s
        else if tableBad then descriptorReload s
        else
          let s := s.modArray fun a => { a with w := row }
          let (id, s) := freshId s
          let x := newShift s id purpose row b0 w
          let x := { x with out := if x.out.contains a.rbTarget then x.out else x.out ++ [a.rbTarget] }
          let none_ := targetRole x a.rbTarget == some .none
          let s := { s with shifts := s.shifts ++ [if none_ then { x with need := 0, step := .writes, endAt := s.clock.frame } else x] }
          if none_ then s else dispatchReads s x

/-- REBUILD_SHIFT (R283): in the modes that run the engine. -/
def execRebuildShift (tableBad : Bool) (s : State) : Host.Outcome State Fault Refusal :=
  if planPhase s ∧ engineMode s then .next (startRebuildShift s .rebuild .rebuild tableBad) else .next s
/-- RESYNC_SHIFT (R289). -/
def execResyncShift (tableBad : Bool) (s : State) : Host.Outcome State Fault Refusal :=
  if planPhase s ∧ engineMode s then .next (startRebuildShift s .resync .resync tableBad) else .next s

/-- CHECK_SHIFT (R290): over the next window of the scrub row, where Table 2-4 lets scrub run. -/
def execCheckShift (tableBad : Bool) (s : State) : Host.Outcome State Fault Refusal :=
  match s.array with
  | none => .next s
  | some a =>
    let e := s.eng.scrub
    if ¬ planPhase s ∨ ¬ e.running ∨ e.paused ∨ e.stop ∨ ¬ engRuns s .scrub ∨ ¬ engFed s .scrub ∨ ¬ contextFree s false then .next s
    else
      let w := min 16 (arrayU s - e.next)
      if w = 0 ∨ arrayRows s ≤ a.scRow ∨ ¬ windowFree s a.scRow e.next w then .next s
      else if tableBad then .next (descriptorReload s)
      else
        let (id, s) := freshId s
        let x := newShift s id .check a.scRow e.next w
        let s := { s with shifts := s.shifts ++ [x] }
        .next (if x.out.isEmpty then dispatchReads s x else putShift s { x with step := .writes, need := 0, endAt := s.clock.frame })

end Sys2Proof.Machine
end

