-- ==== Sys2Proof/Machine/Members.lean ====
section
/-! DEFINITION. The member slots' events (09 R263 to R269, R275, R464, 14 R439 to R442): presence, bring-up, power-down,
completions, the recovery ladder, health polls and rail faults. -/
namespace Sys2Proof.Machine

/-! ## Rails (14 R439, R440) -/

/-- Sum of the limits of the rails that are on, in steps of 0.25 A. -/
def limitSum (s : State) : Nat := (allSlots.map fun m => if (s.slot m).rail then (s.slot m).limit else 0).sum

/-- May a rail go on at 2.5 A within 10.0 A? -/
def railFits (s : State) : Bool := decide (limitSum s + 10 ≤ 40)

/-- L_n after Identify: 1.25 × MP / 3.3 V in steps of 0.25 A rounded up, within 1.0 to 3.0 A, 3.0 A for an MP of 0; a rise
above 2.5 A stays within R440. -/
def limitFor (s : State) (m : SlotN) (d : DriveId) : Nat :=
  let want := if d.mpCentiW = 0 then 12 else max 4 (min 12 ((d.mpCentiW + 65) / 66))
  let others := limitSum s - (if (s.slot m).rail then (s.slot m).limit else 0)
  if want ≤ 10 then want else max 10 (min want (40 - others))

/-- Step 2 of bring-up begins: the rail goes on at 2.5 A, or the slot waits with a NOTE (R440). -/
def railOn (s : State) (m : SlotN) : State :=
  let s := s.modSlot m fun x => { x with starting := none, since := s.clock.frame }
  if railFits s then s.modSlot m fun x => { x with rail := true, limit := 10, waiting := false }
  else if (s.slot m).waiting then s
  else logNote (s.modSlot m fun x => { x with waiting := true }) 3 0xF05 m.val

/-- The slot's member port failed its logic self-test: the slot is treated as empty until the next Start (03 R72, Table
3-3). -/
def slotBad (s : State) (m : SlotN) : Bool := s.start.memberBad.getLsbD m.val

/-- Bring-up of a slot from step 2 (R267); a slot whose port failed stays empty. -/
def beginBringup (s : State) (m : SlotN) : State :=
  if slotBad s m then s
  else
    let s := s.modSlot m fun x =>
      { SlotSt.init with state := .bringup, present := x.present, step := 2, sgen := x.sgen,
                         starting := some none }
    s

/-! ## Spacing (R267, R269) -/

/-- Counts the slots of a list that begin something in this frame, and gives each the frame 500 F after the last. -/
def spaceOut (begins : SlotSt → Bool) (put : Nat → SlotSt → SlotSt) (f : Nat) : List SlotN → Nat → State → State
  | [], _, s => s
  | m :: ms, k, s =>
    if begins (s.slot m) then spaceOut begins put f ms (k + 1) (s.modSlot m (put (f + 500 * k)))
    else spaceOut begins put f ms k s

/-- At the commit point: bring-ups that began are spaced in ascending slot order, power-downs in descending order, and the
rails whose frame has come go on (R267, R269). -/
def settleSlots (s : State) : State :=
  let f := s.clock.frame
  let s := spaceOut (fun x => x.starting == some none) (fun at_ x => { x with starting := some (some at_) }) f allSlots 0 s
  let s := spaceOut (fun x => x.pd.any (·.due.isNone)) (fun at_ x => { x with pd := x.pd.map fun d => { d with due := some at_ } })
    f allSlots.reverse 0 s
  allSlots.foldl (fun s m => match (s.slot m).starting with
    | some (some at_) => if at_ ≤ f then railOn s m else s
    | _ => s) s

/-- Held orders go out again in their original order, in the next Dispatch phase (R464, 02 Table 2-3). -/
def reissueHeld (s : State) (m : SlotN) : State :=
  { s with morders := s.morders.map fun o => if o.slot = m ∧ o.held then { o with held := false, sent := none } else o }

/-! ## Presence (R268) -/

/-- S6 runs, beside S5 (03 Table 3-1). -/
def runsS6 (s : State) : Bool :=
  s.mode.mode == .start && (s.start.stage == .s5 || s.start.stage == .s6) && !s.start.s6 && !s.start.halt

/-- Are presence changes acted on? Not in a halt of Start, where no complex runs (03 R87). -/
def presenceActs (s : State) : Bool :=
  match s.mode.mode with
  | .vault | .freeze | .lockdown => false
  | .start => runsS6 s || (!s.start.halt && (s.start.stage == .s7 || s.start.stage == .s8))
  | _ => true

/-- The debounce of Mn_PRSNT_N ends (R268). -/
def execPresenceChange (slot : SlotN) (present : Bool) (s : State) : Result :=
  if ¬ presenceActs s ∨ (s.slot slot).present = present then .next s
  else
    let was := s.slot slot
    let s := s.modSlot slot fun x => { x with present := present }
    let s := wakeDrowse s 3
    .next (
      if present then
        if was.state = .member ∨ s.mode.mode = .drowse then s else beginBringup s slot
      else if (posOfSlot s slot).isSome then loseMember s slot 1 false
      else
        let s := if was.rail then powerDown s slot true else s
        s.modSlot slot fun x => { x with state := .empty, step := 0, waiting := false, starting := none, sb := none,
                                              drive := none })

/-! ## Bring-up (R265, R267, R278) -/

/-- Bring-up ends with the slot FAILED; one that held a position is lost as a removal (R267, R269). -/
def bringupFailed (s : State) (m : SlotN) : State :=
  if (posOfSlot s m).isSome then loseMember s m 1 false
  else powerDown (s.modSlot m fun x => { x with state := .failed, step := 0 }) m true

/-- After Drowse: the same array, position and serial as before (R269). -/
def sameMember (s : State) (m : SlotN) (p : PosN) : Bool :=
  match s.array, (s.slot m).sb, (s.slot m).drive with
  | some a, some sb, some d =>
    sb.view.uuid == a.uuid && sb.pos == p && padTo 20 d.serial == (posEntry a p).serial
  | _, _, _ => false

/-- Another member holds the position of a superblock. -/
def posTaken (s : State) (m : SlotN) (sb : Superblock) : Bool :=
  allSlots.any fun x => x != m && (s.slot x).state == .member && posOfSlot s x == some sb.pos

/-- A ready member is placed (R273): by the array's Table 9-5, else FOREIGN or SPARE. In S6 placement waits for
assembly, and after it for release (03 R96). -/
def placeReady (s : State) (m : SlotN) : State :=
  let x := s.slot m
  if s.mode.mode = .start then s.modSlot m fun x => { x with state := .spare }
  else match x.sb with
    | none => s.modSlot m fun x => { x with state := if bigEnough s m then .spare else .unsuitable }
    | some sb =>
      match s.array with
      | some a =>
        if sb.view.uuid = a.uuid then
          if bigEnough s m then
            let before := s.gate.agUp
            let s := placeMember s m sb (posTaken s m sb)
            let s := if s.gate.agUp ∧ ¬ before then writeSb s .none else s
            let cause := if (s.array.map (·.rbKind)) = some .resync then 0x0A else 0x07
            planCond (noteCond s) cause 3 m.val
          else s.modSlot m fun x => { x with state := .unsuitable }
        else s.modSlot m fun x => { x with state := .foreign, sgen := sb.sgen }
      | none => s.modSlot m fun x => { x with state := .foreign, sgen := sb.sgen }

/-- Bring-up is complete: a member that returns from Drowse resumes its place, any other is placed. -/
def bringupEnd (s : State) (m : SlotN) (sb : Option Superblock) : State :=
  let pos := posOfSlot s m
  let s := s.modSlot m fun x => { x with step := 8, sb := sb, sgen := match sb with | some b => b.sgen | none => 0 }
  match pos with
  | some p =>
    if sameMember s m p then reissueHeld (s.modSlot m fun x => { x with state := .member }) m
    else
      let x := s.slot m
      let s := loseMember s m 1 false
      placeReady (s.modSlot m fun y => { y with sb := x.sb, pd := none, step := 8 }) m
  | none => placeReady s m

/-- Step 6 has identified the drive (R265). -/
def identified (s : State) (m : SlotN) (d : DriveId) : State :=
  let lim := limitFor s m d
  let s := s.modSlot m fun x => { x with drive := some d, limit := lim }
  if d.queues = 0 ∨ d.blocks ≤ 64 ∨ (¬ d.formatOk ∧ ¬ d.offers) then
    if (posOfSlot s m).isSome then loseMember s m 1 false
    else s.modSlot m fun x => { x with state := .unsuitable, step := 8 }
  else if ¬ d.formatOk then bringupEnd s m none
  else s.modSlot m fun x => { x with step := 7, since := s.clock.frame }

/-- Bring-up of the slot is under way: not while it waits for its rail, and not in a halt of Start, where no complex runs (03
R87). -/
def bringingUp (s : State) (m : SlotN) : Bool :=
  (s.slot m).state == .bringup && (s.slot m).rail && !halted s

/-- A bring-up step completes and the next one starts (R267). -/
def execBringupStepDone (slot : SlotN) (info : StepInfo) (s : State) : Result :=
  let x := s.slot slot
  if ¬ bringingUp s slot then .next s
  else .next (match x.step, info with
    | 2, .plain => s.modSlot slot fun x => { x with step := 3, refclk := true, since := s.clock.frame }
    | 3, .plain =>
      if s.clock.frame < x.since + 10000 then s
      else s.modSlot slot fun x => { x with step := 4, perst := false, since := s.clock.frame }
    | 4, .plain => s.modSlot slot fun x => { x with step := 5, since := s.clock.frame }
    | 5, .plain => s.modSlot slot fun x => { x with step := 6, since := s.clock.frame }
    | 6, .identified d => identified s slot d
    | 7, .superblocks c =>
      if c.a.isNone ∧ c.b.isNone then bringupFailed s slot else bringupEnd s slot (currentSb c)
    | _, _ => s)

/-- The limit of a bring-up step in frames; that of step 5 is the drive's own, CAP.TO × 500 ms up to 10 s (R267). -/
def stepLimit : Nat → Option Nat
  | 2 => some 500
  | 4 => some 10000
  | 5 => some 0
  | 6 | 7 => some 50000
  | _ => none

/-- Has the running step reached its limit? -/
def stepOver (s : State) (m : SlotN) : Bool :=
  (stepLimit (s.slot m).step).any fun l => decide ((s.slot m).since + l ≤ s.clock.frame)

/-- A step overruns its limit: step 4 is tried once more after a PERST# pulse of 10 000 F, anything else ends bring-up
(R267). -/
def execBringupStepOverrun (slot : SlotN) (s : State) : Result :=
  let x := s.slot slot
  if ¬ bringingUp s slot ∨ ¬ stepOver s slot then .next s
  else if x.step = 4 ∧ ¬ x.retried then
    .next (s.modSlot slot fun x => { x with retried := true, step := 3, perst := true, since := s.clock.frame })
  else .next (bringupFailed s slot)

/-- A slot that read present when S6 began has finished bring-up (03 R83). -/
def s6Finished (s : State) (m : SlotN) : Bool :=
  !s.start.s6Slots.getLsbD m.val || (s.slot m).state != .bringup

/-- Every other such slot has finished. -/
def othersFinished (s : State) (m : SlotN) : Bool := allSlots.all fun x => x == m || s6Finished s x

/-- May a waiting slot still be powered: in S6 until every other slot has finished, and after Start (03 R83)? -/
def mayPower (s : State) (m : SlotN) : Bool :=
  s.mode.mode != .start || (runsS6 s && !othersFinished s m)

/-- The rail limits allow a waiting slot's rail: it is switched on, in slot order (R440). -/
def execSlotPowerWaitEnd (slot : SlotN) (s : State) : Result :=
  let first := allSlots.all fun m => !(decide (m.val < slot.val) && (s.slot m).waiting)
  if (s.slot slot).waiting ∧ railFits s ∧ first ∧ mayPower s slot then .next (railOn s slot) else .next s

/-- A Format NVM ends (R265): a failure leaves the slot FAILED and fails the command that issued it with SLOT_STATE (06
R190, 09 R282). -/
def execFormatNvmDone (slot : SlotN) (ok : Bool) (s : State) : Result :=
  if ¬ (s.slot slot).format then .next s
  else
    let s := s.modSlot slot fun x =>
      { x with format := false, drive := x.drive.map fun d => { d with formatOk := d.formatOk || ok } }
    if ok then .next s
    else
      let s := powerDown (s.modSlot slot fun x => { x with state := .failed, step := 0 }) slot true
      .next (bothPorts.foldl (fun s p => (s.ring p 0).taken.foldl (fun s t =>
        if t.stage = .format then failEntry s { p := p, r := 0, i := t.i } Status.slotState else s) s) s)

/-! ## Power-down (R269) -/

/-- Orders of a slot still in flight. -/
def slotBusy (s : State) (m : SlotN) : Bool := s.morders.any fun o => o.slot == m && !o.held

/-- A step of a slot's power-down (R269), from its frame on: flush and shutdown, PERST#, the clock 100 F later, the rail 100
F after that. -/
def execSlotPowerDownStep (slot : SlotN) (s : State) : Result :=
  match (s.slot slot).pd with
  | none => .next s
  | some d =>
    let f := s.clock.frame
    if ¬ d.due.any (fun at_ => decide (at_ ≤ f)) then .next s
    else match d.step with
      | 0 =>
        if slotBusy s slot then .next s
        else
          let s := (s.emit (.member slot .flush)).emit (.member slot .shutdown)
          .next (s.modSlot slot fun x => { x with pd := some { step := 1, due := some f } })
      | 1 => .next (s.modSlot slot fun x => { x with perst := true, pd := some { step := 2, due := some (f + 100) } })
      | 2 => .next (s.modSlot slot fun x => { x with refclk := false, pd := some { step := 3, due := some (f + 100) } })
      | _ => .next (s.modSlot slot fun x => { x with rail := false, limit := 0, pd := none, step := 0 })

/-! ## Completions (R275) -/

/-- Events of the last 6 000 000 F with one more now. -/
def recent (s : State) (l : List Nat) : List Nat := l.filter fun f => decide (s.clock.frame < f + 6000000)

/-- Counts failing blocks of Unrecovered Read Errors; 64 are a loss. -/
def countUre (s : State) (m : SlotN) (n : Nat) : State :=
  if n = 0 then s
  else
    let l := recent s (s.slot m).ures ++ List.replicate n s.clock.frame
    let s := s.modSlot m fun x => { x with ures := l }
    if 64 ≤ l.length ∧ (posOfSlot s m).isSome then loseMember s m 7 false else s

/-- Counts another error status; 16 are a loss. -/
def countErr (s : State) (m : SlotN) : State :=
  let l := recent s (s.slot m).errs ++ [s.clock.frame]
  let s := s.modSlot m fun x => { x with errs := l }
  if 16 ≤ l.length ∧ (posOfSlot s m).isSome then loseMember s m 8 false else s

/-- The key index a block of a volume is held under; metadata and redundancy have none (08 Table 8-3). -/
def lineKey (s : State) (v : VolN) (lbn : Nat) : Fin 64 := match volOf s v with
  | some x => if lbn < x.size then x.key else 0
  | none => 0

/-- The key index of the volume an array block address belongs to. -/
def addrKey (s : State) (addr : Nat) : Fin 64 :=
  ((allVols.findSome? fun v => match volOf s v with
    | some x => if volBase s v ≤ addr ∧ addr < volBase s v + x.size then some x.key else none
    | none => none)).getD 0

/-- A member read is placed in the stripe cache, unless an unretired record names the block (08 R246). -/
def fillRead (s : State) (cls : ClassN) (p : PosN) (d : Nat) (bs : Bytes) : State :=
  match areaAddr s p d with
  | some a =>
    if s.jnl.recs.any fun r => recHas s r a then s else cacheFill s cls p d (addrKey s a) bs
  | none => cacheFill s cls p d 0 bs

/-- A read of a command's block is observed: its ciphertext, or the need to solve it (R275, R276). -/
def itemRead (s : State) (f : Ref) (k : Nat) (data : Option Bytes) : State :=
  match s.taken? f with
  | none => s
  | some t =>
    match t.items[k]? with
    | none => s
    | some it =>
      match data with
      | some bs =>
        let s := bulkFill (fillRead s (portCls f.p) it.pos it.d bs) it.pos it.d bs
        s.modTaken f fun t => { t with items := t.items.modify k fun i => { i with data := some bs, lost := false } }
      | none =>
        let s := s.modTaken f fun t => { t with items := t.items.modify k fun i => { i with lost := true } }
        startRecon s (it.d / max 1 (arrayU s)) (it.d % max 1 (arrayU s)) it.pos f.p

/-- A read of a shift is observed: the window of one unit, blocks that failed or are lost left out. -/
def shiftRead (s : State) (id : Nat) (p : PosN) (data : List (Option Bytes)) : State :=
  match s.shifts.find? fun x => x.id == id with
  | none => s
  | some x =>
    if ¬ x.wait.contains p then s
    else
      let blocks := x.idx.map fun i => if blockLost s x.row p (x.b0 + i) then none else data.getD i none
      let s := putShift s { x with wait := x.wait.erase p, got := x.got ++ [{ pos := p, blocks := blocks }] }
      let s := x.idx.foldl (fun s i => match blocks.getD i none with
        | some bs => fillRead s x.cls p (areaBlock s x.row (x.b0 + i)) bs
        | none => s) s
      replan s id

/-- A block of a failed read has been read again by itself; the last of the window's blocks completes the read (Table 9-6). -/
def partRead (s : State) (id : Nat) (p : PosN) (i : Nat) (bs : Option Bytes) : State :=
  match s.shifts.find? fun x => x.id == id with
  | none => s
  | some x =>
    if ¬ x.wait.contains p then s
    else
      let parts := x.parts ++ [(p, i, bs)]
      let mine := parts.filter fun q => q.1 == p
      if mine.length < x.w then putShift s { x with parts := parts }
      else
        let s := putShift s { x with parts := parts.filter fun q => q.1 != p }
        shiftRead s id p (x.idx.map fun i => (mine.find? fun q => q.2.1 == i).bind (·.2.2))

/-- What a completed read brings to its owner. -/
def ownerRead (s : State) (o : MOrder) (data : List (Option Bytes)) : State :=
  match o.owner with
  | .item f k => itemRead s f k (data.getD 0 none)
  | .shift id p => shiftRead s id p data
  | .part id p i => partRead s id p i (data.getD 0 none)
  | _ => s

def dropOrder (s : State) (id : Nat) : State := { s with morders := s.morders.filter fun o => o.id != id }

/-- Blocks a command covers. -/
def cmdBlocks : MemberCmd → Nat
  | .read _ n => n
  | .write _ bs => bs.length / blockBytes
  | .deallocate _ n => n
  | _ => 0

/-- An error status that is retried once (R275): the command goes out again in the next Dispatch phase. -/
def retryOrder (s : State) (o : MOrder) : State :=
  { s with morders := s.morders.map fun x => if x.id = o.id then { x with retried := true, sent := none } else x }

/-- Each block of a read that met an unrecovered error is read again by itself, in the next Dispatch phase (Table 9-6). -/
def splitRead (s : State) (o : MOrder) : State :=
  match o.owner, o.cmd with
  | .shift id p, .read b n =>
    (List.range n).foldl (fun s i => sendMember s o.slot (.read (b + i) 1) (.part id p i)) (dropOrder s o.id)
  | _, _ => dropOrder s o.id

/-- A member read completes: observed in the Intake phase of a later frame (01 R19, R275). -/
def execMemberReadCompletion (id : Nat) (st : MemberStatus) (data : List (Option Bytes)) (s : State) : Result :=
  match s.morders.find? fun o => o.id == id && o.answered s with
  | none => .next s
  | some o =>
    match o.cmd with
    | .read _ n =>
      let whole := (List.range n).map fun i => data.getD i none
      match st with
      | .ok => .next (ownerRead (dropOrder s id) o whole)
      | .unrecovered =>
        .next (if 1 < n then splitRead s o else countUre (ownerRead (dropOrder s id) o [none]) o.slot 1)
      | .otherError | .windowMac =>
        if o.retried then .next (countErr (ownerRead (dropOrder s id) o (whole.map fun _ => none)) o.slot)
        else .next (countErr (retryOrder s o) o.slot)
    | _ => .next s

/-- A write has ended for its owner. -/
def ownerWrite (s : State) (o : MOrder) : State :=
  match o.owner with
  | .shift id _ =>
    { s with shifts := s.shifts.map fun x => if x.id = id then
        { x with writesLeft := x.writesLeft - 1, endAt := max x.endAt (obsFrame s) } else x }
  | _ => s

/-- The blocks of a shift's write enter the lost-unit map (10 Table 10-5). -/
def loseBlocks (s : State) (p : PosN) (c : MemberCmd) : State :=
  match c with
  | .write blk data =>
    let d := blk - 64
    let u := max 1 (arrayU s)
    let s := enterOrLose s (d / u) p ((List.range (data.length / blockBytes)).map (d % u + ·))
    planJournal s (lostWrites s) .none
  | _ => s

/-- A member write or deallocation completes; a write with an error is a loss (R275), but one whose data window failed its
MAC is sent once more, and the second time its blocks are lost (10 Table 10-5). -/
def execMemberWriteCompletion (id : Nat) (st : MemberStatus) (s : State) : Result :=
  match s.morders.find? fun o => o.id == id && o.answered s with
  | none => .next s
  | some o =>
    match o.cmd with
    | .read .. => .next s
    | .deallocate .. =>
      if st = .ok then .next (ownerWrite (dropOrder s id) o)
      else if o.retried then .next (countErr (failOrder (dropOrder s id) o) o.slot)
      else .next (countErr (retryOrder s o) o.slot)
    | _ =>
      if st = .ok then .next (ownerWrite (dropOrder s id) o)
      else if st = .windowMac ∧ ¬ o.retried then .next (retryOrder s o)
      else
        let s := failOrder (dropOrder s id) o
        match st, o.owner with
        | .windowMac, .shift _ p => .next (loseBlocks s p o.cmd)
        | _, _ =>
          .next (if (posOfSlot s o.slot).isSome then loseMember s o.slot 3 false else bringupFailed s o.slot)

/-! ## The recovery ladder (R464) -/

/-- Starts a rung: outstanding commands are held; a fourth rung within 6 000 000 F is a loss. -/
def startRung (s : State) (m : SlotN) (rung : Nat) (link : Bool) : State :=
  let used := recent s (s.slot m).rungs
  if (posOfSlot s m).isNone then bringupFailed s m
  else if 3 ≤ used.length ∨ 3 < rung then loseMember s m (if link then 6 else 5) false
  else
    let hold := fun o : MOrder => if o.slot = m then { o with held := true } else o
    let s := { s with morders := s.morders.map hold }
    let off := fun x : SlotSt =>
      if rung = 3 then { x with perst := true, refclk := false, rail := false, limit := 0 }
      else if rung = 2 then { x with perst := true } else x
    let s := s.modSlot m fun x =>
      { off x with ladder := some { rung := rung, link := link }, rungs := used ++ [s.clock.frame] }
    if rung = 1 then s.emit (.member m .controllerReset) else s

/-- The rung has brought the slot back: PERST# is deasserted, and after a rail cycle its clock and rail are on (R464). -/
def rungBack (s : State) (m : SlotN) (rung : Nat) : State :=
  let s := s.modSlot m fun x => { x with perst := if rung = 1 then x.perst else false, ladder := none }
  if rung ≠ 3 then s
  else
    let limit := match (s.slot m).drive with
      | some d => limitFor s m d
      | none => 10
    s.modSlot m fun x => { x with rail := true, refclk := true, limit := limit }

/-- A command has no completion in time: the ladder starts at its first rung (R275). It is one of the slot's orders or, at
a ready member, an admin command. -/
def execMemberCommandTimeout (slot : SlotN) (s : State) : Result :=
  let admin := (s.slot slot).state == .member && (s.slot slot).step == 8
  if (s.slot slot).ladder.isSome ∨ ¬ (slotBusy s slot || admin) then .next s else .next (startRung s slot 1 false)

/-- A surprise link-down starts the ladder at the PERST# rung (R275). -/
def execMemberLinkDown (slot : SlotN) (s : State) : Result :=
  if (s.slot slot).ladder.isSome ∨ (s.slot slot).state ≠ .member ∨ (s.slot slot).step ≠ 8 then .next s
  else .next (startRung s slot 2 true)

/-- A rung ends: held commands go out again, or the next rung, or the loss (R464). -/
def execLadderRungDone (slot : SlotN) (ok : Bool) (serial : Bytes) (s : State) : Result :=
  match (s.slot slot).ladder with
  | none => .next s
  | some l =>
    if ¬ ok then
      .next (if l.rung = 3 then loseMember s slot (if l.link then 6 else 5) false else startRung s slot (l.rung + 1) l.link)
    else
      let same : Bool := match s.array, posOfSlot s slot with
        | some a, some p => (posEntry a p).serial == padTo 20 serial
        | _, _ => true
      if l.rung = 3 ∧ ¬ same then .next (loseMember s slot 1 false)
      else .next (reissueHeld (rungBack s slot l.rung) slot)

/-! ## Health, windows and rails -/

/-- The SMART log of a member: bit 3 is a loss; another bit newly set is logged and posted once (R275). -/
def execHealthPoll (slot : SlotN) (warnings : BitVec 8) (s : State) : Result :=
  if (s.slot slot).state ≠ .member ∨ (s.slot slot).step ≠ 8 then .next s
  else
    let s := s.emit (.member slot .getLog)
    let fresh := warnings &&& ~~~(s.slot slot).smart &&& 0x17
    let s := s.modSlot slot fun x => { x with smart := warnings }
    if warnings.getLsbD 3 then .next (loseMember s slot 4 false)
    else if fresh = 0 then .next s
    else .next (postArray (logCase s 3 .smart slot.val) (2 ^ 8 * 3 + 2 ^ 12 * slot.val))

/-- A drive's memory request (R263): served inside its windows; outside answered with Unsupported Request, counted and
logged; a line MAC that fails in its data window is a Completer Abort, the write is reissued once, and a second failure
enters the unit in the lost-unit map (10 Table 10-5). -/
def execMemberDmaRequest (slot : SlotN) (inside lineMacFails : Bool) (s : State) : Result :=
  if ¬ inside then
    .next (countErr (logCase (s.emit (.memberAnswer slot true)) 3 .slotDma slot.val) slot)
  else if ¬ lineMacFails then .next (s.emit (.memberAnswer slot false))
  else
    let s := s.emit (.memberAbort slot)
    match s.morders.find? fun o => o.slot == slot && !o.held && o.sent.isSome && (match o.cmd with | .write .. => true | _ => false) with
    | none => .next s
    | some o =>
      if ¬ o.retried then .next (retryOrder s o)
      else
        let s := failOrder (dropOrder s o.id) o
        match o.cmd, posOfSlot s slot with
        | .write b bs, some p =>
          if b < 64 then .next s
          else
            let d := b - 64
            let u := max 1 (arrayU s)
            let s := enterOrLose s (d / u) p ((List.range (bs.length / blockBytes)).map fun i => d % u + i)
            .next (planJournal s (lostWrites s) .none)
        | _, _ => .next s

/-- A rail has been switched off by hardware (14 R441): a member is lost as POWER_FAULT; any other slot logs a NOTE. -/
def railFault (s : State) (m : SlotN) : State :=
  if ¬ (s.slot m).rail then s
  else
    let s := s.modSlot m fun x => { x with rail := false, limit := 0, perst := true, refclk := false, starting := none }
    let s := if (posOfSlot s m).isSome then loseMember s m 2 true
      else logNote (s.modSlot m fun x => { x with state := .powerFault }) 3 0xF04 m.val
    s.modSlot m fun x => { x with pd := none, step := 0 }

def execRailFault (slot : SlotN) (_f : RailFault) (s : State) : Result := .next (railFault s slot)

/-- Every rail is switched off, and one NOTE is logged (14 R442). -/
def execSlotConverterOvercurrent (s : State) : Result :=
  .next (logNote (allSlots.foldl railFault s) 0 0xF06 0)

/-- A member reaches a failure threshold (R275); SMART warnings other than read-only have none. -/
def execMemberLost (slot : SlotN) (why : LossRow) (s : State) : Result :=
  if why = .smart ∨ (posOfSlot s slot).isNone then .next s
  else .next (loseMember s slot (lossRow why) (why == .rail))

end Sys2Proof.Machine
end

