-- ==== Sys2Proof/Machine/Io.lean ====
section
/-! DEFINITION. The I/O commands (06 R176 to R181, 01 "How a write travels", "How a read travels", 10 R311 to R320): READ,
WRITE, WRITE_THROUGH, FLUSH, DEALLOCATE and VERIFY, the data their host reads bring, and the journal's completions. A
command's meaning is one visit of its Plan phase: what is there is used, what is missing is asked for, and the next
visit goes on. -/
namespace Sys2Proof.Machine

/-! ## Keys and waits -/

/-- WRITE, WRITE_THROUGH and DEALLOCATE. -/
def isWriteOp (o : Nat) : Bool := o == 2 || o == 3 || o == 5

/-- A write whose ciphertext is not yet in the cache or the journal; a DEALLOCATE until its last part is. -/
def unencrypted (t : Taken) : Bool :=
  isWriteOp (Entry.opcode t.head) && match t.stage with
    | .waiting | .param | .hostData | .engine _ | .room | .reads => true
    | _ => false

/-- A read or a check whose content has not been taken yet. -/
def unread (t : Taken) : Bool :=
  let o := Entry.opcode t.head
  (o == 1 || o == 6) && match t.stage with
    | .waiting | .param | .reads => true
    | _ => false

/-- An entry a test holds for, taken before the number, that names a block of the range. -/
def earlierEntry (f : Taken → Bool) (s : State) (v : VolN) (lbn n ord : Nat) : Bool :=
  bothPorts.any fun p => allRings.any fun r => (s.ring p r).taken.any fun t =>
    f t && decide (t.ord < ord) && Entry.vol t.head == v &&
    decide (Entry.lbn t.head < lbn + n) && decide (lbn < Entry.lbn t.head + ioCount t.head)

/-- An earlier write to a block of the range that has not been encrypted yet (01 R34). -/
def earlierWrite (s : State) (v : VolN) (lbn n ord : Nat) : Bool := earlierEntry unencrypted s v lbn n ord

/-- Must a write still wait for an entry that comes before it in the order of 01 R26 and names one of its blocks (01 R26,
R33, R34)? -/
def writeWaits (s : State) (t : Taken) : Bool :=
  earlierEntry (fun x => unencrypted x || unread x) s (Entry.vol t.head) (Entry.lbn t.head) (ioCount t.head) t.ord

/-- Is an entry planned now: it waits or reads, in the Plan phase, and the complexes plan? -/
def planned (s : State) (t : Taken) : Bool :=
  (t.stage == .waiting || t.stage == .reads) && s.clock.phase == .plan && anyPlanning s.cx

/-! ## Where a block's content is -/

/-- What the journal, the cache or the entry's own reads give for a block: its ciphertext and whether it came from a read
that has not been solved. -/
def blockHere (s : State) (t : Taken) (cls : ClassN) (v : VolN) (lbn : Nat) : Option (Bytes × Bool × State) :=
  let p := blockPlace s v lbn
  let home := rolePos s p.row (.data p.j)
  match newestRec s v lbn with
  | some r =>
    if r.type = .dealloc then some (zeros blockBytes, false, s)
    else match home.bind fun pos => readCache s cls pos (areaBlock s p.row p.b) with
      | some (bs, s) => some (bs, false, s)
      | none => some (recBlock s r (lbn - r.at_), false, s)
  | none =>
    match t.items.find? fun k => some k.pos == home && k.d == areaBlock s p.row p.b && k.data.isSome with
    | some k => some (k.data.getD [], !k.solved, s)
    | none =>
      match home.bind fun pos => readHeld s cls pos (areaBlock s p.row p.b) with
      | some (bs, s) => some (bs, false, s)
      | none => none

/-- The metadata content an entry can use; the recency of what it reads is `touchNodes`. -/
def metaHere (s : State) (t : Taken) (v : VolN) (lbn : Nat) : Option Bytes :=
  (blockHere s t 0 v lbn).map (·.1)

/-- Asks the members for a block: a read of its position, or a RECON shift where it is unavailable (07 R220, 09 R276). A
lost block fails the entry (09 R279). -/
def askBlock (s : State) (f : Ref) (v : VolN) (lbn : Nat) : State :=
  match s.taken? f with
  | none => s
  | some t =>
    let p := blockPlace s v lbn
    match rolePos s p.row (.data p.j) with
    | none => s
    | some pos =>
      match t.items.find? fun k => k.vol == v && k.lbn == lbn with
      | some k => if k.lost ∧ k.data.isNone then startRecon s p.row p.b pos f.p else s
      | none =>
        if blockLost s p.row pos p.b then failIo s f Status.lostUnit lbn
        else
          let out := posOut s pos p.row p.b
          let it : Item := { vol := v, lbn := lbn, pos := pos, d := areaBlock s p.row p.b, data := none, lost := out,
                             solved := false }
          let k := t.items.length
          let s := s.modTaken f fun t => { t with items := t.items ++ [it] }
          if out then startRecon s p.row p.b pos f.p
          else match slotOf s pos with
            | some m => sendMember s m (.read (64 + it.d) 1) (.item f k)
            | none => s

/-- The verified nodes a walk found are held in the metadata cache (10 R320). -/
def keepNodes (s : State) (ns : List Node) : State := ns.foldl (fun s n => keepNode s n.vol n.level n.x n.data) s

/-- Metadata blocks a walk read count as reads of the requesting class (08 R245, 01 R27). -/
def touchNodes (s : State) (cls : ClassN) (v : VolN) (size : Nat) (ns : List Node) : State :=
  ns.foldl (fun s n =>
    let p := blockPlace s v (nodeLbn s size n.level n.x)
    match (rolePos s p.row (.data p.j)).bind fun pos => readHeld s cls pos (areaBlock s p.row p.b) with
    | some r => r.2
    | none => s) s

/-- Counter and tag of a sealed block for an entry; asks for a node that is missing and fails the entry where the tree
fails (Table 10-3). `none`: not known yet. -/
def entryInfo (s : State) (f : Ref) (v : VolN) (size lbn : Nat) : Option (Nat × Bytes) × State :=
  match s.taken? f with
  | none => (none, s)
  | some t =>
    let use := fun ns => keepNodes (touchNodes s (portCls f.p) v size ns) ns
    match sealedInfo s v size (metaHere s t v) lbn with
    | (.counter c tag, ns) => (some (c, tag), use ns)
    | (.need l, ns) => (none, askBlock (use ns) f v l)
    | (.bad, _) => (none, failIo (logIntegrity s v.val lbn 1 Status.treeMismatch) f Status.treeMismatch lbn)

/-! ## READ -/

/-- One block of a read: its plaintext, or `none` while something is missing; a failed tag is solved around once (Table
10-3). -/
def readBlock (s : State) (f : Ref) (v : VolN) (x : Volume) (lbn : Nat) : Option Bytes × State :=
  match s.taken? f, blockKeys s v lbn with
  | some t, some ks =>
    let (info, s) := if x.isSealed then entryInfo s f v x.size lbn else (some (1, []), s)
    match info with
    | none => (none, s)
    | some (ctr, tag) =>
      if x.isSealed ∧ ctr = 0 then (some (zeros blockBytes), s)
      else match blockHere s t (portCls f.p) v lbn with
        | none => (none, askBlock s f v lbn)
        | some (bs, fresh, s) =>
          if x.isSealed ∧ blockTag ks lbn ctr bs ≠ tag then
            if fresh then
              let redo := fun k : Item => if k.vol = v ∧ k.lbn = lbn then
                { k with data := none, lost := true, retag := some (ctr, tag) } else k
              let s := s.modTaken f fun t => { t with items := t.items.map redo }
              (none, askBlock (logIntegrity s v.val lbn 2 Status.tagMismatch) f v lbn)
            else (none, failIo (logIntegrity s v.val lbn 3 Status.tagMismatch) f Status.tagMismatch lbn)
          else if bs.all (· == 0) then (some (zeros blockBytes), s)
          else (some (xtsDec ks lbn bs), s)
  | _, _ => (none, s)

/-- Every block of a read: the plaintext so far, while nothing is missing. -/
def readBlocks (f : Ref) (v : VolN) (x : Volume) : List Nat → State → Option (List Bytes) → Option (List Bytes) × State
  | [], s, acc => (acc, s)
  | l :: ls, s, acc =>
    match readBlock s f v x l with
    | (some bs, s) => readBlocks f v x ls s (acc.map (· ++ [bs]))
    | (none, s) => readBlocks f v x ls s none

/-- The checks common to a visit of an I/O command that names blocks; `none` where it does not go on now. -/
def ioVisit (s : State) (f : Ref) (op : Nat) : Option (Taken × VolN × Volume) :=
  match s.taken? f with
  | none => none
  | some t =>
    let v := Entry.vol t.head
    if Entry.opcode t.head ≠ op ∨ ¬ planned s t then none
    else match volOf s v with
      | none => none
      | some x =>
        if heldByRekey s t then none else some (t, v, x)

/-- The command's data in staging fails its line MAC (10 Table 10-5): it fails, and a write is not acknowledged. -/
def stagingFails (s : State) (f : Ref) (op : Nat) : Option State :=
  match s.taken? f with
  | none => none
  | some t =>
    let e := t.head
    match t.stage with
    | .engine _ => if Entry.opcode e = op then
        some (failIo (logIntegrity s (Entry.vol e).val (Entry.lbn e) 2 Status.eccUncorrectable) f
          Status.eccUncorrectable (Entry.lbn e))
      else none
    | _ => none

/-- The journal slot of a block fails its line MAC (10 Table 10-5): the unit enters the lost-unit map, JOURNAL_MEDIA is
logged, the block takes no further part in destage, and the command fails. `none` where no slot holds the block. -/
def slotMacFails (s : State) (f : Ref) (v : VolN) (lbn : Nat) : Option State :=
  let p := blockPlace s v lbn
  match newestRec s v lbn, rolePos s p.row (.data p.j) with
  | some r, some pos =>
    if r.type ≠ .write then none
    else
      let s := enterOrLose (markDone s r.seq (addrOf s p.row p.j p.b)) p.row pos [p.b]
      let s := logIntegrity (planJournal s (lostWrites s) .none) v.val (slotAddr ((r.slot + (lbn - r.at_)) % slotCount)) 5
        Status.journalMedia
      some (finishDestaged (retire (failIo s f Status.eccUncorrectable lbn)))
  | _, _ => none

/-- The lines of a block in the bulk read cache fail their MAC: they are dropped, and the members are read (10 Table
10-5). -/
def macDrops (s : State) (v : VolN) (m : MacFault) : State :=
  match m with
  | .readCache l =>
    let p := blockPlace s v l
    match rolePos s p.row (.data p.j) with
    | some pos => bulkDrop s pos (areaBlock s p.row p.b)
    | none => s
  | _ => s

/-- READ (R176): once every block is there, its charges are planned. `u` is what the memories it uses turn out to hold. -/
def execRead (p : Port) (r : RingN) (i : Nat) (u : ReadView) (s : State) : Result :=
  let f : Ref := { p := p, r := r, i := i }
  match ioVisit s f 1 with
  | none => .next (if u.mac = .staging then (stagingFails s f 1).getD s else s)
  | some (t, v, x) =>
    let lbn := Entry.lbn t.head
    let n := Entry.nblk t.head
    let slotFail := match u.mac with
      | .journal l => if lbn ≤ l ∧ l < lbn + n then slotMacFails s f v l else none
      | _ => none
    if x.stale then .next (failIo s f Status.treeMismatch lbn)
    else if earlierWrite s v lbn n t.ord then .next s
    else if u.tableBad then .next (descriptorReload s)
    else if slotFail.isSome then .next (slotFail.getD s)
    else
      let s := macDrops (cacheFaults s u.cache) v u.mac
      let (got, s) := readBlocks f v x ((List.range n).map (lbn + ·)) s (some [])
      match got, s.taken? f with
      | some bs, some t =>
        if t.stage = .finished then .next s
        else .next (s.modTaken f fun t => { t with data := bs.flatten, stage := .engine n })
      | none, some t => if t.stage = .finished then .next s else .next (setStage s f .reads)
      | _, none => .next s

/-- A read's data goes to its host pages, at the commit point (01 "How a read travels"). -/
def deliverRead (s : State) (f : Ref) (t : Taken) : State :=
  let pages := (runPages (chainRuns t.entries) (Entry.nblk t.head)).getD []
  let s := (List.range pages.length).foldl (fun s i =>
    addOrder s (.host f.p { kind := .data, addr := pages.getD i 0, data := slice t.data (blockBytes * i) blockBytes })) s
  finishEntry s f Status.success []

/-! ## WRITE, WRITE_THROUGH and DEALLOCATE -/

/-- Are the counters of a range known? Asks for the nodes that are missing. -/
def countersKnown (f : Ref) (v : VolN) (size : Nat) : List Nat → State → Bool → Bool × State
  | [], s, ok => (ok, s)
  | l :: ls, s, ok =>
    let (info, s) := entryInfo s f v size l
    countersKnown f v size ls s (ok && info.isSome)

/-- A visit of a write: its counters are looked up, then its data is read from host memory; a DEALLOCATE has none, and an
unsealed one no charge. What has its charges goes to the journal in the Dispatch phase of the frame, in the order of 01
R26. -/
def planWrite (s : State) (f : Ref) (op : Nat) : State :=
  match ioVisit s f op with
  | none => s
  | some (t, v, x) =>
    let (lbn, n) := partOf t x
    if x.stale then failIo s f Status.treeMismatch lbn
    else
      let (ok, s) := if x.isSealed then countersKnown f v x.size ((List.range n).map (lbn + ·)) s true else (true, s)
      match s.taken? f with
      | none => s
      | some t =>
        if t.stage = .finished then s
        else if ¬ ok then setStage s f .reads
        else if op = 5 then setStage s f (if x.isSealed then .engine n else .engine 0)
        else setStage s f .hostData

def execWrite (p : Port) (r : RingN) (i : Nat) (macFails : Bool) (s : State) : Result :=
  let f : Ref := { p := p, r := r, i := i }
  match (if macFails then stagingFails s f 2 else none) with
  | some t => .next t
  | none => .next (planWrite s f 2)

/-- WRITE_THROUGH: as WRITE; its head is held until its destage has completed (01 R20). -/
def execWriteThrough (p : Port) (r : RingN) (i : Nat) (macFails : Bool) (s : State) : Result :=
  let f : Ref := { p := p, r := r, i := i }
  match (if macFails then stagingFails s f 3 else none) with
  | some t => .next t
  | none => .next (planWrite s f 3)

/-- The counters of a range for its new content, where they are all known; a counter at 2^56 − 1 is at its limit (10
R316). -/
def newCounters (s : State) (t : Taken) (v : VolN) (size : Nat) (ls : List Nat) : Option (List Nat) :=
  ls.foldr (fun l acc => match acc, (sealedInfo s v size (metaHere s t v) l).1 with
    | some cs, .counter c _ => some ((c + 1) :: cs)
    | _, _ => none) (some [])

/-- Lines of deallocated blocks leave the caches: their content is older than the record. -/
def dropRange (s : State) (v : VolN) (lbn n : Nat) : State :=
  let lo := volBase s v + lbn
  let keep := fun x : CLine => match areaAddr s x.pos x.d with
    | some a => !(decide (lo ≤ a) && decide (a < lo + n))
    | none => true
  { s with cache := { s.cache with lines := s.cache.lines.filter keep, victim := s.cache.victim.filter keep },
           bulk := { s.bulk with reads := s.bulk.reads.filter fun x => match areaAddr s x.1 x.2.1 with
             | some a => !(decide (lo ≤ a) && decide (a < lo + n))
             | none => true } }

/-- The new content of a write enters the stripe cache (08 R246). -/
def cacheBlocks (s : State) (p : Port) (v : VolN) (key : Fin 64) (lbn : Nat) (cs : List Bytes) : State :=
  (List.range cs.length).foldl (fun s i =>
    let q := blockPlace s v (lbn + i)
    match rolePos s q.row (.data q.j) with
    | some pos => cacheWrite s (portCls p) pos (areaBlock s q.row q.b) key (cs.getD i [])
    | none => s) s

/-- Room for a part: slots for a write's blocks, one record, and a sealed part's tag-log lines (08 R237, 10 R317). -/
def writeRoom (s : State) (slots lines : Nat) : Bool :=
  decide (slots ≤ freeSlots s) && decide (1 ≤ freeRecs s) && decide (lines ≤ freeTagLines s)

/-- An earlier entry of the same port waits for room (08 R237). -/
def roomAhead (s : State) (f : Ref) (ord : Nat) : Bool :=
  allRings.any fun r => (s.ring f.p r).taken.any fun t => t.stage == .room && decide (t.ord < ord)

/-- JNL.full: an entry waits under R237. -/
def noteFull (s : State) : State :=
  let w := bothPorts.any fun p => allRings.any fun r => (s.ring p r).taken.any fun t => t.stage == .room
  s.modJnl fun j => { j with full := w }

/-- One part of a write is encrypted, tagged and committed to the journal (10 R317, 08 R236): tag-log lines, slots, then
the record. Each block uses the slot of its own LBN (10 R334). Without room it waits; with a counter at its limit it
fails (10 R316). -/
def commitPart (s : State) (f : Ref) (t : Taken) (v : VolN) (x : Volume) (ks : Nat → VolKeys) : State :=
  let e := t.head
  let dealloc := Entry.opcode e == 5
  let (lbn, n) := partOf t x
  let ls := (List.range n).map (lbn + ·)
  let plain := chunks blockBytes (n + 1) t.data
  let cs := if dealloc then (if x.isSealed then List.replicate n (zeros blockBytes) else [])
    else (List.range n).map fun i => xtsEnc (ks (lbn + i)) (lbn + i) (plain.getD i [])
  let lines := if x.isSealed then (n + 1) / 2 else 0
  match (if x.isSealed then newCounters s t v x.size ls else some []) with
  | none => setStage s f .waiting
  | some ctrs =>
    if ctrs.any fun c => decide (2 ^ 56 ≤ c) then failIo s f Status.noSpace lbn
    else if ¬ writeRoom s (if dealloc then 0 else n) lines ∨ roomAhead s f t.ord then noteFull (setStage s f .room)
    else
      let (first, s) := if dealloc then (0, s) else takeSlots s n
      let (r, s) := addRec s { IntentRec.base (if dealloc then .dealloc else .write) with
        vol := v, isSealed := x.isSealed, through := Entry.opcode e == 3, count := n, at_ := lbn, slot := first,
        port := some f.p }
      let (tags, s) := if x.isSealed then
          addTags s r.seq v ((List.range n).map fun i =>
            (lbn + i, ctrs.getD i 0, blockTag (ks (lbn + i)) (lbn + i) (ctrs.getD i 0) (cs.getD i [])))
        else ([], s)
      let s := if dealloc then dropRange s v lbn n else cacheBlocks s f.p v x.key lbn cs
      let s := planJournal s (tags ++ (if dealloc then [] else slotWrites first cs) ++ intentWrites r) (.entry f)
      let seqs := t.seqs ++ [r.seq]
      let more := dealloc && x.isSealed && decide (256 * seqs.length < ioCount e)
      noteFull (s.modTaken f fun t =>
        { t with seqs := seqs, committed := true, stage := if more then .waiting else .journal })

/-- The engine work of an entry is done: a read is delivered, a write goes to the journal. -/
def engineDone (s : State) (f : Ref) : State :=
  match s.taken? f with
  | none => s
  | some t =>
    let e := t.head
    match Entry.opcode e with
    | 1 => deliverRead s f t
    | 6 => finishEntry s f Status.success []
    | 0x30 => s.modTaken f fun t => { t with charged := true, stage := .waiting }
    | 2 | 3 | 5 =>
      match volOf s (Entry.vol e) with
      | some x =>
        let keys := blockKeys s (Entry.vol e)
        let (lbn, n) := partOf t x
        if (Entry.opcode e = 5 ∧ ¬ x.isSealed) ∨ (List.range n).all (fun i => (keys (lbn + i)).isSome) then
          commitPart s f t (Entry.vol e) x fun l => (keys l).getD { xts1 := [], xts2 := [], tag := [], tree := [] }
        else s
      | none => s
    | _ => s

/-- DEALLOCATE (R178): an unsealed one needs no charge. -/
def execDeallocate (p : Port) (r : RingN) (i : Nat) (s : State) : Result :=
  .next (planWrite s { p := p, r := r, i := i } 5)

/-- The wait for journal room ends (08 R237): the entry's commit is planned, for the Dispatch phase of the frame. -/
def execJournalWaitEnd (p : Port) (r : RingN) (i : Nat) (s : State) : Result :=
  let f : Ref := { p := p, r := r, i := i }
  match s.taken? f with
  | some t => if t.stage = .room ∧ planPhase s ∧ ¬ heldByRekey s t then .next (setStage s f (.engine 0)) else .next s
  | none => .next s

/-! ## FLUSH -/

/-- Writes to the volumes of a FLUSH, taken before it, whose record is still to come (08 R254). -/
def flushAhead (s : State) (k : Taken) : Bool :=
  bothPorts.any fun q => allRings.any fun r => (s.ring q r).taken.any fun t =>
    unencrypted t && decide (t.ord < k.ord) && k.vols.contains (Entry.vol t.head)

/-- Records of entries taken after it. -/
def laterSeqs (s : State) (ord : Nat) : List Nat :=
  bothPorts.flatMap fun q => allRings.flatMap fun r =>
    ((s.ring q r).taken.filter fun t => decide (ord < t.ord)).flatMap fun t => t.seqs

/-- FLUSH (08 R254): it covers every unretired record of its volumes from entries taken before it, and waits for their
retirement and their folds. -/
def execFlush (p : Port) (r : RingN) (i : Nat) (s : State) : Result :=
  let f : Ref := { p := p, r := r, i := i }
  match s.taken? f with
  | none => .next s
  | some t =>
    let e := t.head
    if Entry.opcode e ≠ 4 ∨ ¬ planned s t ∨ flushAhead s t then .next s
    else
      let stale := if Entry.all e then false else match volOf s (Entry.vol e) with
        | some x => x.stale
        | none => false
      if stale then .next (failIo s f Status.treeMismatch 0)
      else
        let later := laterSeqs s t.ord
        let seqs := (s.jnl.recs.filter fun q => q.names && t.vols.contains q.vol && !later.contains q.seq).map (·.seq)
        let s := s.modTaken f fun t => { t with seqs := seqs, stage := .destage }
        match s.taken? f with
        | some t => .next (finishOne s f t)
        | none => .next s

/-! ## VERIFY -/

/-- The member blocks a VERIFY reads at one block position of a row: every available position, and the home position of a
block it names. -/
def verifyAt (s : State) (f : Ref) (v : VolN) (lbn row b : Nat) (home : Option PosN) : State :=
  let d := areaBlock s row b
  let ps := (List.range (rowDesc s row).lanes.length).filterMap fun l =>
    if h : l < 6 then some (⟨l, h⟩ : PosN) else none
  ps.foldl (fun s q =>
    match s.taken? f with
    | none => s
    | some t =>
      if t.items.any fun k => k.pos == q && k.d == d then s
      else if unavailable s row b q ∧ home ≠ some q then s
      else
        let out := unavailable s row b q
        let k := t.items.length
        let it : Item := { vol := v, lbn := lbn, pos := q, d := d, data := none, lost := out, solved := false }
        let s := s.modTaken f fun t => { t with items := t.items ++ [it] }
        if out then s
        else match slotOf s q with
          | some m => sendMember s m (.read (64 + d) 1) (.item f k)
          | none => s) s

/-- The member blocks a VERIFY reads: each named block, and then every block position of the rows that hold one (R179). -/
def verifyAsk (s : State) (f : Ref) (v : VolN) (ls : List Nat) : State :=
  let s := ls.foldl (fun s l =>
    let p := blockPlace s v l
    verifyAt s f v l p.row p.b (rolePos s p.row (.data p.j))) s
  let rows := (ls.map fun l => (blockPlace s v l).row).eraseDups
  rows.foldl (fun s r =>
    let l := (ls.find? fun l => (blockPlace s v l).row == r).getD 0
    (List.range (arrayU s)).foldl (fun s b => verifyAt s f v l r b none) s) s

/-- What the entry has read of a role. -/
def itemRole (s : State) (t : Taken) (row b : Nat) (r : Role) : Option Bytes :=
  match rolePos s row r with
  | some q => match t.items.find? fun k => k.pos == q && k.d == areaBlock s row b with
    | some k => k.data
    | none => none
  | none => none

/-- Does the parity of a row differ at a block position, where every position was read? -/
def parityAt (s : State) (t : Taken) (row b : Nat) : Bool :=
  let d := rowDesc s row
  let ds := (List.range d.k).map fun j => itemRole s t row b (.data j)
  let rs := (List.range d.m).map fun a => itemRole s t row b (.red a)
  ds.all Option.isSome && rs.all Option.isSome &&
    (List.range d.m).any fun a => redBlock d a (ds.map (·.getD [])) != (rs.getD a none).getD []

/-- Does the parity of the row that holds a block differ, at any of its block positions (R179)? -/
def parityDiffers (s : State) (t : Taken) (v : VolN) (lbn : Nat) : Bool :=
  (List.range (arrayU s)).any (parityAt s t (blockPlace s v lbn).row)

/-- A shift of one of the rows runs: its writes are not all on the members yet. -/
def rowsShift (s : State) (v : VolN) (ls : List Nat) : Bool :=
  s.shifts.any fun x => ls.any fun l => (blockPlace s v l).row == x.row

/-- The block's tag, over the content a read would return. -/
def verifyTag (s : State) (f : Ref) (v : VolN) (x : Volume) (lbn : Nat) : Option Bool × State :=
  if ¬ x.isSealed then (some true, s)
  else match entryInfo s f v x.size lbn with
    | (none, s) => (none, s)
    | (some (ctr, tag), s) =>
      if ctr = 0 then (some true, s)
      else match s.taken? f, blockKeys s v lbn with
        | some t, some ks => match blockHere s t (portCls f.p) v lbn with
          | some (bs, _, s) => (some (blockTag ks lbn ctr bs == tag), s)
          | none => (none, s)
        | _, _ => (none, s)

/-- The blocks of a VERIFY in order, while no tag fails. -/
def verifyTags (f : Ref) (v : VolN) (x : Volume) : List Nat → State → Bool → Bool × State
  | [], s, ok => (ok, s)
  | l :: ls, s, ok =>
    match verifyTag s f v x l with
    | (none, s) => verifyTags f v x ls s false
    | (some true, s) => verifyTags f v x ls s ok
    | (some false, s) =>
      verifyTags f v x ls (failIo (logIntegrity s v.val l 3 Status.tagMismatch) f Status.tagMismatch l) false

/-- VERIFY (R179): every position of the rows is read, tags and parity are checked, nothing is transferred or repaired. -/
def execVerify (p : Port) (r : RingN) (i : Nat) (s : State) : Result :=
  let f : Ref := { p := p, r := r, i := i }
  match ioVisit s f 6 with
  | none => .next s
  | some (t, v, x) =>
    let lbn := Entry.lbn t.head
    let ls := (List.range (Entry.nblk t.head)).map (lbn + ·)
    let lost := ls.find? fun l =>
      let q := blockPlace s v l
      match rolePos s q.row (.data q.j) with
      | some pos => blockLost s q.row pos q.b
      | none => false
    if x.stale then .next (failIo s f Status.treeMismatch lbn)
    else match lost with
      | some l => .next (failIo s f Status.lostUnit l)
      | none =>
        if earlierWrite s v lbn (Entry.nblk t.head) t.ord ∨ (t.items = [] ∧ rowsShift s v ls) then .next s
        else
          let s := verifyAsk s f v ls
          let (ok, s) := verifyTags f v x ls s true
          match s.taken? f with
          | none => .next s
          | some t =>
            if t.stage = .finished then .next s
            else
              let s := (t.items.filter fun k => k.lost && k.data.isNone).foldl (fun s k =>
                startRecon s (k.d / max 1 (arrayU s)) (k.d % max 1 (arrayU s)) k.pos f.p) s
              if ¬ ok ∨ t.items.any fun k => k.data.isNone then .next (setStage s f .reads)
              else match ls.find? fun l => parityDiffers s t v l with
                | some l => .next (failIo s f Status.parityMismatch l)
                | none => .next (setStage s f (.engine (Entry.nblk t.head)))

/-! ## Host reads and the journal's completions -/

/-- The entry's host read went out in an earlier frame than the one whose Intake phase observes now (01 R19). -/
def readBegun (s : State) (t : Taken) : Bool :=
  observes s && match t.issued with
    | some f => decide (f < obsFrame s)
    | none => false

/-- The requests of an owner are given up. -/
def dropReads (o : ReadOwner) (q : PortSt) : PortSt := { q with reads := q.reads.filter fun r => !(r.owner == o) }

/-- The data of a command's host read is observed, in a later frame than its requests (01 R19): parameter block or write
data. Requests that still wait for a tag go out as tags return (04 R110), and the entry waits for their data; poison fails
it (04 Table 4-10). -/
def execHostDmaReadCompletion (p : Port) (r : RingN) (i : Nat) (data : Option Bytes) (s : State) : Result :=
  let f : Ref := { p := p, r := r, i := i }
  match s.taken? f with
  | none => .next s
  | some t =>
    if ¬ readBegun s t ∨ ¬ (t.stage = .param ∨ t.stage = .hostData) ∨ (s.port p).cstate ≠ .run then .next s
    else
      let more := readsWait (s.port p) (.entry f)
      let s := readsBack s p (.entry f)
      match data with
      | none =>
        let s := logPoison (s.modPort p (dropReads (.entry f))) p
        .next (if isIoOp (Entry.opcode t.head) then failIo s f Status.hostPoison (Entry.lbn t.head)
          else failEntry s f Status.hostPoison)
      | some bs =>
        .next (s.modTaken f fun t =>
          if more then { t with data := t.data ++ bs, issued := some (obsFrame s) }
          else if t.stage = .param then { t with param := some (t.data ++ bs), data := [], issued := none, stage := .waiting }
          else { t with data := t.data ++ bs, issued := none,
                        stage := if isIoOp (Entry.opcode t.head) then .engine (Entry.nblk t.head) else .exec })

/-- The vault index after a change of an object: `data` holds its new length and policy word (11 R344). -/
def indexSet (ix : List VaultObj) (id len : Nat) (policy : W32) : List VaultObj :=
  let rest := ix.filter fun o => o.id != id
  if len = 0 then rest
  else (rest.filter fun o => decide (o.id < id)) ++ [{ id := id, len := len, policy := policy }] ++
    rest.filter fun o => decide (id < o.id)

/-- The object a VAULT command names. -/
def vaultId (e : Entry) : Nat := field (Entry.arg e) 16 12

/-- A VAULT change takes effect: the index follows the block. -/
def vaultApply (s : State) (t : Taken) : State :=
  if Entry.opcode t.head ≠ 0x30 then s
  else
    let ix := indexSet s.vault.index (vaultId t.head) (leNat (slice t.data 0 4)) (dwOf (slice t.data 4 4))
    { s with vault := { s.vault with index := ix } }

/-- An entry whose parts are all durable: a WRITE_THROUGH waits for its destage, any other is done (01 R20, 10 R461). -/
def entryDurable (s : State) (f : Ref) : State :=
  match s.taken? f with
  | none => s
  | some t =>
    let durable := t.seqs.all fun q => !(s.jnl.recs.any fun r => r.seq == q && !r.durable)
    if t.stage ≠ .journal ∨ ¬ durable then s
    else if Entry.opcode t.head = 3 then setStage s f .destage
    else finishEntry (vaultApply s t) f Status.success []

/-- Each line written raises the engine's root counter over it; the root is checkpointed with its commit number (08
R236, 10 R322, R324). -/
def bumpCounters (s : State) (c : JCommit) : State :=
  let s := c.writes.foldl (fun s w => s.modJnl fun j =>
    { j with rootCtr := Vector.ofFn fun i : Fin 8 =>
        if i.val = w.1 / 0x800000 % 8 then j.rootCtr[i] + 1 else j.rootCtr[i] }) s
  let n := s.jnl.commitNo + 1
  let s := s.modJnl fun j => { j with commitNo := n }
  rootWrite s (0x40 + 16 * (n % 64)) (leBytes 8 n ++ journalRoot s.fuse s.jnl.rootCtr.toList n ++ [0])

/-- Marks the records whose intent lines a commit wrote as complete. -/
def completeRecs (s : State) (c : JCommit) : State :=
  let one := fun r : IntentRec => if c.writes.any fun w => w.1 == intentA + 64 * (r.seq % recCount) then
    { r with durable := true } else r
  s.modJnl fun j => { j with recs := j.recs.map one }

/-- What waits for a commit's owner goes on. -/
def ownerDurable (s : State) (o : JOwner) : State :=
  match o with
  | .entry f => entryDurable s f
  | .row id =>
    match s.shifts.find? fun x => x.id == id with
    | some x => putShift s { x with rowDurable := true, rowAt := obsFrame s }
    | none => s
  | .solved id =>
    match s.shifts.find? fun x => x.id == id with
    | some x => putShift s { x with solvedWait := false }
    | none => s
  | .fold v _ _ => foldDurable s v
  | .log seqs => { s with log := { s.log with durable := s.log.durable ++ seqs } }
  | _ => s

/-- Is the line one of those a write covers? -/
def inWrite (w : Nat × Bytes) (line : Nat) : Bool :=
  decide (w.1 / 64 ≤ line) && decide (line < (w.1 + w.2.length + 63) / 64)

/-- Lines written: they hold the new content, and pass their check again. -/
def landLines (s : State) (ws : List (Nat × Bytes)) : State :=
  s.modJnl fun j => { j with
    mem := ws.foldl (fun m w => Memory.write m w.1 w.2) j.mem,
    badLines := j.badLines.filter fun l => !ws.any fun w => inWrite w l }

/-- The commit at the head of the journal's queue lands: its lines, its root, its records (08 R236). -/
def landCommit (s : State) (c : JCommit) (rest : List JCommit) : State :=
  let s := landLines (s.modJnl fun j => { j with inflight := rest }) c.writes
  completeRecs (bumpCounters s c) c

end Sys2Proof.Machine
end

