-- ==== Sys2Proof/Machine/Mgmt.lean ====
section
/-! DEFINITION. The management commands that need no unit of their own (06 R182 to R194): IDENTIFY, STATUS, LOG_READ,
QUEUE_CTL, ABORT, the staging buffers, CACHE_MAINT, SHARES_SET, IDENTITY_SET, AUX and ALARM. -/
namespace Sys2Proof.Machine

/-- Commands that contend for one thing, the first in the order of 01 R26 having it: a mode, a buffer, a resource their
opcode names. -/
def contend (e e' : Entry) : Bool :=
  let modes := [0x20, 0x21, 0x42, 0x48, 0x49, 0x4A]
  (Entry.opcode e == Entry.opcode e' && (Entry.opcode e != 0x19 || Entry.a e 0 == Entry.a e' 0)) ||
  (modes.contains (Entry.opcode e) && modes.contains (Entry.opcode e'))

/-- Entries of a frame that contend are planned in the order they were taken in (01 R26). -/
def inTurn (s : State) (t : Taken) : Bool :=
  !bothPorts.any fun p => (s.ring p 0).taken.any fun u =>
    u.stage == .waiting && u.frame == t.frame && decide (u.ord < t.ord) && contend u.head t.head

/-- A visit of a management command in the Plan phase of a frame: its reference and its entry, while it waits. -/
def mgmtVisit (s : State) (p : Port) (i op : Nat) : Option (Ref × Taken) :=
  let f : Ref := { p := p, r := 0, i := i }
  match s.taken? f with
  | none => none
  | some t =>
    if Entry.opcode t.head = op ∧ t.stage = .waiting ∧ s.clock.phase = .plan ∧ anyPlanning s.cx ∧ inTurn s t then some (f, t)
    else none

/-- The same, for a subop of arg. -/
def subVisit (s : State) (p : Port) (i op sub : Nat) : Option (Ref × Taken) :=
  match mgmtVisit s p i op with
  | some (f, t) => if Entry.subop t.head = sub then some (f, t) else none
  | none => none

def done (s : State) (f : Ref) (reply : Bytes) : Result := .next (finishEntry s f Status.success reply)
def fails (s : State) (f : Ref) (st : Status) : Result := .next (failEntry s f st)

def slotMask (s : State) (f : SlotSt → Bool) : Nat := (allSlots.map fun m => if f (s.slot m) then 2 ^ m.val else 0).sum

/-! ## IDENTIFY, STATUS, LOG_READ -/

/-- The running image. -/
def runningImage (s : State) : Option FwImage := match s.fw.booted with
  | .a => s.fw.a
  | .b => s.fw.b

/-- Table 6-5. -/
def identifyData (s : State) (p : Port) : Bytes :=
  let present := slotMask s (·.present)
  let inArray := slotMask s (·.state == .member)
  let lay := match s.array with | some a => a.layout | none => 0
  let su := match s.array with | some a => a.su | none => 0
  let vols := (allVols.map fun v => if (volOf s v).isSome then 2 ^ v.val else 0).sum
  let used := s.vault.index.length
  let lim := match p with | .a => s.mode.lima | .b => s.mode.limb
  padTo 256 (
    dwBytes (pack [(0, 16, 0x1D9B), (16, 16, 0x0636)]) ++
    dwBytes (pack [(0, 8, 1), (8, 8, lcCode (lifecycle s.fuse)), (16, 1, bit s.supply.strap), (24, 1, portBit p)]) ++
    dwBytes (match runningImage s with | some w => w.version | none => 0) ++ leBytes 4 (rollback s) ++
    dwBytes (pack [(0, 16, 256), (16, 8, 8), (24, 8, 45)]) ++
    dwBytes (pack [(0, 6, present), (8, 6, inArray), (16, 3, lay), (24, 3, su)]) ++
    container (match s.array with | some _ => arrayCapacity s | none => 0) ++ leBytes 8 vols ++
    dwBytes (pack [(0, 16, used), (16, 16, 4096 - used)]) ++
    dwBytes (pack [(0, 16, heldBufs s.staging p), (16, 16, lim.toNat)]))

/-- Table 6-6. -/
def statusData (s : State) (p : Port) : Bytes :=
  let healthy := slotMask s fun x => x.state == .member || x.state == .spare
  let failed := slotMask s fun x => x.state == .failed || x.state == .unsuitable || x.state == .powerFault
  let target := match s.array with
    | some a => if a.rbKind = .none then 7 else (posEntry a a.rbTarget).slot.val
    | none => 7
  dwBytes (modeStat s.mode s.fuse) ++ dwBytes (modeCause s.mode) ++ container s.clock.frame ++
  dwBytes (pack [(0, 16, unlockCount s.root), (16, 16, throttleSecs s.mode s.clock.rtc)]) ++
  dwBytes (pack [(0, 16, (s.port p).misuse.toNat), (16, 16, (s.port (otherPort p)).misuse.toNat)]) ++
  dwBytes (pack [(0, 6, healthy), (8, 6, failed), (16, 3, target)]) ++ zeros 4

def execIdentify (p : Port) (i : Nat) (s : State) : Result :=
  match mgmtVisit s p i 0x10 with
  | some (f, _) => done s f (identifyData s p)
  | none => .next s

def execStatus (p : Port) (i : Nat) (s : State) : Result :=
  match mgmtVisit s p i 0x11 with
  | some (f, _) => done s f (statusData s p)
  | none => .next s

/-- A record as LOG_READ delivers it: word w as the container at byte 8w (13 R413). -/
def recDelivered (ws : List Nat) : Bytes := ws.flatMap container

/-- The words of 72 journal bytes. -/
def wordsOf (bs : Bytes) : List Nat := (List.range 16).map fun w => leNat bs / 2 ^ (36 * w) % 2 ^ 36

/-- Record q: from the intake, or from the journal where word 0 and the CRC check (13 R415). -/
def logRecord (s : State) (q : Nat) : Option Bytes :=
  match (s.log.general ++ s.log.reserved).find? fun r => r.seq == q with
  | some r => some (recDelivered (recWords r))
  | none =>
    let ws := wordsOf (Memory.read s.jnl.mem (logOffset q) 72)
    if ws.getD 0 0 = q % 2 ^ 36 ∧ (crc32c ((ws.take 15).flatMap container)).toNat = ws.getD 15 0 then
      some (recDelivered ws)
    else none

/-- Records from a sequence number on, up to `count`. -/
def logFrom (s : State) : Nat → Nat → Nat → List (Nat × Bytes)
  | 0, _, _ => []
  | fuel + 1, q, count =>
    if count = 0 ∨ s.log.next ≤ q then []
    else match logRecord s q with
      | some r => (q, r) :: logFrom s fuel (q + 1) (count - 1)
      | none => logFrom s fuel (q + 1) count

/-- LOG_READ (R183): no record that has not been assigned a number is returned. -/
def execLogRead (p : Port) (i : Nat) (s : State) : Result :=
  match mgmtVisit s p i 0x12 with
  | none => .next s
  | some (f, t) =>
    let count := field (Entry.arg t.head) 0 6
    let given := (Entry.a t.head 0).toNat + field (Entry.a t.head 1) 0 4 * 2 ^ 32
    let oldest := max 1 (s.log.next - 28672)
    let restart := (Entry.a t.head 2).getLsbD 0 || decide (given < oldest)
    let first := if restart then oldest else given
    if count = 0 ∨ 32 < count then fails s f Status.badField
    else
      let rs := logFrom s 28673 first count
      let after := (rs.getLast?.map fun r => r.1 + 1).getD first
      done s f (leBytes 4 rs.length ++ leBytes 4 (bit restart) ++ container after ++ rs.flatMap (·.2))

/-! ## QUEUE_CTL and ABORT (05 R153 to R157) -/

def ringArg (e : Entry) : RingN := sixtyFour (field (Entry.arg e) 16 6)

/-- Is a QCFG value of a create or modify in range: depth code, weight, burst (05 Table 5-9)? -/
def qcfgOk (v : W32) : Bool :=
  decide (field v 1 4 ≤ 8) && decide (1 ≤ field v 5 8) && decide (1 ≤ field v 13 7) && decide (field v 13 7 ≤ 64)

/-- A ring's base is aligned to the smaller of its size and 4 KiB (05 R132). -/
def baseOk (base : Nat) (cfg : W32) : Bool := base % min (64 * depthOf (field cfg 1 4)) 4096 == 0

/-- A new ring in state RUN (05 R133). -/
def createdRing (s : State) (base : Nat) (cfg poll : W32) : Ring :=
  { Ring.init with state := .run, base := BitVec.ofNat 64 base, cfg := cfg ||| 1, poll := poll,
                   nextPoll := s.clock.frame + 1 }

def execQueueCtlCreate (p : Port) (i : Nat) (s : State) : Result :=
  match subVisit s p i 0x13 1 with
  | none => .next s
  | some (f, t) =>
    let e := t.head
    let r := ringArg e
    let base := (Entry.a e 0).toNat + (Entry.a e 1).toNat * 2 ^ 32
    let cfg := Entry.a e 2
    if r = 0 then fails s f Status.badField
    else if (s.ring p r).state ≠ .disabled then fails s f Status.badRing
    else if ¬ qcfgOk cfg then fails s f Status.badField
    else if ¬ baseOk base cfg then fails s f Status.badAlign
    else .next (planAct s f (.queueCreate r base cfg (Entry.a e 3)))

/-- Modify: weight, burst, vector, ie, interval and key; the depth stays that of the ring's memory. -/
def execQueueCtlModify (p : Port) (i : Nat) (s : State) : Result :=
  match subVisit s p i 0x13 2 with
  | none => .next s
  | some (f, t) =>
    let e := t.head
    let r := ringArg e
    let cfg := Entry.a e 2
    if r = 0 then fails s f Status.badField
    else if (s.ring p r).state = .disabled then fails s f Status.badRing
    else if ¬ qcfgOk cfg ∨ field cfg 1 4 ≠ Ring.dcode (s.ring p r) then fails s f Status.badField
    else .next (planAct s f (.queueModify r cfg (Entry.a e 3)))

/-- Subops 3 to 6 on a ring of the port: the operation of R153, or the status it fails with. -/
def queueOp (s : State) (f : Ref) (t : Taken) (op : Nat) (delete : Bool) : Result :=
  let r := ringArg t.head
  if r = 0 then fails s f Status.badField
  else if (s.ring f.p r).state = .disabled then fails s f Status.badRing
  else if ¬ ringOpOk (s.ring f.p r) op then fails s f Status.ringState
  else .next (planAct s f (.queueOp r op delete))

/-- Delete: a reset that leaves the ring DISABLED (R182). -/
def execQueueCtlDelete (p : Port) (i : Nat) (s : State) : Result :=
  match subVisit s p i 0x13 3 with
  | some (f, t) => queueOp s f t 3 true
  | none => .next s
def execQueueCtlResumeRetry (p : Port) (i : Nat) (s : State) : Result :=
  match subVisit s p i 0x13 4 with
  | some (f, t) => queueOp s f t 1 false
  | none => .next s
def execQueueCtlResumeSkip (p : Port) (i : Nat) (s : State) : Result :=
  match subVisit s p i 0x13 5 with
  | some (f, t) => queueOp s f t 2 false
  | none => .next s
def execQueueCtlReset (p : Port) (i : Nat) (s : State) : Result :=
  match subVisit s p i 0x13 6 with
  | some (f, t) => queueOp s f t 3 false
  | none => .next s

/-- What an abort does to a taken entry (05 R156): nothing, aborted, or late. -/
inductive AbortFate where | none | aborted | late
deriving DecidableEq, Repr

/-- An entry of the ring that is not done, by its state; one that failed and freezes its ring counts as its failed entry
(R164). -/
def abortFate (x : Ring) (tag : BitVec 16) (all : Bool) (t : Taken) : AbortFate :=
  if t.done ∨ ¬ (all ∨ Entry.tag t.head = tag) then .none
  else if x.state = .frozen ∧ x.errIndex.toNat = t.i then .late
  else if t.stage = .finished then (if freezes t.status then .late else .none)
  else if t.committed then .late
  else .aborted

def abortTaken (x : Ring) (tag : BitVec 16) (all : Bool) (t : Taken) : Taken :=
  if abortFate x tag all t = .aborted then { t with stage := .finished, status := Status.aborted, reply := [] } else t

/-- The known commands of a ring with the count of their first slot; the last may be a chain that is not whole. -/
def knownCommands : Nat → Nat → List Known → List (Nat × Known × List Entry)
  | 0, _, _ => []
  | _, _, [] => []
  | fuel + 1, c, k :: ks =>
    match nextOf (k :: ks) with
    | some (es, _, rest) => (c, k, es) :: knownCommands fuel (c + es.length) rest
    | none => [(c, k, k.e :: ks.map (·.e))]

/-- The known commands an abort names and that no abort has named yet. -/
def abortsKnown (x : Ring) (tag : BitVec 16) (all : Bool) : List (Nat × Known × List Entry) :=
  (knownCommands x.known.length (x.passed + Ring.takenLen x) x.known).filter fun k =>
    !k.2.1.aborted && (all || Entry.tag k.2.1.e == tag)

/-- Known commands an abort ended: each is done, and its slot count is kept so that a later fetch does not run it. -/
def markGone (x : Ring) (cs : List Nat) : Ring :=
  let first := x.passed + Ring.takenLen x
  { x with gone := x.gone ++ cs,
           known := x.known.mapIdx fun i k => if cs.contains (first + i) then { k with aborted := true } else k }

/-- The reply an aborted known command gets. -/
def replyAborted (s : State) (p : Port) (r : RingN) (k : Nat × Known × List Entry) : State :=
  let i := k.1 % Ring.depth (s.ring p r)
  replyEntry s p r { newTaken s p i k.2.2 Status.aborted 0 with reply := [] }

/-- Orders of entries that ended are cancelled: reads still under way bring nothing (05 R156). -/
def cancelReads (s : State) (p : Port) (r : RingN) : State :=
  let ended : Ref → Bool := fun f => match s.taken? f with
    | some t => t.stage == .finished
    | none => true
  let gone : MOrder → Bool := fun o => match o.owner with
    | .item f _ => f.p == p && f.r == r && ended f
    | _ => false
  { s with morders := s.morders.map fun o => if gone o then { o with owner := .none } else o }

/-- ABORT at its commit point (05 R156, R157): known commands are discarded, taken ones without a committed order are
cancelled, and both are done with ABORTED. -/
def abortAct (s : State) (f : Ref) (r : RingN) (all : Bool) (tag : BitVec 16) : State :=
  let x := s.ring f.p r
  let fates := x.taken.map (abortFate x tag all)
  let known := abortsKnown x tag all
  let aborted := (fates.filter (· == .aborted)).length + known.length
  let late := (fates.filter (· == .late)).length
  let s := known.foldl (fun s k => replyAborted s f.p r k) s
  let s := s.modRing f.p r fun x =>
    markGone { x with taken := x.taken.map (abortTaken x tag all) } (known.map (·.1))
  finishEntry (cancelReads s f.p r) f Status.success
    (leBytes 4 aborted ++ leBytes 4 late ++ leBytes 4 (bit (!all && aborted + late == 0)) ++ zeros 4)

/-- ABORT (05 R156, R157). -/
def execAbort (p : Port) (i : Nat) (s : State) : Result :=
  match mgmtVisit s p i 0x14 with
  | none => .next s
  | some (f, t) =>
    let e := t.head
    let r := sixtyFour (field (Entry.arg e) 0 6)
    if r = 0 then fails s f Status.badField
    else if (s.ring p r).state = .disabled then fails s f Status.badRing
    else .next (planAct s f (.abort r ((Entry.arg e).getLsbD 8) ((Entry.a e 0).extractLsb' 0 16)))

/-! ## Staging buffers (R192 to R194, 02 R57) -/

/-- STG_LIMIT of a port. -/
def stgLimit (s : State) : Port → Nat
  | .a => s.mode.lima.toNat
  | .b => s.mode.limb.toNat

/-- BUF_ALLOC takes the lowest free buffer at its PREP (R192). -/
def takeFree (s : State) (f : Ref) : State :=
  match freeIdx s with
  | idx :: _ => setStage (addPriv (setBuf s idx (.taken f.p)) (.bufAlloc f idx)) f .exec
  | [] => s

/-- An allocation with `before` others waiting ahead of it: it takes a free buffer, waits for reclaim where that yields
one, or fails (02 R57, R58, R62). -/
def allocBuf (s : State) (f : Ref) (before : Nat) : State :=
  if stgLimit s f.p ≤ portBufs s.staging f.p then failEntry s f Status.noBuffer
  else if before < (freeIdx s).length then takeFree s f
  else if before < hostReach s then askEngines (setStage s f .reclaim)
  else failEntry s f Status.noBuffer

def execBufAlloc (p : Port) (i : Nat) (s : State) : Result :=
  match mgmtVisit s p i 0x18 with
  | some (f, _) => .next (allocBuf s f (hostWaits s))
  | none => .next s

/-- An allocation that waited for reclaim is planned when a buffer has been released, those taken first ahead of it, and
fails where reclaim can no longer yield one (02 R58). -/
def execBufferReclaimAlloc (p : Port) (i : Nat) (s : State) : Result :=
  let f : Ref := { p := p, r := 0, i := i }
  match s.taken? f with
  | some t =>
    if t.stage = .reclaim ∧ planPhase s then
      .next (allocBuf s f (ring0At s fun u => u.stage == .reclaim && decide (u.ord < t.ord)))
    else .next s
  | none => .next s

/-- The checks of a handle, in order (R193). DESIGN CHOICE (log entry 69): a buffer whose allocation has passed its PREP and
not its EXEC has no handle yet, so a handle that names it is stale. -/
def handleCheck (s : State) (p : Port) (h : W32) : Status :=
  if handleRest h ≠ 0 ∨ handleIndex h < 128 then Status.badField
  else if handlePort h ≠ p then Status.bufNotOwner
  else match bufOf s (handleIndex h) with
    | none => Status.badField
    | some b =>
      if b.gen ≠ handleGen h then Status.bufStale
      else match b.owner with
        | .free | .freeing _ => Status.bufStale
        | .held q => if q = p then Status.success else Status.bufNotOwner
        | .taken _ => Status.bufStale
        | .engine _ | .releasing _ => Status.bufNotOwner

/-- A handle's failure at steps 2 to 4: a BUF_MISUSE record and the misuse count (R193). -/
def misuse (s : State) (p : Port) (h : W32) (st : Status) : State :=
  if st = Status.badField ∨ st = Status.success then s
  else
    let s := s.raise { LogRec.base 0x071 7 0 with
      src := BitVec.ofNat 3 (portSrc p), status := st,
      payload := [h.toNat, bit (handlePort h == .b) + 2 * portBit p] }
    s.modPort p fun q => { q with misuse := satInc q.misuse }

/-- Fails a command whose handle fails its checks. -/
def handleFails (s : State) (f : Ref) (h : W32) (st : Status) : Result := fails (misuse s f.p h st) f st

/-- The parameter block a command was given. -/
def Taken.block (t : Taken) : Bytes := padTo (Entry.plen t.head) (t.param.getD [])

/-- The handles of FW_LOAD's parameter block. -/
def packageHandles (t : Taken) : List W32 := (chunks 4 (Entry.plen t.head / 4) (Taken.block t)).map dwOf

/-- The handles a command names: BUF_COPY and LAYOUT_LOAD in a0, FW_LOAD in its parameter block. -/
def namedHandles (t : Taken) : List W32 :=
  if Entry.opcode t.head = 0x1A ∨ Entry.opcode t.head = 0x3A then [Entry.a t.head 0]
  else if Entry.opcode t.head = 0x41 then packageHandles t
  else []

/-- A buffer is in use by a BUF_COPY, FW_LOAD or LAYOUT_LOAD in flight: taken before the free and not complete (R194). -/
def bufInUse (s : State) (p : Port) (h : W32) (ord : Nat) : Bool :=
  (s.ring p 0).taken.any fun t =>
    !t.done && t.stage != .finished && t.stage != .refetch && t.stage != .dropped && decide (t.ord < ord) &&
    (namedHandles t).any fun g => handleIndex g == handleIndex h

/-- BUF_FREE (R194): pending free at PREP, once no command uses the buffer. -/
def execBufFree (p : Port) (i : Nat) (s : State) : Result :=
  match mgmtVisit s p i 0x19 with
  | none => .next s
  | some (f, t) =>
    let h := Entry.a t.head 0
    let st := handleCheck s p h
    if st ≠ Status.success then handleFails s f h st
    else if bufInUse s p h t.ord then .next s
    else .next (setStage (addPriv (setBuf s (handleIndex h) (.freeing p)) (.bufFree f (handleIndex h))) f .exec)

/-- Address of a byte of a buffer in the staging region. -/
def bufAddr (idx off : Nat) : Nat := idx * 16384 + off

/-- The fields of BUF_COPY that are out of range (R182, R194). -/
def copyCheck (e : Entry) : Status :=
  let off := (Entry.a e 1).toNat
  let len := (Entry.a e 2).toNat
  if off % 64 ≠ 0 ∨ len % 64 ≠ 0 ∨ len < 64 ∨ 16384 < len then Status.badField
  else if (Entry.a e 3).toNat % 64 ≠ 0 then Status.badAlign
  else if 16384 < off + len then Status.badLength
  else Status.success

def copyAddr (e : Entry) : Nat := (Entry.a e 3).toNat + (Entry.a e 4).toNat * 2 ^ 32

/-- A visit of a BUF_COPY of a direction, its fields and handle checked. -/
def copyVisit (s : State) (p : Port) (i : Nat) (out : Bool) : Option (Ref × Taken) :=
  match mgmtVisit s p i 0x1A with
  | some (f, t) => if (Entry.arg t.head).getLsbD 0 = out then some (f, t) else none
  | none => none

/-- BUF_COPY host to buffer: the host read is planned; when its data is there, it lands in the buffer. -/
def execBufCopyHostToBuffer (p : Port) (i : Nat) (s : State) : Result :=
  let f : Ref := { p := p, r := 0, i := i }
  match copyVisit s p i false, s.taken? f with
  | some (f, t), _ =>
    let st := copyCheck t.head
    let h := Entry.a t.head 0
    if st ≠ Status.success then fails s f st
    else if handleCheck s p h ≠ Status.success then handleFails s f h (handleCheck s p h)
    else .next (setStage s f .hostData)
  | none, some t =>
    if Entry.opcode t.head = 0x1A ∧ t.stage = .exec ∧ s.clock.phase = .plan ∧ ¬ (Entry.arg t.head).getLsbD 0 then
      let a := bufAddr (handleIndex (Entry.a t.head 0)) (Entry.a t.head 1).toNat
      let bs := padTo (Entry.a t.head 2).toNat t.data
      done { s with staging := { s.staging with mem := Memory.write s.staging.mem a bs } } f []
    else .next s
  | none, none => .next s

/-- BUF_COPY buffer to host: the bytes go out at the commit point, before the reply. -/
def execBufCopyBufferToHost (p : Port) (i : Nat) (s : State) : Result :=
  match copyVisit s p i true with
  | none => .next s
  | some (f, t) =>
    let st := copyCheck t.head
    let h := Entry.a t.head 0
    if st ≠ Status.success then fails s f st
    else if handleCheck s p h ≠ Status.success then handleFails s f h (handleCheck s p h)
    else
      let bs := Memory.read s.staging.mem (bufAddr (handleIndex h) (Entry.a t.head 1).toNat) (Entry.a t.head 2).toNat
      done (addOrder s (.host p { kind := .data, addr := copyAddr t.head, data := bs })) f []

/-! ## CACHE_MAINT (08 R250 to R253) -/

def maintVol (e : Entry) : VolN := sixtyFour (field (Entry.a e 0) 0 6)
def maintLbn (e : Entry) : Nat := (Entry.a e 1).toNat + field (Entry.a e 2) 0 4 * 2 ^ 32
def maintCount (e : Entry) : Nat := (Entry.a e 3).toNat

/-- The range of subops 1 to 3 (R250). -/
def rangeCheck (s : State) (e : Entry) : Status :=
  match volOf s (maintVol e) with
  | none => Status.badVolume
  | some x => if x.size < maintLbn e + maintCount e then Status.badRange else Status.success

/-- Unretired records that name a block of the array address range [lo, hi). -/
def recsIn (s : State) (lo hi : Nat) : List Nat :=
  (s.jnl.recs.filter fun r => r.names && decide (recAddr s r < hi) && decide (lo < recAddr s r + r.count)).map (·.seq)

/-- Waits for the retirement of records, which are destaged in class 1 from now on; with none it is done at once. -/
def cleanRecs (s : State) (f : Ref) (seqs : List Nat) : State :=
  let s := s.modTaken f fun t => { t with seqs := seqs, stage := .destage }
  match s.taken? f with
  | some t => finishOne s f t
  | none => s

def cleanRange (s : State) (f : Ref) (e : Entry) : Result :=
  let st := rangeCheck s e
  if st ≠ Status.success then fails s f st
  else
    let lo := volBase s (maintVol e) + maintLbn e
    .next (cleanRecs s f (recsIn s lo (lo + maintCount e)))

def execCacheMaintCleanRange (p : Port) (i : Nat) (s : State) : Result :=
  match subVisit s p i 0x1B 1 with
  | some (f, t) => cleanRange s f t.head
  | none => .next s

def execCacheMaintInvalidateRange (p : Port) (i : Nat) (s : State) : Result :=
  match subVisit s p i 0x1B 2 with
  | some (f, t) =>
    let st := rangeCheck s t.head
    if st ≠ Status.success then fails s f st else .next (planAct s f .invalidate)
  | none => .next s

def execCacheMaintCleanInvalidateRange (p : Port) (i : Nat) (s : State) : Result :=
  match subVisit s p i 0x1B 3 with
  | some (f, t) => cleanRange s f t.head
  | none => .next s

/-- Subops 4 and 5: a set above 1023 or a way above 15 cannot be encoded (R250). -/
def execCacheMaintCleanSetWay (p : Port) (i : Nat) (s : State) : Result :=
  match subVisit s p i 0x1B 4 with
  | some (f, t) =>
    let set := field (Entry.a t.head 0) 0 10
    let way := field (Entry.a t.head 0) 16 4
    let ls := s.cache.lines.filter fun x => x.set == set && x.way == way && x.sd != 0
    let seqs := (ls.flatMap fun x => match areaAddr s x.pos x.d with
      | some a => recsIn s a (a + 1)
      | none => []).eraseDups
    .next (cleanRecs s f seqs)
  | none => .next s

def execCacheMaintInvalidateSetWay (p : Port) (i : Nat) (s : State) : Result :=
  match subVisit s p i 0x1B 5 with
  | some (f, _) => .next (planAct s f .invalidate)
  | none => .next s

/-- Subop 6 acts at the start of the next Intake phase (R252). -/
def execCacheMaintInvalidatePrefetch (p : Port) (i : Nat) (s : State) : Result :=
  match subVisit s p i 0x1B 6 with
  | some (f, _) => .next (s.modTaken f fun t => { t with stage := .exec, frame := s.clock.frame })
  | none => .next s

/-- Subop 7: CMASK[a0[2:0]] from the next frame on, set at the commit point (R253, Table 8-4). -/
def execCacheMaintSetMask (p : Port) (i : Nat) (s : State) : Result :=
  match subVisit s p i 0x1B 7 with
  | some (f, t) =>
    let c := field (Entry.a t.head 0) 0 3
    if h : c < 6 then
      .next (planAct s f (.setMask ⟨c, h⟩ ((Entry.a t.head 1).extractLsb' 0 16)))
    else fails s f Status.badField
  | none => .next s

/-- The ways retired in this session, since Start (08 R248). -/
def sessionWays (s : State) : Nat := popcount 16 (s.cache.wayRet &&& ~~~s.start.ways)

/-- A way's fourth uncorrectable data error since Start retires it at the commit point (08 R248); once more than 8 are retired
in the session, which is logged, every way that remains stays in service. -/
def execStripeWayRetire (w : Fin 16) (s : State) : Result :=
  if s.clock.phase ≠ .commit ∨ s.clock.cancelled ∨ s.cache.wayErr[w.val] < 4 ∨ s.cache.wayRet.getLsbD w.val ∨
      8 < sessionWays s then .next s
  else
    let s := retireWay s w.val
    .next (if 8 < sessionWays s then publish (logCase s 0 .misc w.val) else s)

/-! ## Shares, identity, AUX and ALARM -/

/-- SHARES_SET (01 R30): the shares must sum to 16. -/
def execSharesSet (p : Port) (i : Nat) (s : State) : Result :=
  match mgmtVisit s p i 0x28 with
  | none => .next s
  | some (f, t) =>
    let w := Entry.a t.head 0
    if field w 0 4 + field w 4 4 + field w 8 4 ≠ 16 then fails s f Status.badShares
    else .next (setStage (addPriv s (.shares f w)) f .exec)

/-- IDENTITY_SET (04 R104). -/
def execIdentitySet (p : Port) (i : Nat) (s : State) : Result :=
  match mgmtVisit s p i 0x4C with
  | some (f, t) => .next (setStage (addPriv s (.identity f (Entry.a t.head 0))) f .exec)
  | none => .next s

/-- Does an AUX function own a pin (R191)? -/
def auxOwns (s : State) (c : Nat) : Bool := s.mode.auxOwn.toList.any fun o => o.toNat == c

def execAuxDriveGpioOut (p : Port) (i : Nat) (s : State) : Result :=
  match subVisit s p i 0x4D 1 with
  | some (f, t) =>
    if ¬ auxOwns s 1 then fails s f Status.conflict
    else
      let level := (Entry.a t.head 0).getLsbD 0
      .next (planAct s f (.gpioOut level))
  | none => .next s

/-- Reads GPIO_IN; `level` is what the pin shows. -/
def execAuxReadGpioIn (p : Port) (i : Nat) (level : Bool) (s : State) : Result :=
  match subVisit s p i 0x4D 2 with
  | some (f, _) =>
    if ¬ auxOwns s 2 then fails s f Status.conflict
    else done (s.modMode fun m => { m with gpioIn := level }) f (leBytes 4 (bit level))
  | none => .next s

/-- The comparator object of a port's own alarms. -/
def alarmObj (p : Port) : Nat := portBit p

/-- ALARM set (02 R56): a comparator at the alarm's rank, or CONFLICT; the delay is at least 1. -/
def setAlarm (s : State) (f : Ref) (t : Taken) (user : BitVec 4) : Result :=
  let delay := (Entry.a t.head 0).toNat
  if delay = 0 then fails s f Status.badField else .next (planAct s f (.setAlarm user delay))

/-- At its commit point the alarm has its comparator, whose target counts from there. -/
def setAlarmAct (s : State) (f : Ref) (user : BitVec 4) (delay : Nat) : State :=
  match takeAcmp s user (some (s.clock.rtc + delay)) (alarmObj f.p) with
  | some (n, s) => finishEntry s f Status.success (leBytes 4 n)
  | none => failEntry s f Status.conflict

/-- ALARM cancel at its commit point: the comparator is released; its number is the reply. DESIGN CHOICE (log entry 68):
where the port has no such alarm it succeeds with number 0. -/
def cancelAlarmAct (s : State) (f : Ref) (user : BitVec 4) : State :=
  let n := acmpOf s user (alarmObj f.p)
  finishEntry (dropAcmp s fun a => a.user == user && a.obj == alarmObj f.p) f Status.success (leBytes 4 (n.getD 0))

def execAlarmSetHost (p : Port) (i : Nat) (s : State) : Result :=
  match subVisit s p i 0x4E 1 with
  | some (f, t) => setAlarm s f t 5
  | none => .next s
def execAlarmCancelHost (p : Port) (i : Nat) (s : State) : Result :=
  match subVisit s p i 0x4E 2 with
  | some (f, _) => .next (planAct s f (.cancelAlarm 5))
  | none => .next s
def execAlarmSetWake (p : Port) (i : Nat) (s : State) : Result :=
  match subVisit s p i 0x4E 3 with
  | some (f, t) => setAlarm s f t 4
  | none => .next s
def execAlarmCancelWake (p : Port) (i : Nat) (s : State) : Result :=
  match subVisit s p i 0x4E 4 with
  | some (f, _) => .next (planAct s f (.cancelAlarm 4))
  | none => .next s

end Sys2Proof.Machine
end

