-- ==== Sys2Proof/Machine/Ports.lean ====
section
/-! DEFINITION. Host ports (04): resets, link and power states, latency tolerance, interrupt messages, port errors and the
containment state machine. -/
namespace Sys2Proof.Machine

/-! ## What a port has in flight -/

/-- An entry of which an order that is not taken back is in flight or complete (R122, R123): a write-class order of it is
committed, its journal commit is on its way, or it has its status. Any other is rolled back. -/
def underWay (t : Taken) : Bool := t.committed || t.stage == .journal || t.stage == .finished

/-- The entry a privileged action belongs to. -/
def privRef : PrivAct → Option Ref
  | .bufAlloc f _ | .bufFree f _ | .grant f _ _ _ | .identity f _ | .attach f _ | .detach f _ | .credSet f _ _
  | .shares f _ | .split f _ | .replace f _ _ => some f
  | .superblock e => match e with
    | .reply f | .volumeCreate f .. | .volumeDelete f _ | .rekeyStart f .. | .creds f .. | .arrayCreate f _ | .adopt f .. => some f
    | _ => none
  | .engineFree .. | .hlthCfg _ | .handover => none

/-- An action that is withdrawn: a buffer goes back where it was. -/
def privDropped (s : State) (a : PrivAct) : State :=
  match a with
  | .bufAlloc _ idx => freeBuf s idx
  | .bufFree f idx => setBuf s idx (.held f.p)
  | _ => s

/-- Has the entry an order of its port in flight? Device-wide operations are not orders of the port. -/
def portOrder? (t : Taken) : Bool :=
  !t.done && match t.stage with
    | .exec | .journal => true
    | .param | .hostData | .reads | .engine _ | .room => true
    | _ => false

/-- No order of the port is in flight (R118, R122). -/
def portQuiet (q : PortSt) : Bool :=
  readsOut q == 0 && q.rings.toList.all fun x => x.polling.isNone && x.taken.all fun t => !portOrder? t

/-- Nothing but host-memory writes remains of the entries a contained port had taken (R122). -/
def containedQuiet (q : PortSt) : Bool := q.rings.toList.all fun x => x.taken.all fun t => !portOrder? t

/-- Orders of entries that satisfy `f` are cancelled: reads still under way bring nothing. -/
def cancelItems (s : State) (f : Ref → Bool) : State :=
  let cut : MOrder → MOrder := fun o => match o.owner with
    | .item r _ => if f r then { o with owner := .none } else o
    | _ => o
  { s with morders := s.morders.map cut,
           gate := { s.gate with orders := s.gate.orders.map fun o => match o with
             | .member o => .member (cut o)
             | _ => o } }

/-- What entries that are rolled back or reset had asked of the whole device and is not committed is withdrawn: privileged
actions, a planned transition, a program load, a swap before its superblock writes, a release of the other port. -/
def withdraw (s : State) (f : Ref → Bool) : State :=
  let mine : Priv → Bool := fun a => match privRef a.act with
    | some r => f r
    | none => false
  let gone := s.gate.priv.filter mine
  let s := { s with gate := { s.gate with priv := s.gate.priv.filter fun a => !mine a } }
  let s := gone.foldl (fun s a => privDropped s a.act) s
  let byRef : Option Ref → Bool := fun r => match r with
    | some r => f r
    | none => false
  let s := match s.mode.plan with
    | some m => if byRef m.ref then s.modMode fun x => { x with plan := none, pend := false } else s
    | none => s
  let s := match s.seq.load with
    | some (_, r) => if f r then { s with seq := { s.seq with load := none } } else s
    | none => s
  let s := match s.seq.swap with
    | some w => if f w.ref then { s with seq := { s.seq with swap := none, hold := false } } else s
    | none => s
  bothPorts.foldl (fun s p => match (s.port p).relReq with
    | some (_, r) => if byRef r then s.modPort p fun q => { q with relReq := none } else s
    | none => s) s

/-- A confirm window whose command is gone closes. -/
def closeWindow (s : State) (f : Ref → Bool) : State :=
  match s.sec.cwin with
  | some w => if f w.ref then dropAcmp (s.modSec fun c => { c with cwin := none }) (fun a => a.user == 2) else s
  | none => s

/-! ## Containment (R121 to R130) -/

/-- An entry that is not done at the entry into FREEZE is rolled back, to be fetched again (R123). -/
def rollBack (x : Ring) (t : Taken) : Taken :=
  if t.done ∨ t.stage = .dropped ∨ underWay t then t
  else { t with stage := if x.state = .resetting then .dropped else .refetch, param := none, data := [], items := [],
                seqs := [], status := 0, reply := [], pressed := false, issued := none }

/-- A ring at the entry into FREEZE: its known entries are discarded (05 R144), its unfinished ones rolled back; a reset of
it under way discards them instead (05 R155). -/
def containRing (x : Ring) : Ring :=
  { x with known := [], polling := none, badCheck := none, poisonOnce := false, taken := x.taken.map (rollBack x) }

/-- The record of a containment: the cause and the header AER logs (13 Table 13-5). -/
def containRecord (p : Port) (cause : Nat) (hdr : List W32) (adds : Nat) : LogRec :=
  { LogRec.base 0x020 2 2 with
    src := BitVec.ofNat 3 (portSrc p), adds := adds,
    payload := cause :: ((List.range 4).map fun i => (hdr.getD i 0).toNat) }

/-- Containment (R122, R123): FREEZE in hardware, or, in FREEZE or HOLD, an addition to the first cause's record
(R126). -/
def contain (s : State) (p : Port) (cause : Nat) (hdr : List W32) : State :=
  if (s.port p).cstate ≠ .run then s.raise (containRecord p cause hdr 1)
  else
    let back : Ref → Bool := fun f => f.p == p && match s.taken? f with
      | some t => !underWay t
      | none => false
    let s := withdraw (cancelItems s back) back
    let s := closeWindow s back
    let s := s.modPort p fun q =>
      { q with cstate := .freeze, ccause := BitVec.ofNat 8 cause, ccount := satInc q.ccount, reads := [],
               contFrame := s.clock.frame, quietAt := none, rings := q.rings.map containRing }
    s.raise (containRecord p cause hdr 0)

def corBit : CorErr → Nat
  | .receiver => 0 | .badTlp => 6 | .badDllp => 7 | .rollover => 8 | .replayTimer => 12 | .internal => 14

/-- Table 4-10: the AER bit of an error, and the containment cause where it contains the port. -/
def uncorBit : PortErr → Nat × Option Nat
  | .correctable _ | .prefetchParity _ _ => (0, none)
  | .unsupportedSent => (20, none)
  | .unexpectedCompletion => (16, none)
  | .dataLink => (4, some 0x01)
  | .flowControl => (13, some 0x03)
  | .receiverOverflow => (17, some 0x05)
  | .malformedTlp => (18, some 0x06)
  | .ecrc => (19, some 0x07)
  | .poisonedWrite => (12, some 0x08)
  | .internal => (22, some 0x09)

/-- An uncorrectable error that contains the port: it is logged, and, once contained, the port sends no message (Table
4-11). -/
def fatalError (s : State) (p : Port) (bitNo cause : Nat) (hdr : List W32) : State :=
  let s := contain (aerUncor s p bitNo hdr) p cause hdr
  reportUncor s p bitNo

/-- A parity error on the `n`th known entry of a ring's prefetch buffer: the entry is discarded and fetched again, and so
are those known after it, as a window begins after the last known entry (05 R141, R144, log entry 60). What a poll of the
ring under way brings is dropped. -/
def dropFrom (q : PortSt) (r : RingN) (n : Nat) : PortSt :=
  let x := q.ring r
  if x.known.length ≤ n then q
  else
    { q.setRing r { x with known := x.known.take n, polling := none } with
             reads := q.reads.filter fun y => !(y.owner == .poll r && y.tag.isNone) }

/-- PORT_ERROR (R121): `header` is the TLP's header, and its prefixes after it. A parity error of the prefetch buffer is an
error of the block's own, seen where entries are taken, and needs no link. -/
def execPortError (p : Port) (e : PortErr) (header : List W32) (s : State) : Result :=
  match e with
  | .prefetchParity r n => .next (if observes s then s.modPort p fun q => dropFrom q r n else s)
  | e =>
    if ¬ linkLive s p then .next s
    else match e with
    | .correctable c => .next (aerCorrect s p (corBit c))
    | .unsupportedSent => .next (unsupportedSent s p)
    | e => match (uncorBit e).2 with
      | some c => .next (fatalError s p (uncorBit e).1 c header)
      | none => .next (reportUncor (aerUncor s p (uncorBit e).1 header) p (uncorBit e).1)

/-- The link leaves DL_Active: it has no speed, width or link power state (R101). -/
def linkDown (q : PortSt) : PortSt :=
  { q with linkUp := false, linkSpeed := 0, linkWidth := 0, l1 := false, l11 := false, l12 := false }

/-- SURPRISE_LINK_DOWN (R121): cause 0x02; AER logs no header. -/
def execSurpriseLinkDown (p : Port) (s : State) : Result :=
  if ¬ linkLive s p then .next s
  else .next ((fatalError s p 5 0x02 []).modPort p linkDown)

/-- COMPLETION_TIMEOUT (R106, R121). -/
def execCompletionTimeout (p : Port) (s : State) : Result :=
  if ¬ linkLive s p ∨ readsOut (s.port p) = 0 then .next s
  else .next (fatalError s p 14 0x04 [])

/-- Can a privileged order be released at this commit point (12 R385)? -/
def gateOpen (s : State) : Bool :=
  s.clock.phase == .commit && s.cx.holder.isSome && decide (s.clock.frame ≤ s.cx.expiry)

/-- An earlier frame's Intake phase found no order of the contained port in flight (R122). -/
def quietSince (q : PortSt) (frame : Nat) : Bool :=
  match q.quietAt with
  | some g => decide (g < frame)
  | none => false

/-- CONTAINMENT_HOLD (R122, R123): at the commit point of the frame after that in which no order in flight is observed;
PORT_CONTAINED goes to the other port, whose cause ignores coalescing. -/
def execContainmentHold (p : Port) (s : State) : Result :=
  let q := s.port p
  if q.cstate ≠ .freeze ∨ ¬ containedQuiet q ∨ ¬ gateOpen s ∨ ¬ quietSince q s.clock.frame then .next s
  else
    let s := s.modPort p fun q => { q with cstate := .hold }
    let o := otherPort p
    .next (publish (if portEnabled s o ∧ (s.port o).cstate = .run then
        postEvent s o (Event.base s 0x0011 (q.ccause.setWidth 32)) else s))

/-- Is the withheld write an interrupt message? -/
def HostWrite.isMessage (w : HostWrite) : Bool := w.kind == .message

/-- Withheld event entries come after the heads (R125). -/
def HostWrite.isEvent (w : HostWrite) : Bool := w.kind == .event

def sendAll (s : State) (p : Port) (ws : List HostWrite) : State := ws.foldl (fun s w => sendHost s p w) s

/-- An entry a reset under way had discarded, whose ring is frozen before the reset: it is fetched again. -/
def undrop (t : Taken) : Taken := if t.stage = .dropped then { t with stage := .refetch } else t

/-- Steps 2 and 3 of R125 for one ring: the head goes up to the last done entry, and the ring is frozen there with
PORT_CONTAINED unless it was frozen; the head record carries both. A reset under way ends with it. -/
def containFreeze (p : Port) (s : State) (r : RingN) : State :=
  let st := (s.ring p r).state
  if st ≠ .run ∧ st ≠ .resetting then s
  else
    let s := s.modRing p r fun x => let x := Ring.advance x; { x with taken := x.taken.map undrop, deleting := false }
    freezeRing s p r Status.portContained (Ring.headIdx (s.ring p r)) 0 0

def vecMasked (q : PortSt) (v : VecN) : Bool := q.msix[v.val].masked || q.cfg.funcMask

def vecBit (v : VecN) : W32 := BitVec.ofNat 32 (2 ^ v.val)

/-- A withheld message at release, where its cause still stands (R130): it is sent while MSI-X is enabled and its vector
unmasked; masked, it is pending in the PBA (R114), and without MSI-X its vector is due in INT_STAT (R113). -/
def sendMessage (p : Port) (s : State) (w : HostWrite) : State :=
  match w.vec with
  | none => sendHost s p w
  | some v =>
    let q := s.port p
    if ¬ q.cfg.msixEn then s.modPort p fun q => { q with intStat := q.intStat ||| vecBit v }
    else if vecMasked q v then s.modPort p fun q => { q with pba := q.pba ||| vecBit v }
    else sendHost s p w

/-- Assert_INTA and Deassert_INTA (R113); no message is sent during Start (03 R78). -/
def updateIntx (s : State) (p : Port) : State :=
  let q := s.port p
  let want := !q.cfg.msixEn && (q.intStat &&& ~~~q.intMask) != 0 && !q.cfg.intxDis
  if ¬ portEnabled s p ∨ ¬ q.linkUp ∨ q.crs ∨ q.cstate ≠ .run ∨ s.mode.mode = .start ∨ want = q.intx then s
  else
    let f := s.clock.frame
    (s.emit (.intx p want)).modPort p fun q => { sendsTlp f q with intx := want }

/-- The request a release answers: PORT_RELEASE succeeds with it. -/
def finishRelease (s : State) (req : Option (Nat × Option Ref)) : State :=
  match req with
  | some (_, some f) => finishEntry s f Status.success []
  | _ => s

/-- CONTAINMENT_RELEASE (R122, R125): RELEASE and RUN at one commit point. -/
def execContainmentRelease (p : Port) (s : State) : Result :=
  let q := s.port p
  match q.relReq with
  | none => .next s
  | some (f, _) =>
    if q.cstate ≠ .hold ∨ ¬ gateOpen s ∨ s.clock.frame ≤ f then .next s
    else
      let held := q.withheld
      let s := s.modPort p fun q => { q with cstate := .run, withheld := [], relReq := none }
      let s := sendAll s p (held.filter fun w => !w.isEvent && !w.isMessage)
      let s := allRings.foldl (containFreeze p) s
      let s := allRings.foldl (fun s r => publishHead s p r) s
      let s := sendAll s p (held.filter HostWrite.isEvent)
      let s := postEvent s p (Event.base s 0x0012 ((s.port p).ccause.setWidth 32))
      let s := s.modPort p fun q => raiseCause q 0 s.clock.frame false
      let s := publish (finishRelease s q.relReq)
      .next (updateIntx ((held.filter HostWrite.isMessage).foldl (sendMessage p) s) p)

/-- PORT_RELEASE (R124, R127): the other port's release is requested; the reply comes with it. Where that port's own
PORT_REL asks for it in the same frame, the port the frame's order puts first performs the release, and a PORT_REL that
comes second is refused. -/
def execPortRelease (p : Port) (i : Nat) (s : State) : Result :=
  match mgmtVisit s p i 0x15 with
  | none => .next s
  | some (f, t) =>
    let q : Port := if (Entry.arg t.head).getLsbD 0 then .b else .a
    if s.mode.mode = .freeze ∨ s.mode.mode = .lockdown then fails s f Status.badMode
    else if ¬ portEnabled s q ∨ (s.port q).cstate ≠ .hold ∨ ¬ (s.port q).linkUp then fails s f Status.conflict
    else match (s.port q).relReq with
      | none => .next (setStage (s.modPort q fun q => { q with relReq := some (s.clock.frame, some f) }) f .exec)
      | some (g, none) =>
        if g = s.clock.frame ∧ (portOrder g).head? = some p then
          .next (setStage (addWrej (s.modPort q fun q => { q with relReq := some (g, some f) }) q .port) f .exec)
        else fails s f Status.conflict
      | some _ => fails s f Status.conflict

/-! ## Resets (R119, R120, R128) -/

/-- Configuration space at its reset values, with the subsystem IDs of this Start (R104); AER's writable fields are sticky
and stay (Table 4-9). -/
def CfgSpace.reset (c : CfgSpace) : CfgSpace :=
  { CfgSpace.init c.subVendor c.subId with
    uncMask := c.uncMask, uncSev := c.uncSev, corMask := c.corMask, ecrcGen := c.ecrcGen, ecrcChk := c.ecrcChk }

/-- After an FLR the fields of the link stay too (Table 4-9: only function-level fields are reset; log entry 12). -/
def CfgSpace.afterFlr (c : CfgSpace) : CfgSpace :=
  { c.reset with mps := c.mps, aspmL1 := c.aspmL1, l11En := c.l11En, l12En := c.l12En, l12Thr := c.l12Thr }

/-- A port after a reset (Table 4-9): rings, INTR, MSI-X, PORT_ORD and PORT_PWR at their reset values, containment ended,
withheld writes discarded; sticky AER bits, the last containment's cause, count and frame, and the votes stay. -/
def PortSt.afterReset (q : PortSt) : PortSt :=
  { PortSt.init with
    phy := q.phy, perst := q.perst, linkUp := q.linkUp, refclk := q.refclk, linkSpeed := q.linkSpeed,
    linkWidth := q.linkWidth, l1 := q.l1, l11 := q.l11, l12 := q.l12,
    cfg := q.cfg.reset, aerUnc := q.aerUnc, aerCor := q.aerCor, aerHdr := q.aerHdr, aerPfx := q.aerPfx,
    firstErr := q.firstErr, ccause := q.ccause,
    ccount := q.ccount, contFrame := q.contFrame, wrej := q.wrej, vote := q.vote, misuse := q.misuse,
    ltrFrame := q.ltrFrame, busyFrame := q.busyFrame, lastTlp := q.lastTlp, intx := q.intx }

/-- Is an order of the frame one that a reset of port p withdraws: its host-memory requests, and writes to its private
registers? -/
def resetDrops (p : Port) : Order → Bool
  | .host q _ => q == p
  | .reg q off _ => q == p && (decide (off < 0x100) || (decide (0x1000 ≤ off) && decide (off < 0x4000)))
  | .wrej q b => q == p && (b == .port || b == .qreg)
  | .d0 q => q == p
  | _ => false

/-- A host's write that still waits for its Intake phase: the reset comes first. -/
def lateOf (p : Port) : HostAct → Bool
  | .reg q .. => q == p
  | .power q _ => q == p

def ownsPortBuf (p : Port) : BufOwner → Bool
  | .taken q | .held q | .freeing q => q == p
  | _ => false

/-- Is it a buffer action of the port? The buffers go with the reset. -/
def portBufAct (p : Port) : PrivAct → Bool
  | .bufAlloc f _ | .bufFree f _ => f.p == p
  | _ => false

/-- A reset's part in the privileged actions of the port's commands: those whose PREP is released complete internally; the
others are withdrawn. -/
def resetPrivs (s : State) (p : Port) : List Priv :=
  s.gate.priv.filterMap fun a => match privRef a.act with
    | none => some a
    | some f =>
      if f.p ≠ p then some a
      else if portBufAct p a.act ∨ ¬ ((s.taken? f).map (·.committed)).getD false then none
      else some { a with orphan := true }

/-- The reset port's containment ends without a release (R128): a PORT_RELEASE that waited for it fails with CONFLICT, since
the port is no longer in HOLD (R124). -/
def dropRelease (s : State) (p : Port) : State :=
  match (s.port p).relReq with
  | some (_, some f) => if f.p = p then s else failEntry s f Status.conflict
  | _ => s

/-- The effects of a port reset that do not depend on its kind (R119): orders already released complete, and nothing of
them reaches the host. -/
def portReset (s : State) (p : Port) : State :=
  let mine : Ref → Bool := fun f => f.p == p
  let begun : Ref → Bool := fun f => mine f && !((s.taken? f).map (·.committed)).getD false
  let s := cancelItems s mine
  let s := closeWindow s mine
  let s := { s with gate := { s.gate with orders := s.gate.orders.filter fun o => !resetDrops p o,
                                          late := s.gate.late.filter fun a => !lateOf p a,
                                          priv := resetPrivs s p } }
  let s := freeBufs (withdraw s begun) (ownsPortBuf p)
  (dropRelease s p).modPort p PortSt.afterReset

/-- PERST_ASSERT (R119): the link is down until PERST# deasserts. -/
def execPerstAssert (p : Port) (s : State) : Result :=
  if ¬ portEnabled s p ∨ (s.port p).perst then .next s
  else .next ((portReset s p).modPort p fun q => { linkDown q with perst := true, refclk := false, intx := false })

/-- PERST_DEASSERT (R100): the clock choice; in Drowse it wakes the device (02 R48). -/
def execPerstDeassert (p : Port) (clockSeen : Bool) (s : State) : Result :=
  if ¬ portEnabled s p ∨ ¬ (s.port p).perst then .next s
  else .next (wakeDrowse (s.modPort p fun q => { q with perst := false, refclk := clockSeen }) (portSrc p))

/-- HOT_RESET (R119): the link retrains. -/
def execHotReset (p : Port) (s : State) : Result :=
  if ¬ linkLive s p then .next s
  else .next ((portReset s p).modPort p fun q => { linkDown q with intx := false })

/-- FLR (R119, R120): configuration requests get Retry Status until it completes. -/
def execFlr (p : Port) (s : State) : Result :=
  if ¬ linkLive s p ∨ (s.port p).crs then .next s
  else
    let c := (s.port p).cfg.afterFlr
    .next ((portReset s p).modPort p fun q => { q with crs := true, cfg := c })

/-- FLR_COMPLETE (R120). -/
def execFlrComplete (p : Port) (s : State) : Result :=
  if ¬ (s.port p).crs then .next s else .next (s.modPort p fun q => { q with crs := false })

/-! ## Link and power states -/

/-- LINK_UP (R78, R99 to R101): the data link layer reaches DL_Active at the speed and width the link negotiated, 2.5 to
16.0 GT/s and at most the port's lanes. -/
def execLinkUp (x : Trained) (s : State) : Result :=
  let q := s.port x.p
  if ¬ portEnabled s x.p ∨ ¬ q.phy ∨ q.perst ∨ q.linkUp then .next s
  else .next (s.modPort x.p fun q =>
    { q with linkUp := true, linkSpeed := BitVec.ofNat 4 (min 4 (max 1 x.speed)),
             linkWidth := BitVec.ofNat 6 (min (portLanes s) (max 1 x.width)) })

/-- BUS_MASTER_ENABLE (R465): configuration space takes it at once; an Intake phase observes it set, the running one or the
next, and from then on the port originates requests. -/
def execBusMasterEnable (p : Port) (set : Bool) (s : State) : Result :=
  if ¬ configOpen s p then .next s
  else
    let f := if s.clock.phase = .intake then s.clock.frame else s.clock.frame + 1
    .next (s.modPort p fun q =>
      { sawTlp s.clock.frame q with
        cfg := { q.cfg with bme := set },
        bmeSince := if ¬ set then none else if q.cfg.bme then q.bmeSince else some f })

/-- A PowerState write is observed (R118): D3hot waits for its entry; D0 takes effect at the commit point (00 R8). DESIGN
CHOICE (log entry 67): D0 written while a D3hot write still waits cancels it. -/
def observePower (s : State) (p : Port) (d3 : Bool) : State :=
  let q := s.port p
  if d3 then (if q.d3 then s else s.modPort p fun q => { q with d3Pend := true })
  else
    let s := s.modPort p fun q => { q with d3Pend := false }
    if q.d3 then addOrder s (.d0 p) else s

/-- A PowerState write: observed in the Intake phase that runs, or in the next one (00 R8). -/
def writePower (s : State) (p : Port) (d3 : Bool) : State :=
  if ¬ configOpen s p then s
  else
    let s := s.modPort p (sawTlp s.clock.frame)
    if intakePast s then addLate s (.power p d3) else observePower s p d3

/-- D3HOT_WRITE (R118). -/
def execD3hotWrite (p : Port) (s : State) : Result := .next (writePower s p true)

/-- D3HOT_ENTRY (R118): at a commit point; the link enters PCI-PM L1. -/
def execD3hotEntry (p : Port) (s : State) : Result :=
  let q := s.port p
  if s.clock.phase ≠ .commit ∨ ¬ q.d3Pend ∨ ¬ portQuiet q then .next s
  else .next (s.modPort p fun q => { q with d3 := true, d3Pend := false, l1 := true, l11 := false, l12 := false })

/-- D0_RETURN (R118): a write of PowerState D0. -/
def execD0Return (p : Port) (s : State) : Result := .next (writePower s p false)

/-- A poll of the port is due within the next 32 frames (R117), in Drowse also one of R140. -/
def pollSoon (s : State) (p : Port) : Bool :=
  let every := max 64 (field (s.port p).qback 20 12)
  let since := s.clock.frame - s.mode.drowseFrame
  allRings.any fun r =>
    let x := s.ring p r
    x.state == .run &&
      ((servesRing s r && decide (x.nextPoll ≤ s.clock.frame + 32)) ||
       (s.mode.mode == .drowse && decide (every - since % every ≤ 32)))

/-- No TLP has passed for PORT_PWR.idle frames (R117). -/
def linkIdle (q : PortSt) (frame : Nat) : Bool :=
  match q.lastTlp with
  | some f => decide (f + q.pwrIdle.toNat ≤ frame)
  | none => true

/-- ASPM_L1_REQUEST (R117). -/
def execAspmL1Request (p : Port) (s : State) : Result :=
  let q := s.port p
  if ¬ linkLive s p ∨ ¬ q.cfg.aspmL1 ∨ q.l1 ∨ !q.reads.isEmpty ∨ q.cstate ≠ .run ∨ pollSoon s p ∨
      ¬ linkIdle q s.clock.frame then .next s
  else .next ((s.emit (.l1Request p)).modPort p fun q => { q with l1 := true })

/-- Latency value and scale of a level (Table 4-8). -/
def ltrCode (l : BitVec 2) : Nat × Nat := if l = 1 then (10, 2) else if l = 2 then (1, 4) else (3, 4)

/-- Does the LTR level sent exceed LTR_L1.2_THRESHOLD (R117)? A level never sent exceeds none. -/
def ltrExceeds (q : PortSt) : Bool :=
  q.ltr != 0 && decide ((q.cfg.l12Thr.extractLsb' 0 10).toNat * 32 ^ (q.cfg.l12Thr.extractLsb' 10 3).toNat <
    (ltrCode q.ltr).1 * 32 ^ (ltrCode q.ltr).2)

/-- LINK_L1_2_ENTRY (R117): both ends have deasserted CLKREQ#. Where L1.2 is not open to the port, L1.1 is entered if it is
enabled (R101). -/
def execLinkL12Entry (p : Port) (s : State) : Result :=
  let q := s.port p
  if ¬ linkLive s p ∨ ¬ q.l1 ∨ q.l12 ∨ q.d3 then .next s
  else if q.cfg.l12En ∧ ltrExceeds q then .next (s.modPort p fun q => { q with l11 := false, l12 := true })
  else if q.cfg.l11En then .next (s.modPort p fun q => { q with l11 := true })
  else .next s

/-- LINK_L1_2_EXIT: in Drowse it wakes the device (02 R48). -/
def execLinkL12Exit (p : Port) (s : State) : Result :=
  if ¬ (s.port p).l12 then .next s
  else .next (wakeDrowse (s.modPort p fun q => { q with l1 := false, l11 := false, l12 := false }) (portSrc p))

/-! ## Latency tolerance (R116) -/

/-- Drowse pending or in force. -/
def drowseComing (s : State) : Bool :=
  s.mode.mode == .drowse || match s.mode.plan with
    | some m => m.target == .drowse
    | none => false

/-- Table 4-8: 0 none, 1 Busy, 2 Idle, 3 Drowse. -/
def ltrLevel (s : State) (p : Port) : BitVec 2 :=
  let recent := match (s.port p).busyFrame with
    | some f => decide (s.clock.frame - f < 1024)
    | none => false
  if drowseComing s then 3
  else if isCondition s.mode.mode then (if recent then 1 else 2)
  else if s.mode.mode = .locked ∨ s.mode.mode = .service then 2
  else 0

/-- LTR_MESSAGE (R116): the level has changed, and 64 F have passed since the last message. -/
def execLtrMessage (p : Port) (s : State) : Result :=
  let q := s.port p
  let l := ltrLevel s p
  let spaced : Bool := match q.ltrFrame with
    | some f => decide (f + 64 ≤ s.clock.frame)
    | none => true
  let quiet := s.mode.mode == .start || s.mode.mode == .freeze || s.mode.mode == .lockdown
  if s.clock.phase ≠ .commit ∨ ¬ linkLive s p ∨ ¬ q.cfg.ltrEn ∨ q.cstate ≠ .run ∨ quiet ∨ l = 0 ∨ l = q.ltr ∨ ¬ spaced
  then .next s
  else
    let f := s.clock.frame
    let s := s.emit (.ltr p (ltrCode l).1 (ltrCode l).2 true)
    .next (s.modPort p fun q => { sendsTlp f q with ltr := l, ltrFrame := some f })

/-! ## Interrupts (R112 to R115) -/

/-- A message is due for a vector: its count or its time is met, or an urgent cause stands. -/
def causeDue (q : PortSt) (v : VecN) (frame : Nat) : Bool :=
  let c := q.causes[v.val]
  let k := q.coalNow[v.val]
  c.n != 0 && (c.urgent || decide (max 1 k.count.toNat ≤ c.n) ||
    (k.time != 0 && decide (k.time.toNat ≤ frame - c.first)))

/-- A message is to be sent now: due, or pending in the PBA and unmasked (R114). -/
def messageDue (q : PortSt) (v : VecN) (frame : Nat) : Bool :=
  causeDue q v frame || (q.cfg.msixEn && q.pba.getLsbD v.val && !vecMasked q v)

def clearCauses (q : PortSt) (v : VecN) : PortSt :=
  { q with causes := q.causes.set v.val { n := 0, first := 0, urgent := false } }

/-- The vector's message: an MSI-X write, a PBA bit, or an INT_STAT bit. -/
def sendVector (s : State) (p : Port) (v : VecN) : State :=
  let q := s.port p
  let s := s.modPort p fun q => clearCauses q v
  if ¬ q.cfg.msixEn then updateIntx (s.modPort p fun q => { q with intStat := q.intStat ||| vecBit v }) p
  else if vecMasked q v then s.modPort p fun q => { q with pba := q.pba ||| vecBit v }
  else
    let e := q.msix[v.val]
    let s := s.modPort p fun q => { q with pba := q.pba &&& ~~~vecBit v }
    sendHost s p { kind := .message, addr := e.addr.toNat, data := dwBytes e.data, vec := some v }

/-- INTERRUPT_MESSAGE (R112 to R114); none is sent during Start (03 R78). -/
def execInterruptMessage (p : Port) (vec : VecN) (s : State) : Result :=
  if s.clock.phase ≠ .commit ∨ ¬ portEnabled s p ∨ s.mode.mode = .start ∨ ¬ messageDue (s.port p) vec s.clock.frame
  then .next s
  else .next (sendVector s p vec)

/-! ## Alarms (02 R56, R48) -/

/-- A comparator of the user has matched. -/
def acmpFired (s : State) (user : BitVec 4) (a : Acmp) : Bool :=
  a.user == user && match a.target with
    | some t => decide (t ≤ s.clock.rtc)
    | none => false

/-- Has any? -/
def anyFired (s : State) (user : BitVec 4) : Bool :=
  s.mode.acmp.toList.any fun a => match a with
    | some x => acmpFired s user x
    | none => false

/-- HOST_ALARM: the comparator has matched and is free again; Table 5-6 has no event for it. -/
def execHostAlarm (s : State) : Result :=
  if ¬ anyFired s 5 then .next s else .next (dropAcmp s (acmpFired s 5))

/-- WAKE_ALARM: the same, and it wakes the device from Drowse (02 R48). -/
def execWakeAlarm (s : State) : Result :=
  if ¬ anyFired s 4 then .next s else .next (wakeDrowse (dropAcmp s (acmpFired s 4)) 0)

end Sys2Proof.Machine
end

