-- ==== Sys2Proof/Machine/Volumes.lean ====
section
/-! DEFINITION. Credentials and the retry throttle (11 R340 to R343, 10 R305 to R307), and the commands of arrays and
volumes: UNLOCK, LOCK, CRED_SET, ARRAY_CREATE, VOLUME_CREATE, VOLUME_DELETE, GRANT_SET and KEY_ROTATE (06 R184 to R190, 10
R313 to R327). -/
namespace Sys2Proof.Machine

/-! ## Credential attempts (11 R340 to R343) -/

/-- AMK from the wraps, and whether only the fleet wrap gave it (10 R306). -/
def openWraps (f : Fuses) (a : ArraySt) (cred : Bytes) : Option (Bytes × Bool) :=
  if a.mkeyFormat ≠ 1 then none
  else
    let cd := credDigest f a.uuid cred
    match unwrap 16 (hwk f a.uuid cd) (uuidBytes a.uuid) a.home with
    | some k => some (k, false)
    | none =>
      if a.fleet.all (· == 0) then none
      else (unwrap 16 (flk f a.uuid cd) (uuidBytes a.uuid) a.fleet).map fun k => (k, true)

/-- The wraps of AMK under a credential: home, and fleet unless the fleet seed is zero (10 R305). -/
def homeWrap (f : Fuses) (u : BitVec 128) (cred amk : Bytes) : Bytes :=
  wrap 16 (hwk f u (credDigest f u cred)) (uuidBytes u) amk
def fleetWrap (f : Fuses) (u : BitVec 128) (cred amk : Bytes) : Bytes :=
  if f.fleetSeed.all (· == 0) then zeros 48 else wrap 16 (flk f u (credDigest f u cred)) (uuidBytes u) amk

def setUnlockCount (s : State) (n : Nat) : State := rootWrite s 0x1490 (leBytes 4 n)

/-- Seconds of delay after the failure that leaves the count at n (Table 11-3). -/
def throttleDelay (n : Nat) : Nat := if n < 6 then 0 else if n ≤ 16 then 2 ^ (n - 5) else 3600

/-- Entries of the management rings. -/
def mgmtEntries (s : State) : List (Ref × Taken) :=
  bothPorts.flatMap fun p => (s.ring p 0).taken.map fun t => ({ p := p, r := 0, i := t.i }, t)

/-- An attempt planned before the throttle's comparator fires is refused (R342). -/
def throttled (s : State) : Bool := (acmpOf s 1 0).isSome

/-- Another attempt is being counted or compared, or its command has not ended. DEDUCED (log entry 81): the security
controller makes one attempt at a time, so that each failure's delay holds for the next (R341). -/
def attemptOpen (s : State) (f : Ref) : Bool :=
  (mgmtEntries s).any (fun x => x.1 != f && x.2.counted && !x.2.done && x.2.stage != .finished) ||
  s.gate.orders.any fun o => match o with
    | .act g .countAttempt => g != f
    | _ => false

/-- The attempt is counted at the commit point: n + 1 is written before the comparison, which a later Plan phase makes
(R340, 10 R322); n saturates (R343). -/
def countAct (s : State) (f : Ref) : State :=
  (setUnlockCount s (min 0xFFFF (unlockCount s.root + 1))).modTaken f fun t =>
    { t with counted := true, stage := .waiting }

/-- The throttle starts for the count as it stands. -/
def startThrottle (s : State) : State :=
  let d := throttleDelay (unlockCount s.root)
  if d = 0 then s
  else match takeAcmp s 1 (some (s.clock.rtc + 1024 * d)) 0 with
    | some (_, s) => s
    | none => s

/-- The reply data of UNLOCK (06 Table 6-4): the failed count and the throttle's remaining seconds. -/
def unlockReply (s : State) : Bytes := leBytes 4 (unlockCount s.root) ++ leBytes 4 (throttleSecs s.mode s.clock.rtc)

/-- The reply of a credential command: UNLOCK returns data whatever its status. -/
def attemptReply (s : State) (t : Taken) : Bytes := if Entry.opcode t.head = 0x20 then unlockReply s else []

/-- A failed attempt at the commit point of its reply (R340 to R343): the throttle, which counts from there, the reply, and
tamper source 0x09 at 50 with wipe50. -/
def failedAct (s : State) (f : Ref) (t : Taken) : State :=
  let s := startThrottle s
  let s := finishEntry s f Status.badCredential (attemptReply s t)
  if s.sec.tampCfg.getLsbD 17 ∧ 50 ≤ unlockCount s.root then tamper s .unlockLimit else s

/-- A credential attempt: refused, planned to be counted, made to wait for another, failed, or AMK and how it was found. -/
def attempt (s : State) (f : Ref) (t : Taken) (cred : Bytes) : State × Option (Bytes × Bool) :=
  match s.array with
  | none => (failEntry s f Status.badMode, none)
  | some a =>
    if ¬ t.counted then
      if throttled s then (finishEntry s f Status.throttled (attemptReply s t), none)
      else if attemptOpen s f then (s, none)
      else (planAct s f .countAttempt, none)
    else match openWraps s.fuse a cred with
      | none => (planAct s f .failedAttempt, none)
      | some k => (s, some k)

/-! ## What UNLOCK reads (10 Table 10-3, 11 R344) -/

/-- The top node of a sealed volume against its root (Table 10-3). -/
def checkTop (media : List MediaRead) (s : State) (v : VolN) : State :=
  match volOf s v, treeKeyOf s v with
  | some x, some key =>
    let h := (treeLevels x.size).length
    let r := volRoot s v
    if ¬ x.isSealed ∨ x.stale ∨ r.version = 0 then s
    else match contentNow s media v (nodeLbn s x.size (h - 1) 0) with
      | none => logIntegrity s v.val (nodeLbn s x.size (h - 1) 0) 5 Status.memberRead
      | some d =>
        if nodeMac key (h - 1) 0 r.version d = r.mac then keepNode s v (h - 1) 0 d else markStale s v 4
  | _, _ => s

/-- The root of a sealed volume of an adopted array, from its header (10 R306). -/
def adoptRoot (media : List MediaRead) (s : State) (v : VolN) : State :=
  match volOf s v, treeKeyOf s v with
  | some x, some key =>
    let h := (treeLevels x.size).length
    if ¬ x.isSealed then s
    else match contentNow s media v (headerLbn s x.size) with
      | none => logIntegrity s v.val (headerLbn s x.size) 5 Status.memberRead
      | some hd =>
        let ver := leNat (slice hd 8 8)
        let mac := slice hd 16 8
        let root : VolRoot := { version := ver, mac := mac, commit := s.jnl.commitNo }
        if ver = 0 then writeVolRoot s v root
        else match contentNow s media v (nodeLbn s x.size (h - 1) 0) with
          | none => logIntegrity s v.val (nodeLbn s x.size (h - 1) 0) 5 Status.memberRead
          | some d => if nodeMac key (h - 1) 0 ver d = mac then writeVolRoot s v root else markStale s v 4
  | _, _ => s

/-- The wrap a volume's key is taken from: its vtab entry, but from line state 2 of a rekey on the new wrap, whatever a
superblock still holds (10 R331, R335). -/
def keyWrap (a : ArraySt) (v : VolN) : Bytes :=
  if a.rekey.state = 2 ∧ a.rekey.vol = v then a.rekey.wrap else a.vtab[v.val].wrap

/-- The keys of a volume, unwrapped (10 R305). -/
def volKeysOf (a : ArraySt) (amk : Bytes) (v : VolN) : Option VolKeys :=
  (unwrap 8 (vwk amk a.uuid v) (volCtx a.uuid v) (keyWrap a v)).map (volKeys amk a.uuid v)

/-- The keys of a volume under rekey, unwrapped from the rekey record (10 R327, R332). -/
def shadowKeysOf (a : ArraySt) (amk : Bytes) : Option VolKeys :=
  (unwrap 8 (vwk amk a.uuid a.rekey.vol) (volCtx a.uuid a.rekey.vol) a.rekey.wrap).map
    (volKeys amk a.uuid a.rekey.vol)

/-- Volume keys are unwrapped into the key table (02 R43): every present volume's, and the shadow slot of a rekey. -/
def loadKeys (s : State) (amk : Bytes) : State :=
  match s.array with
  | none => s
  | some a =>
    let keyAt := fun (i : Nat) =>
      (allVols.find? fun v => a.vtab[v.val].present && a.vtab[v.val].key.val == i).bind (volKeysOf a amk)
    let shadowAt := fun (i : Nat) =>
      if a.rekey.state ≠ 0 ∧ a.vtab[a.rekey.vol.val].key.val = i then shadowKeysOf a amk else none
    { s with keys := { s.keys with amk := some amk, staged := none,
                                   prim := Vector.ofFn fun i : Fin 64 => keyAt i.val,
                                   shadow := Vector.ofFn fun i : Fin 64 => shadowAt i.val } }

/-- Length and policy of a system block's plaintext (11 R344). -/
def objectOf (id : Nat) (bs : Bytes) : Option VaultObj :=
  let len := leNat (slice bs 0 4)
  if len = 0 then none else some { id := id, len := len, policy := dwOf (slice bs 4 4) }

/-- One system block as the first UNLOCK reads it: plaintext, or `none` where its tag or its path fails. -/
def sysPlain (s : State) (media : List MediaRead) (size id : Nat) : Option Bytes :=
  match (sealedInfo s 0 size (contentNow s media 0) id).1, blockKeys s 0 id with
  | .counter 0 _, _ => some (zeros blockBytes)
  | .counter c tag, some ks =>
    match contentNow s media 0 id with
    | some bs => if blockTag ks id c bs ≠ tag then none
        else if bs.all (· == 0) then some (zeros blockBytes) else some (xtsDec ks id bs)
    | none => none
  | _, _ => none

/-- The index of the vault, read at the first UNLOCK after a Start (11 R344). -/
def readIndex (s : State) (media : List MediaRead) : List VaultObj :=
  match volOf s 0 with
  | none => []
  | some x => (List.range 4096).filterMap fun id => (sysPlain s media x.size id).bind (objectOf id)

/-- What the device learns from the media at UNLOCK, with the keys in hand. -/
def unlockReads (s : State) (media : List MediaRead) (amk : Bytes) : State :=
  let keys := s.keys
  let s := allVols.foldl (checkTop media) (loadKeys s amk)
  let s := if s.vault.loaded then s else { s with vault := { index := readIndex s media, loaded := true } }
  { s with keys := { keys with staged := some amk } }

/-- At an adoption the roots come from the headers first (10 R306); they reach the root store with the adoption. -/
def adoptReads (s : State) (media : List MediaRead) (amk : Bytes) : List (VolN × Nat × Bytes) × State :=
  let t := allVols.foldl (adoptRoot media) (loadKeys s amk)
  let roots := (allVols.filter fun v => rootBankNow t v != rootBankNow s v).map fun v =>
    (v, (volRoot t v).version, (volRoot t v).mac)
  let t := unlockReads { t with keys := s.keys } media amk
  (roots, { t with root := s.root, tags := { t.tags with bankB := s.tags.bankB } })

/-! ## UNLOCK and LOCK -/

/-- A command that changes the mode waits for its transition (02 R40, R198). -/
def planTransition (s : State) (f : Ref) (target : Mode) (kind : PlanKind) (cause : Nat) (waitIo : Bool) : State :=
  planMode (setStage s f .transition) target kind cause (portSrc f.p) 7 (some f) waitIo

/-- A transition of the same rank is already planned: the command waits for it and is judged in the new mode. -/
def planTaken (s : State) : Bool :=
  match s.mode.plan with
  | some m => decide (m.rank ≤ 60)
  | none => false

/-- UNLOCK (06 R184, 10 R306): the transition is planned; an adopted array's superblocks are written first. -/
def execUnlock (p : Port) (i : Nat) (media : List MediaRead) (s : State) : Result :=
  match mgmtVisit s p i 0x20 with
  | none => .next s
  | some (f, t) =>
    if s.mode.cond = .none then fails s f Status.badMode
    else if planTaken s then .next (setStage s f .transition)
    else
      let r := attempt s f t (Taken.block t)
      match r.2 with
      | none => .next r.1
      | some (amk, fleetOnly) =>
        if ¬ fleetOnly then
          .next (planTransition (unlockReads r.1 media amk) f (condMode s.mode.cond) .unlock 0x04 false)
        else match s.array with
          | none => .next s
          | some a =>
            let (roots, s) := adoptReads r.1 media amk
            .next (setStage (writeSb s (.adopt f (homeWrap s.fuse a.uuid (Taken.block t) amk) roots)) f .superblock)

/-- LOCK (02 Table 2-2). -/
def execLock (p : Port) (i : Nat) (s : State) : Result :=
  match mgmtVisit s p i 0x21 with
  | none => .next s
  | some (f, _) => .next (planTransition s f .locked .lock 0x05 false)

/-- CRED_SET's parameter block (06 Table 6-4): the old and the new credential. -/
def credPair (bs : Bytes) : Option (Bytes × Bytes) :=
  let o := leNat (slice bs 0 1)
  let n := leNat (slice bs 1 1)
  if leNat (slice bs 2 2) = 0 ∧ 1 ≤ o ∧ o ≤ 128 ∧ 1 ≤ n ∧ n ≤ 128 ∧ (slice bs (4 + o) (128 - o)).all (· == 0) ∧
      (slice bs (132 + n) (128 - n)).all (· == 0) then
    some (slice bs 4 o, slice bs 132 n)
  else none

/-- CRED_SET (10 R307): the old credential is an attempt; the new wraps of the same AMK go to every superblock. -/
def execCredSet (p : Port) (i : Nat) (s : State) : Result :=
  match mgmtVisit s p i 0x22, s.array with
  | some (f, t), some a =>
    match credPair (Taken.block t) with
    | none => fails s f Status.badField
    | some (old, new) =>
      let r := attempt s f t old
      match r.2 with
      | none => .next r.1
      | some (amk, _) =>
        let s := addPriv r.1 (.credSet f (homeWrap s.fuse a.uuid new amk) (fleetWrap s.fuse a.uuid new amk))
        .next (setStage s f .exec)
  | _, _ => .next s

/-! ## Fresh secrets (10 R303, R304) -/

/-- 32 bytes of the random bit generator. -/
def freshSecret (s : State) : Bytes × State :=
  (leBytes 32 (Config.freshSecret s.free).toNat, { s with free := s.free + 1 })

/-- A volume secret; drawn again while the halves of its K_xts are equal. -/
def freshVs : Nat → State → Bytes × State
  | 0, s => freshSecret s
  | fuel + 1, s =>
    let (vs, s) := freshSecret s
    if kdf vs (label "XT1") zero16 = kdf vs (label "XT2") zero16 then freshVs fuel s else (vs, s)

/-! ## ARRAY_CREATE (06 R190, 09 R459, 08 R460) -/

def createLayout (e : Entry) : Nat := field (Entry.arg e) 0 3
def createSu (e : Entry) : Nat := field (Entry.arg e) 8 3
def createSlots (e : Entry) : List SlotN := allSlots.filter fun m => (Entry.arg e).getLsbD (16 + m.val)
def createSize (e : Entry) : Nat := (Entry.a e 0).toNat + field (Entry.a e 1) 0 4 * 2 ^ 32

/-- A ready member that an array can be made of: SPARE or FOREIGN, its bring-up complete. -/
def readyMember (s : State) (m : SlotN) : Bool :=
  let x := s.slot m
  (x.state == .spare || x.state == .foreign) && x.step == 8 && x.drive.isSome && x.pd.isNone

/-- The program of the active bank (07 R222). -/
def activeProg (s : State) : List W36 :=
  match s.seq.active with
  | some true => s.seq.bank1
  | some false => s.seq.bank0
  | none => []

def createProg (s : State) (e : Entry) : List W36 :=
  if createLayout e = 5 then activeProg s else romProgram (createLayout e)

/-- Blocks of a member's data area, D' (09 R278). -/
def driveArea (s : State) (m : SlotN) : Nat := match (s.slot m).drive with
  | some d => d.blocks - 64
  | none => 0

/-- D: the smallest data area among the members (07 R202). -/
def createArea (s : State) (ms : List SlotN) : Nat := (ms.map (driveArea s)).min?.getD 0

/-- The position entry of each member in slot order. -/
def createPtab (s : State) (ms : List SlotN) : Vector PEntry 6 :=
  Vector.ofFn fun i => match ms[i.val]? with
    | some m => { state := .current, slot := m, lostAg := 0,
                  serial := padTo 20 (match (s.slot m).drive with | some d => d.serial | none => []) }
    | none => { state := .current, slot := 0, lostAg := 0, serial := zeros 20 }

/-- The new array's content but its secrets. -/
def createView (s : State) (f : Ref) (e : Entry) : ArraySt :=
  let ms := createSlots e
  let vol : Volume := { Volume.empty with
    present := true, isSealed := true, base := 0, size := createSize e, key := 0,
    grantA := if f.p = .a then 3 else 0, grantB := if f.p = .b then 3 else 0 }
  { uuid := 0, ag := 1, n := ms.length, layout := createLayout e, su := createSu e, dsz := createArea s ms,
    ptab := createPtab s ms, rbKind := .none, rbTarget := 0, queued := none, w := 0, qw := 0, scRow := 0, scPasses := 0,
    mkeyFormat := 1, home := zeros 48, fleet := zeros 48, rekey := RekeyRec.none,
    vtab := (Vector.replicate 64 Volume.empty).set 0 vol, pgen := 1, prog := createProg s e }

/-- The state with a view's geometry in force, for computing places. -/
def withView (s : State) (a : ArraySt) : State :=
  { s with array := some a, seq := { s.seq with table := buildTable a.prog a.n } }

/-- The checks of R190 on the fields, before anything is done. -/
def createCheck (s : State) (f : Ref) (e : Entry) : Status :=
  let ms := createSlots e
  let v := withView s (createView s f e)
  if 5 < createLayout e ∨ 4 < createSu e ∨ createSize e < 4096 then Status.badField
  else if createLayout e = 5 ∧ activeProg s = [] then Status.bankActive
  else if ¬ ms.all (readyMember s) ∨ ¬ membersOk (createLayout e) ms.length (activeProg s) then Status.badField
  else if arrayRows v < volRows v (createSize e) true then Status.noSpace
  else Status.success

/-- Does the drive need Format NVM first (09 R265)? -/
def needsFormat (s : State) (m : SlotN) : Bool := match (s.slot m).drive with
  | some d => !d.formatOk
  | none => false

/-- Format NVM is issued to a slot. -/
def startFormat (s : State) (m : SlotN) : State := (s.emit (.member m .format)).modSlot m fun x => { x with format := true }

/-- The data areas are deallocated, or written with zeros (R459). -/
def startInit (s : State) (ms : List SlotN) : State :=
  let d := createArea s ms
  let zero := ms.all fun m => match (s.slot m).drive with
    | some x => x.dlfeat
    | none => false
  ms.foldl (fun s m => planMember s m (if zero then .deallocate 64 d else .writeZeros 64 d) .init) s

/-- ARRAY_CREATE: its checks, then the formats, then the initialisation. -/
def execArrayCreate (p : Port) (i : Nat) (s : State) : Result :=
  let f : Ref := { p := p, r := 0, i := i }
  match mgmtVisit s p i 0x23, s.taken? f with
  | some (f, t), _ =>
    let st := createCheck s f t.head
    if st ≠ Status.success then fails s f st
    else
      let ms := createSlots t.head
      let fs := ms.filter (needsFormat s)
      if fs.isEmpty then .next (setStage (startInit s ms) f .init)
      else .next (setStage (fs.foldl startFormat s) f .format)
  | none, some t =>
    let ms := createSlots t.head
    if Entry.opcode t.head = 0x23 ∧ t.stage = .format ∧ s.clock.phase = .plan ∧ ¬ ms.any fun m => (s.slot m).format then
      .next (setStage (startInit s ms) f .init)
    else .next s
  | none, none => .next s

/-- The bytes of an area of the journal as zeros, line by line. -/
def zeroArea (a n : Nat) : List (Nat × Bytes) := jnlWrite a (zeros n)

/-- The journal emptied of any earlier array (R460): its writes, and the state they leave. -/
def emptyJournal (s : State) (rows : Nat) : List (Nat × Bytes) × State :=
  let b : Bitmap := { g := bitmapG rows, active := false, ag := 0, bits := [] }
  let s := s.modJnl fun j =>
    { j with bitmap := b, lost := [], nextSeq := 1, oldest := 1, wcHead := 0, wcUsed := 0, ctlGen := 2, recs := [],
             full := false }
  let s := { s with tags := SealSt.init, cache := { s.cache with lines := [], victim := [] }, bulk := { s.bulk with reads := [] } }
  ([(ctlA, ctlBytes 1 1 0), (ctlB, ctlBytes 2 1 0)] ++ zeroArea intentA 0x180000 ++ zeroArea intentB 0x180000 ++
    zeroArea metaBase 0x100000 ++ [(bitmapBase, bitmapHeader b)] ++ zeroArea (bitmapBase + 64) (0x40000 - 64) ++
    zeroArea lostBase 0x40000, s)

/-- The superblocks and the header of volume 0 are written (R459): AMK, the uuid and the secret of volume 0 are drawn. -/
def writeArray (s : State) (f : Ref) (t : Taken) : State :=
  let (amk, s) := freshSecret s
  let u := Config.freshUuid s.free
  let s := { s with free := s.free + 1 }
  let (vs, s) := freshVs 8 s
  let v := createView s f t.head
  let cred := Taken.block t
  let w0 := wrap 8 (vwk amk u 0) (volCtx u 0) vs
  let v := { v with uuid := u, home := homeWrap s.fuse u cred amk, fleet := fleetWrap s.fuse u cred amk,
                    vtab := v.vtab.set 0 { v.vtab[0] with wrap := w0 } }
  let (clear, s) := emptyJournal s (v.dsz / unitBlocks v.su)
  let h := (treeLevels (createSize t.head)).length
  let (ws, _, s) := metaWrites s 0 [(headerLbn (withView s v) (createSize t.head), headerBytes 0 (zeros 8) (h - 1))]
  let s := planJournal s (clear ++ ws) .none
  writeSb s (.arrayCreate f v)

/-- ARRAY_INIT_DONE (R459): every data area reads as zeros; a member no longer ready fails the command. -/
def execArrayInitDone (s : State) : Result :=
  let one := fun (s : State) (f : Ref) (t : Taken) =>
    let s := { s with morders := s.morders.filter fun o => o.owner != .init }
    if (createSlots t.head).all (readyMember s) then setStage (writeArray s f t) f .superblock
    else failEntry s f Status.slotState
  let hit := bothPorts.filterMap fun p => ((s.ring p 0).taken.find? fun t => t.stage == .init).map fun t => (p, t)
  match hit with
  | (p, t) :: _ => .next (one s { p := p, r := 0, i := t.i } t)
  | [] => .next s

/-! ## VOLUME_CREATE and VOLUME_DELETE (06 R185, 10 R313, R322) -/

/-- The volumes that are there, and those that superblock updates under way bring (06 R185, 07 R204). -/
def claimedVols (s : State) : List (VolN × Volume) :=
  let of_ := fun a : Option ArraySt => match a with
    | some a => allVols.filterMap fun v => if a.vtab[v.val].present then some (v, a.vtab[v.val]) else none
    | none => []
  of_ s.array ++ of_ (pendingView s)

/-- Rows [lo, hi) of each of them. -/
def rowRanges (s : State) : List (Nat × Nat) :=
  (claimedVols s).map fun x => (x.2.base, x.2.base + volRows s x.2.size x.2.isSealed)

/-- The lowest free range of n rows (07 R204). -/
def freeRange (s : State) (n : Nat) : Option Nat :=
  let rs := rowRanges s
  let fits := fun c => decide (c + n ≤ arrayRows s) && rs.all fun r => decide (c + n ≤ r.1) || decide (r.2 ≤ c)
  ((0 :: rs.map (·.2)).filter fits).min?

def createVol (e : Entry) : VolN := sixtyFour (field (Entry.arg e) 0 6)
def createKey (e : Entry) : Fin 64 := sixtyFour (field (Entry.arg e) 16 6)

/-- VOLUME_CREATE: the key is drawn and the superblocks are written; the volume is there once they are. -/
def execVolumeCreate (p : Port) (i : Nat) (s : State) : Result :=
  match mgmtVisit s p i 0x24, s.array, s.keys.amk with
  | some (f, t), some a, some amk =>
    let e := t.head
    let v := createVol e
    let key := createKey e
    let isSealed := (Entry.arg e).getLsbD 8
    let size := createSize e + 1
    if v = 0 ∨ key = 0 then fails s f Status.badField
    else if (claimedVols s).any (fun x => x.1 == v) then fails s f Status.badVolume
    else if (claimedVols s).any (fun x => x.2.key == key) then fails s f Status.keyInUse
    else match freeRange s (volRows s size isSealed) with
      | none => fails s f Status.noSpace
      | some base =>
        let (vs, s) := freshVs 8 s
        let vol : Volume := { Volume.empty with
          present := true, isSealed := isSealed, base := base, size := size, key := key,
          grantA := (Entry.a e 2).extractLsb' 0 2, grantB := (Entry.a e 2).extractLsb' 2 2,
          wrap := wrap 8 (vwk amk a.uuid v) (volCtx a.uuid v) vs }
        .next (setStage (writeSb s (.volumeCreate f v vol (volKeys amk a.uuid v vs))) f .superblock)
  | _, _, _ => .next s

/-- Is an order of the volume still under way: an entry that names it, an unretired record, a fold? -/
def volBusy (s : State) (v : VolN) : Bool :=
  (bothPorts.any fun p => allRings.any fun r => r != 0 && (s.ring p r).taken.any fun t =>
    t.stage != .finished && !t.done && (Entry.vol t.head == v || flushAll t.head)) ||
  (s.jnl.recs.any fun r => r.names && r.vol == v) || (s.tags.folding.any fun f => f.vol == v) ||
  (s.eng.rekey.inStep && s.eng.rekey.vol == v)

/-- VOLUME_DELETE: the superblocks are written after the last order of the volume; a rekey of it ends. -/
def execVolumeDelete (p : Port) (i : Nat) (s : State) : Result :=
  let f : Ref := { p := p, r := 0, i := i }
  match s.taken? f with
  | none => .next s
  | some t =>
    let v := createVol t.head
    if Entry.opcode t.head ≠ 0x25 ∨ s.clock.phase ≠ .plan ∨ ¬ anyPlanning s.cx then .next s
    else if t.stage = .waiting ∧ v = 0 then fails s f Status.badField
    else if t.stage = .waiting ∧ (volOf s v).isNone then fails s f Status.badVolume
    else if ¬ (t.stage = .waiting ∨ t.stage = .drain) then .next s
    else
      let s := s.modArray fun a => { a with vtab := a.vtab.set v.val { a.vtab[v.val] with deleting := true } }
      if volBusy s v then .next (setStage s f .drain)
      else .next (setStage (writeSb s (.volumeDelete f v)) f .superblock)

/-! ## GRANT_SET and KEY_ROTATE -/

/-- The grant a port will have on volume 0 once the GRANT_SETs between their PREP and their EXEC are done. -/
def comingGrant (s : State) (p : Port) : Nat :=
  s.gate.priv.foldl (fun n a => match a.act with
    | .grant _ v q level => if v = 0 ∧ q = p then level.toNat else n
    | _ => n) (grantOf s p 0)

/-- Would an enabled port still hold WRITE+KEY on volume 0 (06 R186)? -/
def adminLeft (s : State) (v : VolN) (q : Port) (level : BitVec 2) : Bool :=
  bothPorts.any fun p => portEnabled s p && (if v = 0 ∧ p = q then level == 3 else comingGrant s p == 3)

/-- GRANT_SET (01 R25, 06 R186). -/
def execGrantSet (p : Port) (i : Nat) (s : State) : Result :=
  match mgmtVisit s p i 0x26 with
  | none => .next s
  | some (f, t) =>
    let w := Entry.arg t.head
    let v := sixtyFour (field w 0 6)
    let q : Port := if w.getLsbD 8 then .b else .a
    let level := w.extractLsb' 16 2
    if (volOf s v).isNone then fails s f Status.badVolume
    else if ¬ adminLeft s v q level then fails s f Status.lastAdmin
    else .next (setStage (addPriv s (.grant f v q level)) f .exec)

/-- KEY_ROTATE (10 R327, 02 R58): the minimum of the rekey engine comes from free buffers, else from scrub; the keys are
loaded by the EXEC that follows the superblock writes (06 R174). -/
def execKeyRotate (p : Port) (i : Nat) (s : State) : Result :=
  match mgmtVisit s p i 0x27, s.array, s.keys.amk with
  | some (f, t), some a, some amk =>
    let v := sixtyFour (field (Entry.arg t.head) 0 6)
    if (volOf s v).isNone then fails s f Status.badVolume
    else if a.rekey.state ≠ 0 ∨ rekeyStarting s then fails s f Status.rekeyActive
    else if spareBufs s + releasing s + engOwn s .scrub < 8 then fails s f Status.conflict
    else if spareBufs s < 8 - engOwn s .rekey then .next (askEngines s)
    else
      let s := takeBufs s (8 - engOwn s .rekey) (.engine .rekey)
      let (vs, s) := freshVs 8 s
      let w := wrap 8 (vwk amk a.uuid v) (volCtx a.uuid v) vs
      .next (setStage (writeSb s (.rekeyStart f v (volKeys amk a.uuid v vs) w)) f .superblock)
  | _, _, _ => .next s

/-- THROTTLE_EXPIRY (11 R342): the throttle's comparator fires. -/
def execThrottleExpiry (s : State) : Result :=
  if ¬ anyFired s 1 then .next s else .next (dropAcmp s (acmpFired s 1))

/-- COOL_DOWN_EXPIRY (11 R347). -/
def execCoolDownExpiry (obj : Nat) (s : State) : Result :=
  let mine := fun a : Acmp => acmpFired s 3 a && a.obj == obj
  .next (dropAcmp s mine)

end Sys2Proof.Machine
end

