-- ==== Sys2Proof/Machine/VaultCmd.lean ====
section
/-! DEFINITION. The VAULT commands (06 R187, 11 R344 to R348): list, get, put, delete and set policy. An object is one
block of system volume 0; get and set policy read it as one indivisible step with the media's blocks as an operand. -/
namespace Sys2Proof.Machine

/-! ## Policies and objects (11 Table 11-4) -/

def polGet (w : W32) (p : Port) : Bool := w.getLsbD (portBit p)
def polCget (w : W32) : Bool := w.getLsbD 2
def polCmod (w : W32) : Bool := w.getLsbD 3
def polFixed (w : W32) : Bool := w.getLsbD 4
def polOnce (w : W32) : Bool := w.getLsbD 5
def polCool (w : W32) : Nat := field w 8 8

/-- No reserved bit of a policy word is set (R345). -/
def polOk (w : W32) : Bool := within w 0xFF3F

def vaultObj (s : State) (id : Nat) : Option VaultObj := s.vault.index.find? fun o => o.id == id

/-- The block of an object. -/
def objectBytes (len : Nat) (policy : W32) (data : Bytes) : Bytes :=
  padTo blockBytes (leBytes 4 len ++ dwBytes policy ++ zeros 8 ++ data.take len)

/-- Length and policy word as the entry carries them until the index changes. -/
def objectWords (len : Nat) (policy : W32) : Bytes := leBytes 4 len ++ dwBytes policy

/-! ## Visits -/

/-- A VAULT command of a subop that is planned now, with the system volume; a rekey step that holds the block waits. -/
def vaultVisit (s : State) (p : Port) (i sub : Nat) : Option (Ref × Taken × Volume) :=
  let f : Ref := { p := p, r := 0, i := i }
  match s.taken? f, volOf s 0 with
  | some t, some x =>
    if Entry.opcode t.head = 0x30 ∧ Entry.subop t.head = sub ∧ planned s t ∧
        ¬ rekeyHolds s 0 (vaultId t.head) 1 then some (f, t, x) else none
  | _, _ => none

/-- A press the policy asks for and that has not come: the command awaits its window (R354). -/
def needsPress (t : Taken) (c : Bool) : Bool := c && !t.pressed

/-- The content of an object's block: read, or solved around a failed tag (10 Table 10-3), or the status it fails with. -/
def vaultBlock (s : State) (media : List MediaRead) (x : Volume) (id : Nat) : Except Status (Nat × Bytes) × State :=
  let q := blockPlace s 0 id
  match blockKeys s 0 id, rolePos s q.row (.data q.j) with
  | some ks, some pos =>
    match sealedInfo s 0 x.size (contentNow s media 0) id with
    | (.bad, _) => (.error Status.treeMismatch, logIntegrity s 0 id 1 Status.treeMismatch)
    | (.need l, _) => (.error Status.memberRead, logIntegrity s 0 l 6 Status.memberRead)
    | (.counter c tag, ns) =>
      let s := keepNodes s ns
      let plain := fun bs : Bytes => if bs.all (· == 0) then zeros blockBytes else xtsDec ks id bs
      if c = 0 then (.ok (0, zeros blockBytes), s)
      else if (newestRec s 0 id).isNone ∧ blockLost s q.row pos q.b then (.error Status.lostUnit, s)
      else match contentNow s media 0 id with
        | none => (.error Status.memberRead, planJournal (enterOrLose s q.row pos [q.b]) (lostWrites s) .none)
        | some bs =>
          if blockTag ks id c bs = tag then (.ok (c, plain bs), s)
          else if (newestRec s 0 id).isSome ∨ (cachedBlock s.cache pos (areaBlock s q.row q.b)).isSome then
            (.error Status.tagMismatch, logIntegrity s 0 id 3 Status.tagMismatch)
          else
            let s := logIntegrity s 0 id 2 Status.tagMismatch
            let rest := media.filter fun m => !(m.pos == pos && m.d == areaBlock s q.row q.b)
            match mediaBlock s rest q.row q.j q.b with
            | none => (.error Status.tagMismatch, logIntegrity s 0 id 3 Status.tagMismatch)
            | some bs =>
              if blockTag ks id c bs ≠ tag then (.error Status.tagMismatch, logIntegrity s 0 id 3 Status.tagMismatch)
              else
                let s := match slotOf s pos with
                  | some m => planMember s m (.write (64 + areaBlock s q.row q.b) bs) .none
                  | none => s
                (.ok (c, plain bs), s)
  | _, _ => (.error Status.treeMismatch, s)

/-- The object's block is written, or deallocated where there is no content: its tag, slot and record in one commit (10
R317), as for a host write. The owner goes on when the commit is durable. -/
def vaultCommit (s : State) (p : Port) (x : Volume) (ks : VolKeys) (id ctr : Nat) (content : Option Bytes) (o : JOwner) :
    Nat × State :=
  let cs := match content with
    | some bs => xtsEnc ks id bs
    | none => zeros blockBytes
  let (first, s) := if content.isSome then takeSlots s 1 else (0, s)
  let (r, s) := addRec s { IntentRec.base (if content.isSome then .write else .dealloc) with
    vol := 0, isSealed := true, count := 1, at_ := id, slot := first, port := some p }
  let (tags, s) := addTags s r.seq 0 [(id, ctr, blockTag ks id ctr cs)]
  let s := if content.isSome then cacheBlocks s p 0 x.key id [cs] else dropRange s 0 id 1
  (r.seq, planJournal s (tags ++ (if content.isSome then slotWrites first [cs] else []) ++ intentWrites r) o)

/-- Has the command the charge of its block (01 R28)? -/
def isCharged (s : State) (f : Ref) : Bool := match s.taken? f with
  | some t => t.charged
  | none => false

/-- A change of an object is planned, or waits for a charge or for journal room; a counter at its limit fails it (10
R316). -/
def vaultChange (s : State) (f : Ref) (x : Volume) (id ctr len : Nat) (policy : W32) (content : Option Bytes) : State :=
  match blockKeys s 0 id with
  | none => s
  | some ks =>
    if 2 ^ 56 ≤ ctr + 1 then failEntry s f Status.noSpace
    else if ¬ isCharged s f then setStage s f (.engine 1)
    else if ¬ writeRoom s (bit content.isSome) 1 then setStage s f .waiting
    else
      let r := vaultCommit s f.p x ks id (ctr + 1) content (.entry f)
      r.2.modTaken f fun t =>
        { t with seqs := [r.1], committed := true, stage := .journal, data := objectWords len policy }

/-- The counter of an object's block, through reads of the entry's own (put and delete carry no media). -/
def vaultCounter (s : State) (f : Ref) (x : Volume) (id : Nat) : Option Nat × State :=
  match entryInfo s f 0 x.size id with
  | (some c, s) => (some c.1, s)
  | (none, s) => (none, s.modTaken f fun t => if t.stage = .finished then { t with reply := [] } else { t with stage := .reads })

/-! ## The five subops -/

/-- VAULT list: from the index, in ascending id (06 R187). -/
def execVaultList (p : Port) (i : Nat) (s : State) : Result :=
  match vaultVisit s p i 1 with
  | none => .next s
  | some (f, t, _) =>
    let from_ := (Entry.a t.head 1).toNat
    let os := s.vault.index.filter fun o => decide (from_ ≤ o.id)
    let n := min os.length ((Entry.rmax t.head - 16) / 8)
    let next := match os[n]? with
      | some o => o.id
      | none => 0x1000
    done s f (leBytes 4 n ++ leBytes 4 next ++ zeros 8 ++ (os.take n).flatMap fun o =>
      leBytes 2 o.id ++ leBytes 2 o.len ++ dwBytes o.policy)

/-- Is a cool-down of the object running (R347)? -/
def cooling (s : State) (id : Nat) : Bool := s.mode.acmp.toList.any fun a => match a with
  | some x => x.user == 3 && x.obj == id && x.target.isSome
  | none => false

/-- A get goes on after every check: the data, and the deletion of a once object in the same commit (R348). -/
def vaultDeliver (s : State) (f : Ref) (x : Volume) (o : VaultObj) (media : List MediaRead) : State :=
  if ¬ isCharged s f then setStage s f (.engine 1)
  else if polOnce o.policy ∧ ¬ writeRoom s 0 1 then s
  else
    match vaultBlock s media x o.id with
    | (.error st, s) => failEntry s f st
    | (.ok (ctr, bs), s) =>
      let s := if polOnce o.policy then
          match blockKeys s 0 o.id with
          | some ks =>
            let s := (vaultCommit s f.p x ks o.id (ctr + 1) none .none).2
            { s with vault := { s.vault with index := indexSet s.vault.index o.id 0 0 } }
          | none => s
        else s
      finishEntry s f Status.success (leBytes 4 o.len ++ dwBytes o.policy ++ zeros 8 ++ slice bs 16 o.len)

/-- The comparators as they will be once the takes planned in this frame are done. -/
def withTakes (s : State) : State :=
  s.gate.orders.foldl (fun s o => match o with
    | .act _ (.takeCool id) => match takeAcmp s 3 none id with
      | some (_, s) => s
      | none => s
    | _ => s) s

/-- A get of an object with a cool-down plans to take a comparator, at the commit point (R347, 02 R53); `none`: it would
not have one. -/
def coolPlanned (s : State) (f : Ref) (o : VaultObj) : Option State :=
  let t := withTakes s
  if polCool o.policy = 0 ∨ (acmpOf t 3 o.id).isSome then some s
  else (takeAcmp t 3 none o.id).map fun _ => addOrder s (.act f (.takeCool o.id))

/-- The comparator is taken; a get that finds none left has CONFLICT. -/
def takeCoolAct (s : State) (f : Ref) (id : Nat) : State :=
  match takeAcmp s 3 none id with
  | some (_, s) => s
  | none => s.modTaken f fun t => { t with stage := .finished, status := Status.conflict, reply := [] }

/-- VAULT get (R346, R347). -/
def execVaultGet (p : Port) (i : Nat) (media : List MediaRead) (s : State) : Result :=
  match vaultVisit s p i 2 with
  | none => .next s
  | some (f, t, x) =>
    let id := vaultId t.head
    match vaultObj s id with
    | none => fails s f Status.noObject
    | some o =>
      if ¬ polGet o.policy p ∨ cooling s id ∨ (polOnce o.policy ∧ s.mode.mode = .salvage) then
        fails s f Status.policyDenied
      else if Entry.reply t.head ≠ 0 ∧ Entry.rmax t.head < 16 + o.len then fails s f Status.replySmall
      else if x.stale then fails s f Status.treeMismatch
      else
        match coolPlanned s f o with
        | none => fails s f Status.conflict
        | some s =>
          if needsPress t (polCget o.policy) then .next (setStage s f .confirm)
          else .next (vaultDeliver s f x o media)

/-- VAULT put: a new object takes the policy of the command, an existing one keeps its own (06 R187). -/
def execVaultPut (p : Port) (i : Nat) (s : State) : Result :=
  match vaultVisit s p i 3 with
  | none => .next s
  | some (f, t, x) =>
    let id := vaultId t.head
    let given := Entry.a t.head 0
    let old := vaultObj s id
    let policy := match old with | some o => o.policy | none => given
    let fixed : Bool := match old with | some o => polFixed o.policy | none => false
    if old.isNone ∧ ¬ polOk given then fails s f Status.badField
    else if old.isNone ∧ (4096 ≤ s.vault.index.length ∨ x.size ≤ id) then fails s f Status.vaultFull
    else if fixed then fails s f Status.policyDenied
    else if x.stale then fails s f Status.treeMismatch
    else if needsPress t (polCmod policy) then .next (setStage s f .confirm)
    else
      match vaultCounter s f x id with
      | (none, s) => .next s
      | (some c, s) =>
        let len := Entry.plen t.head
        .next (vaultChange s f x id c len policy (some (objectBytes len policy (Taken.block t))))

/-- VAULT delete: a deallocation of the block (R344). -/
def execVaultDelete (p : Port) (i : Nat) (s : State) : Result :=
  match vaultVisit s p i 4 with
  | none => .next s
  | some (f, t, x) =>
    let id := vaultId t.head
    match vaultObj s id with
    | none => fails s f Status.noObject
    | some o =>
      if x.stale then fails s f Status.treeMismatch
      else if needsPress t (polCmod o.policy || polFixed o.policy) then .next (setStage s f .confirm)
      else match vaultCounter s f x id with
        | (none, s) => .next s
        | (some c, s) => .next (vaultChange s f x id c 0 0 none)

/-- VAULT set policy: the block is read and written again with the new policy word. -/
def execVaultSetPolicy (p : Port) (i : Nat) (media : List MediaRead) (s : State) : Result :=
  match vaultVisit s p i 5 with
  | none => .next s
  | some (f, t, x) =>
    let id := vaultId t.head
    let given := Entry.a t.head 0
    match vaultObj s id with
    | none => fails s f Status.noObject
    | some o =>
      if ¬ polOk given then fails s f Status.badField
      else if polFixed o.policy then fails s f Status.policyDenied
      else if x.stale then fails s f Status.treeMismatch
      else if needsPress t (polCmod o.policy || polCmod given) then .next (setStage s f .confirm)
      else match vaultBlock s media x id with
        | (.error st, s) => fails s f st
        | (.ok (c, bs), s) =>
          .next (vaultChange s f x id c o.len given (some (objectBytes o.len given (slice bs 16 o.len))))

/-! ## At the commit point (R347) -/

/-- A comparator taken for the object has no target yet. -/
def coolWaits (s : State) (id : Nat) : Bool := s.mode.acmp.toList.any fun a => match a with
  | some x => x.user == 3 && x.obj == id && x.target.isNone
  | none => false

/-- A get that succeeds at this commit point starts its object's cool-down: its policy word is in the reply. -/
def startCools (s : State) : State :=
  (mgmtEntries s).foldl (fun s x =>
    let t := x.2
    let cool := polCool (dwOf (slice t.reply 4 4))
    if Entry.opcode t.head = 0x30 ∧ Entry.subop t.head = 2 ∧ t.stage = .finished ∧ ¬ t.done ∧
        t.status = Status.success ∧ cool ≠ 0 ∧ coolWaits s (vaultId t.head) then
      match takeAcmp s 3 (some (s.clock.rtc + 1024 * cool)) (vaultId t.head) with
      | some (_, s) => s
      | none => s
    else s) s

/-- A comparator taken for a get that did not succeed is released. -/
def dropCools (s : State) : State :=
  let live := fun a : Acmp => (mgmtEntries s).any fun x =>
    Entry.opcode x.2.head == 0x30 && Entry.subop x.2.head == 2 && x.2.stage != .finished && vaultId x.2.head == a.obj
  dropAcmp s fun a => a.user == 3 && a.target.isNone && !live a

end Sys2Proof.Machine
end

