-- ==== Sys2Proof/Machine/Security.lean ====
section
/-! DEFINITION. Security events (11): tamper trips, the wired inputs of the lid and the button, the confirm window, and
the health test of the random bit generator (10 R303). A command of this file is one aon sample or one detection. -/
namespace Sys2Proof.Machine

/-! ## Tamper sources (R355) -/

/-- What makes a source trip at all: the monitors are armed at the end of S1 (03 R70), the supply's monitors need VIN, and
the unlock limit is reached (R343). -/
def sourceLive (s : State) (src : TamperSrc) : Bool :=
  match src with
  | .vinHigh | .coreV | .temp | .clock =>
    s.supply.vin && !(s.mode.mode == .start && (s.start.stage == .h || s.start.stage == .s1))
  | .unlockLimit => decide (50 ≤ unlockCount s.root)
  | _ => true

/-- TAMPER_TRIP. -/
def execTamperTrip (src : TamperSrc) (s : State) : Result :=
  if aonAlive s ∧ sourceLive s src then .next (tamper s src) else .next s

/-! ## The wired inputs (R349 to R353) -/

def chanCode : Chan → Nat
  | .closed => 0 | .opened => 1 | .faulty => 2

/-- Table 11-6: the class of channel A, or B, of an input by its pair of readings. -/
def classA (w : Wire) (r : Reading) : Chan :=
  match w, r.first, r.second with
  | .lid, false, true => .closed
  | .lid, true, true => .opened
  | .button, true, true => .closed
  | .button, false, false => .opened
  | _, _, _ => .faulty
def classB (r : Reading) : Chan :=
  match r.first, r.second with
  | false, false => .closed
  | true, true => .opened
  | _, _ => .faulty

/-- WIRE_STAT.chan: the two channels of an input in the sample. -/
def setChan (s : State) (w : Wire) (a b : Chan) : State :=
  s.modSec fun c =>
    let v := chanCode a + 4 * chanCode b
    match w with
    | .lid => { c with chan := c.chan.extractLsb' 4 4 ++ BitVec.ofNat 4 v }
    | .button => { c with chan := BitVec.ofNat 4 v ++ c.chan.extractLsb' 0 4 }

/-- Is the input sampled: the lid while it is armed, the button in every mode except Vault (R349)? -/
def sampled (s : State) (w : Wire) : Bool :=
  aonAlive s && match w with
  | .lid => lidArmed s.sec s.fuse
  | .button => s.mode.mode != .vault

/-- Do the channels agree in a sample (R351)? -/
def channelsAgree (a b : Chan) : Bool := a == b && a != .faulty

/-- T of an input (R351). -/
def discTime (c : SecSt) : Wire → Nat
  | .lid => c.lidCfg.toNat
  | .button => c.confDisc.toNat

/-- The command of the open window fails; the commit point of this frame reports it (R354). -/
def failWindow (s : State) (st : Status) : State :=
  match s.sec.cwin with
  | some w => closeWindow (failEntry s w.ref st) fun _ => true
  | none => s

/-- A press before the target completes the window: the command goes on (R354). -/
def pressWindow (s : State) : State :=
  match s.sec.cwin with
  | some w =>
    if s.clock.rtc < w.target then
      let s := s.modTaken w.ref fun t => if t.stage = .confirm then { t with pressed := true, stage := .waiting } else t
      closeWindow s fun _ => true
    else s
  | none => s

/-- DISCREPANCY_FAULT: a run of disagreeing samples reaches its T-th. -/
def execDiscrepancyFault (w : Wire) (ra rb : Reading) (s : State) : Result :=
  let a := classA w ra
  let b := classB rb
  if channelsAgree a b ∨ ¬ sampled s w then .next s
  else
    let s := setChan s w a b
    match w with
    | .lid => .next (tamper (s.modSec fun c => { c with lflt := true, lfltAt := obsFrame s }) .lidDisc)
    | .button =>
      let s := s.modSec fun c => { c with cflt := true, cfltAt := obsFrame s, confRun := true }
      .next (failWindow (logCase s 0 .security 1) Status.confirmRefused)

/-- DISCREPANCY_RUN_END: after d disagreeing samples the channels agree. A shorter run than T is counted; both
lid channels open trip at the sample, and both button channels pressed are a press where both were released since the
window opened. -/
def execDiscrepancyRunEnd (w : Wire) (d : Nat) (x : Reading × Reading) (s : State) : Result :=
  let level := classA w x.1
  if ¬ channelsAgree level (classB x.2) ∨ d = 0 ∨ ¬ sampled s w then .next s
  else
    let s := setChan s w level level
    let counted := decide (d < discTime s.sec w)
    match w with
    | .lid =>
      let s := if counted then s.modSec fun c => { c with discLid := satInc c.discLid } else s
      .next (if level = .opened then tamper s .lidOpen else s)
    | .button =>
      let s := if counted then s.modSec fun c => { c with discConf := satInc c.discConf } else s
      let s := s.modSec fun c => { c with confRun := false }
      if level = .closed then
        .next (s.modSec fun c => { c with cwin := c.cwin.map fun x => { x with released := true } })
      else .next (if (s.sec.cwin.map (·.released)).getD false then pressWindow s else s)

/-! ## The confirm window (R353, R354) -/

/-- CONFIRM_PRESS: a press as R353 defines it. -/
def execConfirmPress (s : State) : Result :=
  if sampled s .button then .next (pressWindow (setChan s .button .opened .opened)) else .next s

/-- CONFIRM_TIMEOUT: the comparator of the window fires. -/
def execConfirmTimeout (s : State) : Result :=
  match s.sec.cwin with
  | some w => if w.target ≤ s.clock.rtc then .next (failWindow s Status.confirmTimeout) else .next s
  | none => .next s

/-! ## The random bit generator (10 R303) -/

/-- RANDOM_BIT_GENERATOR_HEALTH_FAIL: a security self-test failure. -/
def execRandomBitGeneratorHealthFail (s : State) : Result :=
  if s.mode.mode = .vault ∨ s.mode.mode = .freeze ∨ s.mode.mode = .lockdown ∨ halted s then .next s
  else
    let s := failAll (haltData (zeroise s)) fun _ => Status.modeAbort
    .next (planLockdown (logCase s 0 .security 0) 0x15 0)

end Sys2Proof.Machine
end

