-- ==== Sys2Proof/Machine/Capture.lean ====
section
/-! DEFINITION. Freeze and its capture port (13 R419 to R425, R428, R429), FRZ_MISUSE (R422), and the IEEE 1149.1 test
port with the boundary register (14 R449, R450). -/
namespace Sys2Proof.Machine

/-- White and Red, the lifecycles that allow an unarmed freeze and region 12 (Table 13-6). -/
def openLifecycle (s : State) : Bool := lifecycle s.fuse == .white || lifecycle s.fuse == .red

/-- FRZ_N is not sampled in Vault, in Freeze, or in Start before the end of S1 (R419). -/
def frzSampled (s : State) : Bool :=
  s.mode.mode != .vault && s.mode.mode != .freeze &&
    !(s.mode.mode == .start && (s.start.stage == .h || s.start.stage == .s1)) && s.clock.phase != .stopped

/-! ## Arming (R420, R421) -/

/-- The arm takes effect at the command's commit point; the immediate trigger is observed there. -/
def applyArm (s : State) (e : Entry) : State :=
  let on := (Entry.arg e).getLsbD 0
  let trig := BitVec.ofNat 2 (field (Entry.a e 0) 0 2)
  let s := { s with frz := { s.frz with
    armed := on, trig := if on then trig else 0, mtch := if on then (Entry.a e 0).extractLsb' 12 20 else 0,
    trigger := if on ∧ trig = 3 ∧ s.frz.trigger.isNone then some (3, s.clock.frame) else s.frz.trigger } }
  s.raise { LogRec.base 0x073 7 0 with payload := [(frzStat s.frz).toNat] }

/-- The arms that end at this commit point. -/
def applyArms (s : State) : State :=
  (mgmtEntries s).foldl (fun s x =>
    if Entry.opcode x.2.head = 0x4B ∧ x.2.stage = .finished ∧ ¬ x.2.done ∧ x.2.status = Status.success then
      applyArm s x.2.head
    else s) s

/-! ## Triggers (R421, R423) -/

/-- A trigger is observed, unless a Lockdown is already under way. -/
def triggerFreeze (s : State) (code : BitVec 3) : State :=
  if s.frz.trigger.isSome ∨ (s.mode.plan.map (·.rank)).getD 70 < 30 then s
  else { s with frz := { s.frz with trigger := some (code, s.clock.frame) } }

/-- FREEZE_PIN_TRIGGER: the second low sample, with the device armed or the lifecycle open. -/
def execFreezePinTrigger (s : State) : Result :=
  if frzSampled s ∧ (s.frz.armed ∨ openLifecycle s) then
    .next (triggerFreeze { s with frz := { s.frz with pin := false } } (if s.frz.armed then 0 else 4))
  else .next s

/-- FREEZE_FRAME_MATCH. -/
def execFreezeFrameMatch (s : State) : Result :=
  if frzSampled s ∧ s.frz.armed ∧ s.frz.trig = 1 ∧ s.clock.frame % 2 ^ 20 = s.frz.mtch.toNat then
    .next (triggerFreeze s 1)
  else .next s

/-- The device's port and engine buffers, cleared in Grey and Black (Table 13-6). -/
def scrubBuffers (s : State) : State :=
  if openLifecycle s then s
  else
    let one := fun q : PortSt => { q with
      withheld := [],
      rings := q.rings.map fun x => { x with taken := x.taken.map fun t =>
        { t with param := none, data := [], reply := [], items := t.items.map fun i => { i with data := none } } } }
    { s with portA := one s.portA, portB := one s.portB, shifts := [],
             eng := { s.eng with rekey := { s.eng.rekey with moved := [] } } }

/-- FREEZE_ENTRY: after the commit point of frame F, with no commit point of its own (R421). -/
def execFreezeEntry (s : State) : Result :=
  if s.frz.trigger.isNone ∨ s.clock.phase ≠ .commit then .next s
  else
    let at_ := s.mode.mode
    let s := scrubBuffers (zeroise s)
    let s := s.modMode fun m =>
      { m with prior := m.mode, mode := .freeze, cause := 0x12, src := 0, slot := 7, entry := s.clock.frame, chg := true,
               pend := false, plan := none }
    .next { s with clock := { s.clock with phase := .stopped }, free := s.free + 1,
                   frz := { s.frz with armed := false, modeAt := at_, ready := false, pos := 0, capDat := true,
                                       rtcAt := s.clock.rtc, stopped := false, seed := s.free } }

/-! ## The capture stream (R424, R425) -/

/-- Region lengths (Table 13-8); region 12 only in White and Red. -/
def regionLen (s : State) : Nat → Nat
  | 1 => 524288 | 2 => 524288 | 3 => 36928 | 4 => 65536 | 5 => 131072 | 6 => 4194304 | 7 => 8448 | 8 => 32768
  | 9 => 524288 | 10 => 17408 | 11 => 2048 | 12 => if openLifecycle s then 65536 else 0
  | _ => 0

def streamLen (s : State) : Nat := 64 + (((List.range 12).map fun i => regionLen s (i + 1) + 32).sum)

/-- The image header (Table 13-7). -/
def imageHead (s : State) : Bytes :=
  let t := s.frz.trigger.getD (0, 0)
  let bs := leBytes 8 0x4156363646525A31 ++ container t.2 ++ leBytes 1 t.1.toNat ++
    leBytes 1 (lcCode (lifecycle s.fuse)) ++ leBytes 1 (modeCode s.frz.modeAt) ++
    leBytes 1 (if openLifecycle s then 1 else 7) ++ leBytes 4 12 ++ leBytes 8 (streamLen s) ++ leBytes 8 s.frz.rtcAt ++
    zeros 20
  bs ++ dwBytes (crc32c bs)

/-- A free byte of the image. -/
def freeByte (s : State) (id o : Nat) : Byte := Config.captureByte s.frz.seed (id * 2 ^ 32 + o)

/-- The tag of a line (08 Table 8-3), a 64-bit container. -/
def lineTag (l : CLine) : Bytes :=
  let parity := fun (lo n v : Nat) => ((List.range n).filter fun i => v / 2 ^ (lo + i) % 2 = 1).length % 2
  let v := 1 + l.pos.val * 2 + l.d % 2 ^ 36 * 2 ^ 4 + l.key.val * 2 ^ 40 + l.sv.toNat * 2 ^ 46 + l.sd.toNat * 2 ^ 50 +
    bit l.lock * 2 ^ 54
  leBytes 8 (v + parity 0 30 v * 2 ^ 60 + parity 30 30 v * 2 ^ 61)

/-- The stripe-cache line in place n, set-major and way-minor. -/
def lineAt (s : State) (n : Nat) : Option CLine := s.cache.lines.find? fun l => l.set == n / 16 && l.way == n % 16

/-- A byte of a list, free where there is none. -/
def byteOr (s : State) (bs : Option Bytes) (i id o : Nat) : Byte :=
  match bs with
  | some bs => bs.getD i 0
  | none => freeByte s id o

/-- Byte o of a complex's tightly coupled memory, whose 36-bit words stand as containers: a state word that a record has
brought reads as it, any other word is free. -/
def tcmByte (s : State) (c : Cx) (id o : Nat) : Byte :=
  match (if plans (s.cx.of c) then s.cx.words.find? fun w => w.1.toNat == o / 8 else none) with
  | some w => (container w.2.toNat).getD (o % 8) 0
  | none => if o % 8 < 4 then freeByte s id o else if o % 8 = 4 then freeByte s id o &&& 0x0F else 0

/-- An order tag as its 64 bits (12 Table 12-2), in the copy of a complex. -/
def orderTagBytes (t : OrderTag) (c : Cx) : Bytes :=
  leBytes 8 (t.frame.toNat + t.index.toNat * 2 ^ 20 + bit (c == .slate) * 2 ^ 28 + bit t.wc * 2 ^ 29 + bit t.priv * 2 ^ 30 +
    t.digest.toNat * 2 ^ 32)

/-- Byte o of the order gate's region: the tags of the frame's orders, in the copies of the complexes that plan; bodies and
the token record are not laid out, and free. -/
def gateByte (s : State) (id o : Nat) : Byte :=
  if o < 64 ∨ 8 ≤ (o - 64) % 72 then freeByte s id o
  else
    let k := (o - 64) / 72
    let c : Cx := if k < 256 then .umber else .slate
    match (if plans (s.cx.of c) then s.gate.tags[k % 256]? else none) with
    | some t => (orderTagBytes t c).getD ((o - 64) % 72) 0
    | none => freeByte s id o

/-- Byte o of a region's content. The token record, the orders' bodies, the order of the prefetch entries, the metadata
cache, core state and internal test registers are not described: their bytes are free. -/
def regionByte (s : State) (id o : Nat) : Byte :=
  match id with
  | 1 => tcmByte s .umber id o
  | 2 => tcmByte s .slate id o
  | 3 => gateByte s id o
  | 4 =>
    let p : Port := if o < 32768 then .a else .b
    (dwBytes (bar0Read s p (o % 32768 / 4 * 4))).getD (o % 4) 0
  | 5 =>
    match lineAt s (o / 8) with
    | some l => (lineTag l).getD (o % 8) 0
    | none => if o % 8 = 0 then freeByte s id o &&& 0xFE else freeByte s id o
  | 6 => byteOr s ((lineAt s (o / 256)).map (·.data)) (o % 256) id o
  | 7 => byteOr s ((s.cache.victim[o / 264]?).map fun l => lineTag l ++ l.data) (o % 264) id o
  | 10 =>
    let r := o / 128
    let rec_ := if r < 128 then s.log.general[r]? else s.log.reserved[r - 128]?
    byteOr s (rec_.map fun x => (recWords x).flatMap container) (o % 128) id o
  | _ => freeByte s id o

/-- The framing of a region: header, content, trailer. -/
def regionHead (s : State) (id : Nat) : Bytes :=
  leBytes 4 id ++ leBytes 4 (bit (decide (regionLen s id ≠ 0))) ++ leBytes 8 (regionLen s id)
def regionTail (s : State) (id : Nat) : Bytes :=
  dwBytes (crc32c (regionHead s id ++ (List.range (regionLen s id)).map (regionByte s id))) ++ zeros 12
def framedByte (s : State) (id o : Nat) : Byte :=
  if o < 16 then (regionHead s id).getD o 0
  else if o < 16 + regionLen s id then regionByte s id (o - 16)
  else (regionTail s id).getD (o - 16 - regionLen s id) 0

/-- The byte at offset o of the framed regions from `id` on; all ones after the last. -/
def regionsByte (s : State) : List Nat → Nat → Byte
  | [], _ => 0xFF
  | id :: ids, o => if o < regionLen s id + 32 then framedByte s id o else regionsByte s ids (o - (regionLen s id + 32))

/-- Byte o of the stream. -/
def streamByte (s : State) (o : Nat) : Byte :=
  if o < 64 then (imageHead s).getD o 0 else regionsByte s ((List.range 12).map (· + 1)) (o - 64)

/-- CAPTURE_READY: the scrub ends and CAP_DAT goes low. -/
def execCaptureReady (s : State) : Result :=
  if s.mode.mode ≠ .freeze ∨ s.frz.ready ∨ s.frz.stopped then .next s
  else .next { s with frz := { s.frz with ready := true, pos := 0, capDat := false } }

/-- CAPTURE_RESTART: FRZ_N high, then low. -/
def execCaptureRestart (s : State) : Result :=
  if s.mode.mode ≠ .freeze ∨ ¬ s.frz.ready then .next s
  else .next { s with frz := { s.frz with pos := 0, capDat := false, pin := false } }

/-- CAP_CLK_FALLING_EDGE: the next stream bit, bit 0 of each byte first, or 1 after the last. -/
def execCapClkFallingEdge (s : State) : Result :=
  if s.mode.mode ≠ .freeze ∨ ¬ s.frz.ready then .next s
  else
    let n := s.frz.pos
    if n < 8 * streamLen s then
      .next { s with frz := { s.frz with pos := n + 1, capDat := (streamByte s (n / 8)).getLsbD (n % 8) } }
    else .next { s with frz := { s.frz with capDat := true } }

/-- FRZ_MISUSE (R422): the unarmed pin in Grey and Black, or CAP_CLK edges outside Freeze. -/
def execFrzMisuse (m : Misuse) (s : State) : Result :=
  match m with
  | .unarmedPin =>
    if frzSampled s ∧ ¬ s.frz.armed ∧ ¬ openLifecycle s then
      .next (tamper { s with frz := { s.frz with pin := false } } .frzMisuse)
    else .next s
  | .capClk => if s.mode.mode = .freeze ∨ s.mode.mode = .vault then .next s else .next (tamper s .frzMisuse)

/-! ## Device-level errors (R409) -/

/-- DEVICE_LEVEL_ERROR. -/
def execDeviceLevelError (e : DevErr) (s : State) : Result := .next (deviceError s e)

/-! ## The test port (14 R449) -/

/-- Instructions that drive pins take effect in Service, in Factory and in a halt of Start (R449). -/
def pinsMode (s : State) : Bool :=
  s.mode.mode == .service || s.mode.mode == .factory || (s.mode.mode == .start && s.start.halt)

/-- The instruction a code selects, as the code whose action it takes: every other code acts as BYPASS. -/
def scanAct (s : State) (code : BitVec 8) : BitVec 8 :=
  if code = 1 then code
  else if code = 0 ∨ code = 2 ∨ code = 3 then (if pinsMode s then code else 0xFF)
  else if 0x80 ≤ code.toNat ∧ code.toNat ≤ 0x8F then (if openLifecycle s then code else 0xFF)
  else 0xFF

/-- The balls of the boundary register in the order of R450: 0 to 3 the host ports' PERST_N and CLKREQ_N, 4 to 21 each
slot's PERST_N, CLKREQ_N and PRSNT_N, 22 to 24 AUX1 to AUX3, then FRZ_N, CAP_CLK, CAP_DAT and STRAP_PW. These can drive
(Table 14-5). -/
def ballOut (i : Nat) : Bool :=
  i == 1 || i == 3 || (decide (4 ≤ i) && decide (i < 22) && i % 3 == 1) || (decide (22 ≤ i) && decide (i < 25)) || i == 27

/-- What the device itself drives on a ball; `none` is high impedance. A host port holds CLKREQ# low while it needs its
clock (04 R117); Mn_PERST_N is low while the rail is off. -/
def coreDrives (s : State) (i : Nat) : Option Bool :=
  let clkreq := fun q : PortSt => if q.phy && !q.l12 then some false else none
  if i = 1 then clkreq s.portA
  else if i = 3 then clkreq s.portB
  else if h : 4 ≤ i ∧ i < 22 then
    let x := s.slot ⟨(i - 4) / 3, by omega⟩
    if i % 3 = 1 then some (x.rail && !x.perst) else none
  else if i = 22 then auxDrives s 1
  else if i = 23 then auxDrives s 2
  else if i = 24 then auxDrives s 3
  else if i = 27 then some s.frz.capDat
  else none

/-- What a ball carries out of the device: EXTEST and CLAMP put the held cells on the balls that can drive, HIGHZ nothing. -/
def ballDrives (s : State) (i : Nat) : Option Bool :=
  if ¬ pinsMode s ∨ ¬ ballOut i then coreDrives s i
  else if s.scanIr = 0 ∨ s.scanIr = 3 then
    if s.scanHold.getLsbD (2 * i + 1) then some (s.scanHold.getLsbD (2 * i)) else none
  else if s.scanIr = 2 then none
  else coreDrives s i

/-- Capture: cell 2i takes the level at ball i, which is the outside's where the device does not drive it, and cell 2i + 1
the device's own output enable. -/
def scanCapture (s : State) (levels : BitVec 29) : BitVec 58 :=
  BitVec.ofNat 58 (((List.range 29).map fun i =>
    2 ^ (2 * i) * bit ((ballDrives s i).getD (levels.getLsbD i)) +
    2 ^ (2 * i + 1) * bit (coreDrives s i).isSome).sum)

/-- One data scan: each bit of TDI enters the last cell and cell 0 leaves on TDO. -/
def scanShift : List Bool → BitVec 58 → List Bool × BitVec 58
  | [], c => ([], c)
  | b :: bs, c =>
    let r := scanShift bs ((c >>> 1) ||| (BitVec.ofNat 58 (bit b * 2 ^ 57)))
    (c.getLsbD 0 :: r.1, r.2)

/-- The data scan of the selected register: the boundary register under EXTEST and SAMPLE/PRELOAD, an internal test
register, or the bypass bit, which captures 0. PRESUMED (log entry 80): IEEE 1149.1's capture, shift and update. -/
def dataScan (s : State) (tdi : List Bool) (levels : BitVec 29) : State :=
  if tdi = [] then s
  else if s.scanIr = 0 ∨ s.scanIr = 1 then
    let r := scanShift tdi (scanCapture s levels)
    { s with scanCells := r.2, scanHold := r.2 }.emit (.tdo r.1)
  else if 0x80 ≤ s.scanIr.toNat ∧ s.scanIr.toNat ≤ 0x8F then
    { s with free := s.free + tdi.length }.emit (.tdo ((List.range tdi.length).map fun i => Config.testBit (s.free + i)))
  else s.emit (.tdo (false :: tdi.dropLast))

/-- BOUNDARY_SCAN_INSTRUCTION: an instruction is loaded, and a data scan may follow it. One that drives pins acts as BYPASS
outside Service, Factory and a halt of Start, with NOTE 0xF07. -/
def execBoundaryScanInstruction (x : Scan) (s : State) : Result :=
  let act := scanAct s x.code
  let s := { s with scanIr := act }
  let s := if (x.code = 0 ∨ x.code = 2 ∨ x.code = 3) ∧ act = 0xFF then logNote s 0 0xF07 7 else s
  .next (dataScan s x.tdi x.levels)

/-- TEST_LOGIC_RESET: BYPASS is selected. -/
def execTestLogicReset (s : State) : Result := .next { s with scanIr := 0xFF }

/-! ## VBAT (14 R443, R445) -/

/-- The always-on domain loses its state: comparators, latch and real-time counter. -/
def loseAon (s : State) : State :=
  let s := dropAcmp s fun _ => true
  let s := s.modSec fun c => { c with latch := false, first := 0, seen := 0, latchRtc := 0, latchFrame := none, cwin := none, confRun := false }
  { s with clock := { s.clock with rtc := 0, aonLost := true } }

/-- VBAT_LOST: with VIN absent. -/
def execVbatLost (s : State) : Result :=
  if s.supply.vin ∨ ¬ s.supply.vbat then .next s
  else .next (loseAon { s with supply := { s.supply with vbat := false } })

/-- VBAT_RESTORED: the right way round, the domain restarts at 0 with its power-lost flag set. -/
def execVbatRestored (s : State) : Result :=
  if s.supply.vin ∨ aonAlive s then .next s
  else .next { s with supply := { s.supply with vbat := true, vbatReversed := false }, clock := { s.clock with rtc := 0, aonLost := true } }

end Sys2Proof.Machine
end

