-- ==== Sys2Proof/Machine/MembersCmd.lean ====
section
/-! DEFINITION. MEMBER and REBUILD (09 R282 to R286, R290, R293), the shared pool's background claimants (02 R57, R58) and
ENGINE_BUFFER_RELEASE. -/
namespace Sys2Proof.Machine

/-! ## The background engines' staging buffers (02 R57, Table 2-10) -/

/-- ENGINE_BUFFER_RELEASE (R57): at its boundary the engine gives up what it was asked for, or, below its minimum, all it
has, and pauses; an engine that has stopped gives up all. The PREP belongs to this frame. -/
def execEngineBufferRelease (e : Engine) (s : State) : Result :=
  let mine := ownedIdx s (.engine e)
  let n := if engOn s e then engAsked s e else mine.length
  if n = 0 ∨ mine = [] ∨ ¬ engAtBoundary s e then .next s
  else
    let pause := engOn s e && decide (mine.length < n + engMinimum e)
    let give := if pause then mine else mine.drop (mine.length - n)
    let s := modBufs s fun i b => if give.contains i then { b with owner := .releasing e } else b
    .next (setEngPool (addPriv s (.engineFree e give)) e 0 (pause || engPaused s e))

/-! ## MEMBER (R293, Table 9-8) -/

/-- The slot and the failed slot a MEMBER command names; numbers above 5 name none. -/
def argSlot (w : W32) (lo : Nat) : Option SlotN := if h : field w lo 3 < 6 then some ⟨field w lo 3, h⟩ else none

/-- MEMBER attach: bring-up begins with the EXEC that switches the rail on; a slot still powering down is waited for. -/
def execMemberAttach (p : Port) (i : Nat) (s : State) : Result :=
  match subVisit s p i 0x38 1 with
  | none => .next s
  | some (f, t) =>
    match argSlot (Entry.arg t.head) 8 with
    | none => fails s f Status.badField
    | some m =>
      let st := (s.slot m).state
      let ok := st == .empty || st == .failed || st == .detached || st == .powerFault
      if ¬ ok ∨ ¬ (s.slot m).present ∨ slotBad s m then fails s f Status.slotState
      else if (s.slot m).pd.isSome then .next s
      else .next (setStage (addPriv s (.attach f m)) f .exec)

/-- Would a detach of the position leave more than m positions unavailable? -/
def detachExceeds (s : State) (p : PosN) : Bool := match s.array with
  | some a => decide (layoutM s < (lacking s a).length + bit (!(lacking s a).contains p))
  | none => false

/-- MEMBER detach. -/
def execMemberDetach (p : Port) (i : Nat) (s : State) : Result :=
  match subVisit s p i 0x38 2 with
  | none => .next s
  | some (f, t) =>
    match argSlot (Entry.arg t.head) 8 with
    | none => fails s f Status.badField
    | some m =>
      match posOfSlot s m with
      | none => fails s f Status.slotState
      | some q =>
        if (s.slot m).state ≠ .member then fails s f Status.slotState
        else if detachExceeds s q then fails s f Status.redundancy
        else .next (setStage (addPriv s (.detach f m)) f .exec)

/-- The EXEC of a detach: the position becomes missing and the slot powers down after its orders; the reply waits for the
superblocks. -/
def detachMember (s : State) (f : Ref) (m : SlotN) : State :=
  match posOfSlot s m with
  | none => failEntry s f Status.slotState
  | some q =>
    let s := s.modSlot m fun x => { x with state := .detached, ladder := none }
    let s := powerDown (losePos (failHeld s m) q) m false
    let s := postArray s (memberCause 0x06 m)
    let s := setStage (writeSb s (.reply f)) f .superblock
    planCond (noteCond s) 0x06 3 m.val

/-- The position a failed slot left behind. -/
def missingOf (s : State) (m : SlotN) : Option PosN := match s.array with
  | some a => (livePos a).find? fun p => (posEntry a p).slot == m && (posEntry a p).state == .missing
  | none => none

/-- The EXEC of MEMBER replace gives the position to the spare: its superblock is written with the others, and its rebuild starts or
is queued (R282). -/
def replaceMember (s : State) (f : Ref) (m : SlotN) (p : PosN) : State :=
  match s.array with
  | none => failEntry s f Status.slotState
  | some a =>
    let serial := match (s.slot m).drive with | some d => padTo 20 d.serial | none => zeros 20
    let e := posEntry a p
    let s := s.modArray fun a => setPos a p { e with state := .rebuildTarget, slot := m, serial := serial }
    let s := s.modSlot m fun x => { x with state := .member }
    let s := startTarget (raiseAg s) p .rebuild false
    let s := setStage (writeSb s (.reply f)) f .superblock
    planCond (noteCond s) 0x07 3 m.val

/-- MEMBER replace (R282): the checks, a format where the spare needs one, then the assignment, in the two-phase form. -/
def execMemberReplace (p : Port) (i : Nat) (s : State) : Result :=
  let f : Ref := { p := p, r := 0, i := i }
  match s.taken? f with
  | none => .next s
  | some t =>
    if Entry.opcode t.head ≠ 0x38 ∨ Entry.subop t.head ≠ 3 ∨ s.clock.phase ≠ .plan ∨ ¬ anyPlanning s.cx ∨
        ¬ (t.stage = .waiting ∨ t.stage = .format) then .next s
    else match argSlot (Entry.arg t.head) 8, argSlot (Entry.arg t.head) 12 with
      | some m, some old =>
        let st := (s.slot old).state
        let gone := st == .failed || st == .detached || st == .empty
        match missingOf s old with
        | none => fails s f Status.slotState
        | some q =>
          let x := s.slot m
          if x.format then .next s
          else if x.state ≠ .spare ∨ x.step ≠ 8 ∨ x.drive.isNone ∨ x.pd.isSome ∨ ¬ gone ∨ ¬ bigEnough s m then
            fails s f Status.slotState
          else if needsFormat s m then .next (setStage (startFormat s m) f .format)
          else .next (setStage (addPriv s (.replace f m q)) f .exec)
      | _, _ => fails s f Status.badField

/-- MEMBER locate on and off: the SLOT_LED pattern (02 R54). -/
def locate (s : State) (p : Port) (i sub : Nat) (on : Bool) : Result :=
  match subVisit s p i 0x38 sub with
  | none => .next s
  | some (f, t) =>
    match argSlot (Entry.arg t.head) 8 with
    | none => fails s f Status.badField
    | some m => .next (planAct s f (.locate m on))

/-- Its effect, at the commit point. -/
def locateAct (s : State) (f : Ref) (m : SlotN) (on : Bool) : State :=
  let b : BitVec 6 := BitVec.ofNat 6 (2 ^ m.val)
  finishEntry (s.modMode fun x => { x with locate := if on then x.locate ||| b else x.locate &&& ~~~b }) f
    Status.success []

def execMemberLocateOn (p : Port) (i : Nat) (s : State) : Result := locate s p i 4 true
def execMemberLocateOff (p : Port) (i : Nat) (s : State) : Result := locate s p i 5 false

/-! ## REBUILD (R282, R285, R286, R290) -/

/-- REBUILD start: resumes the stopped target from W, or runs another from its qw; the stopped one is then queued. -/
def startNamed (s : State) (a : ArraySt) (p : PosN) : State :=
  let kind := kindOf (posEntry a p)
  if a.rbKind ≠ .none ∧ a.rbTarget = p then runTarget s p kind a.w
  else
    let from_ := if a.queued = some p then a.qw else 0
    let s := if a.rbKind = .none then s.modArray fun a => { a with queued := if a.queued = some p then none else a.queued }
      else s.modArray fun a => { a with queued := some a.rbTarget, qw := a.w }
    runTarget s p kind from_

/-- REBUILD start (R282, R286). -/
def execRebuildStart (p : Port) (i : Nat) (s : State) : Result :=
  match subVisit s p i 0x39 1, s.array with
  | some (f, t), some a =>
    match argSlot (Entry.arg t.head) 8 with
    | none => fails s f Status.badField
    | some m =>
      if s.eng.rebuild.running then fails s f Status.engineBusy
      else match posOfSlot s m with
        | none => fails s f Status.slotState
        | some q =>
          if ¬ isTarget (posEntry a q) then fails s f Status.slotState
          else
            let same : Bool := a.rbKind != .none && a.rbTarget == q
            let s := noteCond (startNamed s a q)
            let s := planCond s 0x07 (portSrc p) 7
            if same then done s f [] else .next (setStage (writeSb s (.reply f)) f .superblock)
  | some (f, _), none => fails s f Status.slotState
  | none, _ => .next s

/-- REBUILD stop: at the engine's next boundary; W is persisted (R286). -/
def execRebuildStop (p : Port) (i : Nat) (s : State) : Result :=
  match subVisit s p i 0x39 2 with
  | none => .next s
  | some (f, _) =>
    if ¬ s.eng.rebuild.running then done s f []
    else if s.eng.rebuild.stop then .next s
    else
      let s := { s with eng := { s.eng with rebuild := { s.eng.rebuild with stop := true, ref := some f } } }
      .next (engineBoundary (setStage s f .superblock))

/-- Scrub start (R290, 02 R58): its minimum is met from free buffers that no higher rank waits for, or CONFLICT. -/
def execScrubStart (p : Port) (i : Nat) (s : State) : Result :=
  match subVisit s p i 0x39 3 with
  | none => .next s
  | some (f, _) =>
    if s.array.isNone then fails s f Status.slotState
    else if s.eng.scrub.running then fails s f Status.engineBusy
    else if spareBufs s - rotateNeed s + engOwn s .scrub < 8 then fails s f Status.conflict
    else
      let s := takeBufs s (8 - engOwn s .scrub) (.engine .scrub)
      done { s with eng := { s.eng with scrub := { EngSt.init with running := true } } } f []

/-- Scrub stop: at the boundary; the scrub row is persisted (R290). -/
def execScrubStop (p : Port) (i : Nat) (s : State) : Result :=
  match subVisit s p i 0x39 4 with
  | none => .next s
  | some (f, _) =>
    if ¬ s.eng.scrub.running then done s f []
    else if s.eng.scrub.stop then .next s
    else
      let s := { s with eng := { s.eng with scrub := { s.eng.scrub with stop := true, ref := some f } } }
      .next (engineBoundary (setStage s f .superblock))

/-- The engine split (R285): weights that sum to 8 go to the root store with the EXEC. -/
def execEngineSplit (p : Port) (i : Nat) (s : State) : Result :=
  match subVisit s p i 0x39 5 with
  | none => .next s
  | some (f, t) =>
    let w := Entry.a t.head 0
    if field w 0 4 + field w 4 4 + field w 8 4 ≠ 8 then fails s f Status.badField
    else .next (setStage (addPriv s (.split f w)) f .exec)

end Sys2Proof.Machine
end

