-- ==== Sys2Proof/Machine/LayoutCmd.lean ====
section
/-! DEFINITION. LAYOUT_LOAD and LAYOUT_SWAP (07 R214, R222 to R231) and the completion of superblock updates (09 R271),
with the effects that wait for it. -/
namespace Sys2Proof.Machine

/-! ## LAYOUT_LOAD (R214, R222) -/

/-- The words an image of n containers holds; `none` where a container has a bit above 35. -/
def imageWords (n : Nat) (bs : Bytes) : List (Option W36) :=
  (List.range n).map fun i =>
    let v := leNat (slice bs (8 * i) 8)
    if v < 2 ^ 36 then some (BitVec.ofNat 36 v) else none

/-- The evaluations of a load in order: every class of every member count the header names (R214). -/
def loadPairs (prog : List W36) : List (Nat × Nat) :=
  let lo := hdrNmin (progHeader prog)
  (List.range (hdrNmax (progHeader prog) + 1 - lo)).flatMap fun i =>
    (List.range (progPeriod prog (lo + i))).map fun c => (lo + i, c)

/-- Does an evaluation fail: no descriptor, a k that is not the first class's, or an erasure check? -/
def pairFails (prog : List W36) (x : Nat × Nat) : Bool :=
  match evaluate prog x.1 x.2, evaluate prog x.1 0 with
  | some d, some d0 => d.k != d0.k || !erasureOk d (progM prog)
  | _, _ => true

/-- The checks that come before any evaluation: words, header, branch targets. -/
def staticOk (ws : List (Option W36)) : Bool :=
  let prog := ws.map (·.getD 0)
  ws.all Option.isSome && decide (2 ≤ prog.length) && hdrOk (progHeader prog) && (prog.drop 1).all wordOk &&
  targetsOk prog && staysInside prog

/-- Evaluations a validation makes: none where a static check fails, else those up to the first that fails. -/
def loadEvals (ws : List (Option W36)) : Nat :=
  let prog := ws.map (·.getD 0)
  if ¬ staticOk ws then 0
  else match (loadPairs prog).findIdx? (pairFails prog) with
    | some i => i + 1
    | none => (loadPairs prog).length

/-- The frames of a validation: 32 evaluations are made in a frame (R214). -/
def loadFrames (ws : List (Option W36)) : Nat := max 1 ((loadEvals ws + 31) / 32)

/-- The word at which a run stops: its fault, its END, or the instruction the limit of R207 cuts off. -/
def stopWord (n m : Nat) (prog : List W36) : Nat → SeqRun → Nat
  | 0, r => r.pc
  | fuel + 1, r => match seqStep n m (prog.getD r.pc 0) r with
    | .go r' => stopWord n m prog fuel r'
    | _ => r.pc

/-- Is a code word wrong by itself: no instruction of Table 7-3, a branch out of the image, or the last word of a path that
runs past it (R209 to R211)? -/
def wordFails (prog : List W36) (pc : Nat) : Bool :=
  let w := prog.getD pc 0
  !wordOk w || (isBranch w && !(decide (1 ≤ branchTarget pc w) && decide (branchTarget pc w < (prog.length : Int)))) ||
  (targetsOk prog && fallsThrough w && pc + 1 == prog.length && (reach prog (prog.length + 1) [1] [1]).contains pc)

/-- The first failing word, n and class of an image (R222): a word that fails by itself has no n and no class; an evaluation
names the word it stopped at. -/
def firstFault (ws : List (Option W36)) : Nat × Nat × Nat :=
  let prog := ws.map (·.getD 0)
  let bad := fun pc : Nat => (ws.getD pc none).isNone || (pc == 0 && !hdrOk (progHeader prog)) || (pc != 0 && wordFails prog pc)
  match (List.range prog.length).find? bad with
  | some pc => (pc, 0, 0)
  | none => match (loadPairs prog).find? (pairFails prog) with
    | some x => (stopWord x.1 (progM prog) prog 2048 (SeqRun.init x.1 x.2), x.1, x.2)
    | none => (0, 0, 0)

/-- The programs of the two banks. -/
def bankProg (s : State) (b : Bool) : List W36 := if b then s.seq.bank1 else s.seq.bank0

def setBank (s : State) (b : Bool) (ws : List W36) : State :=
  if b then { s with seq := { s.seq with bank1 := ws } } else { s with seq := { s.seq with bank0 := ws } }

/-- LAYOUT_LOAD: the image is copied from the buffer, and its validation starts in the next frame. -/
def execLayoutLoad (p : Port) (i : Nat) (s : State) : Result :=
  match mgmtVisit s p i 0x3A with
  | none => .next s
  | some (f, t) =>
    let bank := (Entry.arg t.head).getLsbD 0
    let h := Entry.a t.head 0
    let n := (Entry.a t.head 1).toNat
    let swaps : Bool := match s.seq.swap with
      | some w => w.bank == bank
      | none => false
    if n < 2 ∨ 1024 < n then fails s f Status.badField
    else if handleCheck s p h ≠ Status.success then handleFails s f h (handleCheck s p h)
    else if s.seq.active = some bank then fails s f Status.bankActive
    else if swaps then fails s f Status.conflict
    else if s.seq.load.isSome then .next s
    else
      let bs := Memory.read s.staging.mem (bufAddr (handleIndex h) 0) (8 * n)
      let s := { s with seq := { s.seq with load := some (bank, f) } }
      .next (s.modTaken f fun t => { t with data := bs, stage := .validation, frame := s.clock.frame })

/-- LAYOUT_VALIDATION_END, in the Plan phase of the frame in which the validation ends: the bank holds the program, or is empty and the load is BAD_FIELD with its record (R222). -/
def execLayoutValidationEnd (s : State) : Result :=
  match s.seq.load with
  | none => .next s
  | some (bank, f) =>
    match s.taken? f with
    | none => .next { s with seq := { s.seq with load := none } }
    | some t =>
      if t.stage ≠ .validation then .next { s with seq := { s.seq with load := none } } else
      let ws := imageWords (Entry.a t.head 1).toNat t.data
      let prog := ws.map (·.getD 0)
      let ok := ws.all Option.isSome && validate prog
      if ¬ planPhase s ∨ s.clock.frame < t.frame + loadFrames ws then .next s
      else
        let s := setBank { s with seq := { s.seq with load := none } } bank (if ok then prog else [])
        if ok then done s f []
        else
          let x := firstFault ws
          let s := s.raise { LogRec.base 0x07F 7 0 with
            src := BitVec.ofNat 3 (portSrc f.p), status := Status.badField,
            payload := [(Config.noteCause (Logged.tag .load)).toNat, x.1, x.2.1, x.2.2] }
          fails s f Status.badField

/-! ## LAYOUT_SWAP (R223, R224) -/

/-- Data units of a program for n members. -/
def progK (prog : List W36) (n : Nat) : Nat := match buildTable prog n with
  | d :: _ => d.k
  | [] => 0

/-- Step 1: the header admits n, and k and m equal the active program's. -/
def swapFits (s : State) (a : ArraySt) (prog : List W36) : Bool :=
  decide (hdrNmin (progHeader prog) ≤ a.n) && decide (a.n ≤ hdrNmax (progHeader prog)) &&
  progM prog == progM (activeProg s) && progK prog a.n == layoutK s

/-- Rows of shadow verification: all of them, or those up to the first that differs. -/
def shadowRows (old new : List W36) (n : Nat) : Nat :=
  let rows := Nat.lcm (progPeriod old n) (progPeriod new n)
  match (List.range rows).findIdx? fun r => evaluate old n (r % progPeriod old n) != evaluate new n (r % progPeriod new n) with
  | some i => i + 1
  | none => rows

/-- The frames of shadow verification, at 32 rows a frame. -/
def shadowFrames (old new : List W36) (n : Nat) : Nat := max 1 ((shadowRows old new n + 31) / 32)

/-- LAYOUT_SWAP: its checks, and shadow verification, or activation in the next frame where no array is assembled. -/
def execLayoutSwap (p : Port) (i : Nat) (s : State) : Result :=
  match mgmtVisit s p i 0x3B with
  | none => .next s
  | some (f, t) =>
    let bank := (Entry.arg t.head).getLsbD 0
    let loading : Bool := match s.seq.load with
      | some (b, _) => b == bank
      | none => false
    let begin_ := fun (st : SwapStep) =>
      let w : Swap := { bank := bank, force := (Entry.arg t.head).getLsbD 8, ref := f, step := st, frame := s.clock.frame }
      Host.Outcome.next (setStage { s with seq := { s.seq with swap := some w } } f .swap)
    if s.seq.swap.isSome then fails s f Status.conflict
    else if loading then .next s
    else if s.seq.active = some bank ∨ bankProg s bank = [] then fails s f Status.bankActive
    else match s.array with
      | none => begin_ .activate
      | some a => if swapFits s a (bankProg s bank) then begin_ .verify else fails s f Status.layoutMismatch

/-- The swap ends without a change: its status, and the hold is over, both at the commit point. -/
def failSwap (s : State) (w : Swap) (st : Status) : State :=
  failEntry { s with seq := { s.seq with swap := none } } w.ref st

/-- SHADOW_VERIFICATION_END, in the Plan phase of the frame in which it ends: the drain begins, with the hold at this frame's
commit point. -/
def execShadowVerificationEnd (s : State) : Result :=
  match s.seq.swap, s.array with
  | some w, some a =>
    let old := activeProg s
    let new := bankProg s w.bank
    if ¬ planPhase s ∨ w.step ≠ .verify ∨ s.clock.frame < w.frame + shadowFrames old new a.n then .next s
    else if shadowOk old new a.n then
      .next { s with seq := { s.seq with swap := some { w with step := .drain, frame := s.clock.frame } } }
    else .next (failSwap s w Status.layoutMismatch)
  | _, _ => .next s

/-- Every running shift is abandoned: its reads come back to nothing, its planned writes are withdrawn (R224). -/
def abandonShifts (s : State) : State :=
  let s := s.shifts.foldl (fun s x => lockWindow s x false) s
  let mine := fun o : MOrder => match o.owner with
    | .shift .. => true
    | _ => false
  let keep := fun o : Order => match o with
    | .member o => !mine o
    | _ => true
  { s with shifts := [], morders := s.morders.map fun o => if mine o then { o with owner := .none } else o,
           gate := { s.gate with orders := s.gate.orders.filter keep } }

/-- SWAP_DRAIN_END, in a Plan phase: no shift runs, or force has its way; the superblock writes go out (R223 to R225). -/
def execSwapDrainEnd (s : State) : Result :=
  match s.seq.swap with
  | none => .next s
  | some w =>
    if ¬ planPhase s ∨ w.step ≠ .drain ∨ ¬ s.seq.hold then .next s
    else
      let persist := fun s : State =>
        writeSb { s with seq := { s.seq with swap := some { w with step := .persist } } } .swap
      if s.shifts.isEmpty then .next (persist s)
      else if ¬ w.force then .next s
      else if s.shifts.any (·.released) then .next (failSwap s w Status.shiftCommitted)
      else .next (persist (abandonShifts s))

/-- A commit point's part of a swap: the hold begins, or ends with a swap that failed, or, as an EXEC, the bank becomes
active (R223, R224, 12 R384). -/
def commitSwap (s : State) : State :=
  match s.seq.swap with
  | none => { s with seq := { s.seq with hold := false } }
  | some w =>
    match w.step with
    | .verify => { s with seq := { s.seq with hold := false } }
    | .drain => { s with seq := { s.seq with hold := true } }
    | .activate =>
      if s.clock.frame ≤ w.frame then s
      else if ¬ gateOpen s then { s with seq := { s.seq with swap := some { w with frame := s.clock.frame } } }
      else
        let n := match s.array with | some a => a.n | none => 0
        let s := { s with seq := { s.seq with
          active := some w.bank, table := if s.array.isSome then buildTable (bankProg s w.bank) n else [],
          swap := none, hold := false } }
        finishEntry s w.ref Status.success []
    | _ => s

/-- A mode that forbids LAYOUT_SWAP takes effect before the persist step (R227). -/
def abortSwap (s : State) : State :=
  match s.seq.swap with
  | none => s
  | some w =>
    if w.step = .verify ∨ w.step = .drain ∨ (w.step = .activate ∧ s.array.isNone) then
      let s := failSwap s w Status.modeAbort
      { s with seq := { s.seq with hold := false } }
    else s

/-! ## Superblock updates complete (09 R271) -/

/-- Both root banks of a volume are cleared (10 R322). -/
def clearRoots (s : State) (v : VolN) : State :=
  setRootBank (rootWrite (rootWrite s (rootBank v false) (zeros 32)) (rootBank v true) (zeros 32)) v false

/-- The root of a new volume: version 0, in bank A, with the commit number its header is written under (R322). -/
def freshRoot (s : State) (v : VolN) (commit : Nat) : State :=
  rootWrite (clearRoots s v) (rootBank v false) (leBytes 8 0 ++ zeros 8 ++ leBytes 8 commit ++ zeros 8)

def setKeySlot (s : State) (k : Fin 64) (v : Option VolKeys) : State :=
  { s with keys := { s.keys with prim := s.keys.prim.set k.val v } }
def setShadowSlot (s : State) (k : Fin 64) (v : Option VolKeys) : State :=
  { s with keys := { s.keys with shadow := s.keys.shadow.set k.val v } }

/-- The volume is there: its key is loaded and, sealed, its header is written (10 R313, R322). -/
def volumeThere (s : State) (f : Ref) (v : VolN) (vol : Volume) (keys : VolKeys) : State :=
  let s := setKeySlot s vol.key (some keys)
  let s := if vol.isSealed then
      let h := (treeLevels vol.size).length
      let n := nextCommit s
      let (ws, _, s) := metaWrites s v [(headerLbn s vol.size, headerBytes 0 (zeros 8) (h - 1))]
      planJournal (freshRoot s v n) ws .none
    else clearRoots s v
  finishEntry s f Status.success []

/-- The journal's rekey line, in both copies, holds what the rekey record holds (10 R317, R327). -/
def rekeyLines (r : RekeyRec) : List (Nat × Bytes) :=
  [(metaBase + 64 * 16382, rekeyBytes r), (metaBase + 64 * 16383, rekeyBytes r)]

/-- The volume is gone: its keys, its root and its tags; a rekey of it ends (10 R312, R332). -/
def volumeGone (s : State) (f : Ref) (v : VolN) (key : Fin 64) : State :=
  let s := setShadowSlot (setKeySlot s key none) key none
  let s := if s.eng.rekey.vol = v ∧ s.eng.rekey.running then
      planJournal { s with eng := { s.eng with rekey := EngSts.init.rekey } } (rekeyLines RekeyRec.none) .none else s
  finishEntry (dropTags (clearRoots s v) fun e => e.vol == v) f Status.success []

/-- The new array is assembled (06 R190, 09 R459): its view, its program, its members and volume 0's root. -/
def arrayThere (s : State) (f : Ref) (view : ArraySt) : State :=
  let s := { s with array := some view,
                    seq := { s.seq with bank0 := if view.layout = 5 then s.seq.bank0 else view.prog,
                                        active := if view.layout = 5 then s.seq.active else some false,
                                        table := buildTable view.prog view.n } }
  let s := (livePos view).foldl (fun s p => s.modSlot (posEntry view p).slot fun x => { x with state := .member }) s
  let s := rootWrite s 0 (uuidBytes view.uuid)
  let s := allVols.foldl clearRoots s
  let s := freshRoot s 0 s.jnl.commitNo
  let s := { s with start := { s.start with jpend := false }, vault := { index := [], loaded := false } }
  let s := noteCond s
  finishEntry s f Status.success (container (arrayCapacity s))

/-- The array is adopted (10 R306): the root store names it and holds the roots its headers gave, the adoption is logged,
and the UNLOCK, unless a reset of its port took it, goes on to its transition. -/
def adopted (s : State) (f : Ref) (roots : List (VolN × Nat × Bytes)) : State :=
  let s := match s.array with
    | some a => rootWrite s 0 (uuidBytes a.uuid)
    | none => s
  let s := roots.foldl (fun s x => writeVolRoot s x.1 { version := x.2.1, mac := x.2.2, commit := s.jnl.commitNo }) s
  let s := logCase s (portSrc f.p) .adoption 0
  match s.taken? f with
  | some _ => planTransition s f (condMode s.mode.cond) .unlock 0x04 false
  | none => s

/-- What an update brings once its last write is observed complete. -/
def sbEffect (s : State) (e : SbEffect) : State :=
  let old := s.array
  let s := match e with
    | .arrayCreate .. => s
    | e => s.modArray fun a => applySbEffect (swapProg s) a e
  match e with
  | .none => s
  | .reply f => finishEntry s f Status.success []
  | .volumeCreate f v vol keys => volumeThere s f v vol keys
  | .volumeDelete f v => volumeGone s f v (match old with | some a => a.vtab[v.val].key | none => 0)
  | .rekeyStart f v keys w =>
    let key := match s.array with | some a => a.vtab[v.val].key | none => 0
    let s := setShadowSlot s key (some keys)
    let s := { s with eng := { s.eng with rekey := { EngSts.init.rekey with running := true, vol := v } } }
    finishEntry (planJournal s (rekeyLines { vol := v, state := 1, b := 0, wrap := w }) .none) f Status.success []
  | .rekeyEnd v => 
    let key := match s.array with | some a => a.vtab[v.val].key | none => 0
    let s := setShadowSlot (setKeySlot s key s.keys.shadow[key.val]) key none
    let s := { s with eng := { s.eng with rekey := EngSts.init.rekey } }
    planJournal s (rekeyLines RekeyRec.none) .none
  | .swap =>
    match s.seq.swap with
    | some w => { s with seq := { s.seq with swap := some { w with step := .activate, frame := obsFrame s } } }
    | none => s
  | .creds f _ _ => planAct s f .credsDone
  | .adopt f _ roots => adopted s f roots
  | .arrayCreate f view => arrayThere s f view

/-- A superblock write of the updates under way that has not completed. -/
def sbOutstanding (s : State) : Bool :=
  s.morders.any (fun o => o.owner == .superblock) ||
  s.gate.orders.any fun o => match o with
    | .member o => o.owner == .superblock
    | _ => false

/-- Is an array being created whose journal commits are not all durable (09 R459, 08 R460)? -/
def createWaits (s : State) : Bool :=
  (s.sbq.any fun u => match u.effect with | .arrayCreate .. => true | _ => false) &&
  (!s.jnl.inflight.isEmpty || !(plannedCommits s).isEmpty)

/-- Updates whose effect is privileged: they load or clear key slots and write roots (12 Table 12-4). -/
def sbPrivileged : SbEffect → Bool
  | .volumeCreate .. | .volumeDelete .. | .rekeyStart .. | .rekeyEnd _ | .arrayCreate .. | .adopt .. => true
  | _ => false

/-- What an update brings: at once, or, where it is privileged, with an EXEC whose PREP belongs to this frame (06 R174, 12
R384; log entry 73). -/
def sbWritten (s : State) (e : SbEffect) : State :=
  if ¬ sbPrivileged e then sbEffect s e
  else addPriv (match privRef (.superblock e) with
    | some f => setStage s f .exec
    | none => s) (.superblock e)

/-- SUPERBLOCK_WRITE_DONE (R271): the last write is observed, and the changes it carries take effect. -/
def execSuperblockWriteDone (s : State) : Result :=
  if s.sbq = [] ∨ sbOutstanding s ∨ createWaits s then .next s
  else
    .next ((s.sbq.map (·.effect)).foldl sbWritten { s with sbq := [] })

end Sys2Proof.Machine
end

