-- ==== Sys2Proof/Machine/Rekey.lean ====
section
/-! DEFINITION. The rekey engine (10 R327 to R332) and the journal's completions: JOURNAL_DURABLE and
JOURNAL_WRITE_FAILED (08 R236, R237, R239, 10 R318). -/
namespace Sys2Proof.Machine

/-! ## Steps (R328) -/

/-- Rekey runs in Online, Degraded and Rebuild (02 Table 2-4, R332). -/
def rekeyMode (s : State) : Bool :=
  s.mode.mode == .online || s.mode.mode == .degraded || s.mode.mode == .rebuild

/-- The window of a step: [B, B + 32) clipped to the volume. -/
def rekeyWindow (x : Volume) (b : Nat) : List Nat := (List.range (min 32 (x.size - b))).map (b + ·)

/-- A block's old content, where it is to be moved: its ciphertext, with the counter of a sealed one. A sealed block
with counter 0 and an unsealed one of zeros are skipped; so is one that cannot be read or whose tag fails, which reads go
on failing (log entry 45). -/
def rekeyTake (s : State) (media : List MediaRead) (v : VolN) (x : Volume) (ks : VolKeys) (lbn : Nat) :
    Option (Nat × Bytes) :=
  match contentNow s media v lbn with
  | none => none
  | some bs =>
    if ¬ x.isSealed then (if bs.all (· == 0) then none else some (lbn, bs))
    else match (sealedInfo s v x.size (contentNow s media v) lbn).1 with
      | .counter c tag => if c = 0 ∨ blockTag ks lbn c bs ≠ tag then none else some (lbn, bs)
      | _ => none

/-- The counter a block of a step is given. -/
def rekeyCtr (s : State) (media : List MediaRead) (v : VolN) (x : Volume) (lbn : Nat) : Nat :=
  match (sealedInfo s v x.size (contentNow s media v) lbn).1 with
  | .counter n _ => n + 1
  | _ => 0

/-- A block taken from a member enters the stripe cache under class 5 (01 Table 1-5). -/
def rekeyFill (s : State) (v : VolN) (b : Nat × Bytes) : State :=
  let q := blockPlace s v b.1
  match rolePos s q.row (.data q.j) with
  | some pos => if (newestRec s v b.1).isSome then s else fillRead s 5 pos (areaBlock s q.row q.b) b.2
  | none => s

/-- The first stages of a step: its blocks are taken, and a charge for the decryption of each is asked for. -/
def rekeyBegin (s : State) (media : List MediaRead) (v : VolN) (x : Volume) (ks : VolKeys) : State :=
  let k := s.eng.rekey
  let got := (rekeyWindow x k.b).filterMap (rekeyTake s media v x ks)
  let k' := { k with inStep := true, moved := got, need := got.length, sent := false, encrypts := false,
                     ctrs := got.map fun b => rekeyCtr s media v x b.1 }
  let s := { s with eng := { s.eng with rekey := k' } }
  got.foldl (fun s b => rekeyFill s v b) s

/-- The blocks are decrypted: in a later frame a charge for the encryption of each is asked for. -/
def rekeyEncrypt (s : State) : State :=
  let k := s.eng.rekey
  { s with eng := { s.eng with rekey := { k with encrypts := true, need := k.moved.length } } }

/-- New ciphertext of a block, its new counter and its new tag; a sealed block of zeros keeps its ciphertext. -/
def rekeyBlock (x : Volume) (old new : VolKeys) (b : Nat × Bytes) (ctr : Nat) : Nat × Bytes × Nat × Bytes :=
  let c := if b.2.all (· == 0) then b.2 else xtsEnc new b.1 (xtsDec old b.1 b.2)
  (b.1, c, ctr, if x.isSealed then blockTag new b.1 ctr c else [])

/-- Consecutive LBNs share a WRITE record. -/
def lbnRuns : List (Nat × Bytes) → List (Nat × List Bytes)
  | [] => []
  | (l, b) :: rest => match lbnRuns rest with
    | (m, bs) :: more => if m = l + 1 then (l, b :: bs) :: more else (l, [b]) :: (m, bs) :: more
    | [] => [(l, [b])]

/-- One run's slots, tags and record. -/
def rekeyRun (v : VolN) (x : Volume) (info : List (Nat × Bytes × Nat × Bytes)) (a : List (Nat × Bytes) × State)
    (run : Nat × List Bytes) : List (Nat × Bytes) × State :=
  let n := run.2.length
  let (first, s) := takeSlots a.2 n
  let (r, s) := addRec s { IntentRec.base .write with
    vol := v, isSealed := x.isSealed, count := n, at_ := run.1, slot := first }
  let mine := (info.filter fun i => decide (run.1 ≤ i.1) && decide (i.1 < run.1 + n)).map fun i => (i.1, i.2.2.1, i.2.2.2)
  let (tags, s) := if x.isSealed then addTags s r.seq v mine else ([], s)
  (a.1 ++ tags ++ slotWrites first run.2 ++ intentWrites r, s)

/-- Stage 4: one journal commit with the slots, the records, the tag-log lines and the rekey line with B + 32. -/
def rekeyCommit (s : State) (a : ArraySt) (v : VolN) (x : Volume) (old new : VolKeys) : State :=
  let k := s.eng.rekey
  let info := List.zipWith (rekeyBlock x old new) k.moved k.ctrs
  let blocks := info.map fun i => (i.1, i.2.1)
  let runs := lbnRuns blocks
  if ¬ (blocks.length ≤ freeSlots s ∧ runs.length ≤ freeRecs s ∧ (¬ x.isSealed ∨ runs.length + blocks.length ≤ freeTagLines s))
  then s
  else
    let (ws, s) := runs.foldl (rekeyRun v x info) ([], s)
    let s := planJournal s (ws ++ rekeyLines { a.rekey with b := min x.size (k.b + 32) }) .rekey
    { s with eng := { s.eng with rekey := { k with moved := blocks, need := 0, sent := true } } }

/-- In the Dispatch phase in which the last block of a step has its charge, its commit is planned (R328); without room it is
tried again in the next. -/
def rekeyReady (s : State) : State :=
  let k := s.eng.rekey
  match s.array, volOf s k.vol with
  | some a, some x =>
    match s.keys.prim[x.key.val], s.keys.shadow[x.key.val] with
    | some old, some new =>
      if k.inStep ∧ k.encrypts ∧ ¬ k.sent ∧ k.need = 0 then rekeyCommit s a k.vol x old new else s
    | _, _ => s
  | _, _ => s

/-- REKEY_STEP: a step begins, or goes on to its encryption; the Dispatch phases give both their charges (R328, 01 R28). -/
def execRekeyStep (media : List MediaRead) (s : State) : Result :=
  let k := s.eng.rekey
  match s.array with
  | none => .next s
  | some a =>
    match volOf s k.vol with
    | none => .next s
    | some x =>
      match s.keys.prim[x.key.val], s.keys.shadow[x.key.val] with
      | some old, some _ =>
        if ¬ k.running ∨ (k.paused ∧ ¬ k.inStep) ∨ ¬ (rekeyMode s ∨ k.inStep) ∨ s.clock.phase ≠ .plan ∨
            a.rekey.state ≠ 1 ∨ k.sent ∨ x.size ≤ k.b ∨ ¬ anyPlanning s.cx then .next s
        else if ¬ k.inStep then
          if ¬ engFed s .rekey ∨ x.deleting then .next s else .next (rekeyBegin s media k.vol x old)
        else if k.encrypts ∨ k.need ≠ 0 then .next s
        else .next (rekeyEncrypt s)
      | _, _ => .next s

/-! ## The advance of B (R328, R330, R331) -/

/-- The window's old lines leave the stripe cache and the new ciphertext is placed, under class 5. -/
def rekeyLinesIn (s : State) (v : VolN) (key : Fin 64) (bs : List (Nat × Bytes)) : State :=
  bs.foldl (fun s b =>
    let s := dropRange s v b.1 1
    let q := blockPlace s v b.1
    match rolePos s q.row (.data q.j) with
    | some pos => cacheWrite s 5 pos (areaBlock s q.row q.b) key b.2
    | none => s) s

/-- The rekey record's B in the superblock view. -/
def persistB (s : State) : State :=
  let b := s.eng.rekey.b
  writeSb (s.modArray fun a => { a with rekey := { a.rekey with b := b } }) .none

/-- A paused rekey has its B persisted (R330). -/
def rekeyPaused (s : State) : State :=
  let k := s.eng.rekey
  match s.array with
  | some a => if k.running ∧ k.paused ∧ ¬ k.inStep ∧ a.rekey.state = 1 ∧ a.rekey.b ≠ k.b then persistB s else s
  | none => s

/-- The commit of a step is durable: B advances; at the volume's end the rekey completes, with line state 2 first. -/
def rekeyAdvance (s : State) : State :=
  let k := s.eng.rekey
  match s.array, volOf s k.vol with
  | some a, some x =>
    if ¬ k.inStep then s
    else
      let b := min x.size (k.b + 32)
      let s := rekeyLinesIn s k.vol x.key k.moved
      let s := { s with eng := { s.eng with rekey := { k with b := b, inStep := false, moved := [], sent := false } } }
      if x.size ≤ b then
        let r := { a.rekey with state := 2, b := b }
        planJournal (s.modArray fun a => { a with rekey := r }) (rekeyLines r) .rekeyDone
      else if k.b / 65536 < b / 65536 ∨ ¬ rekeyMode s then persistB s
      else s
  | _, _ => s

/-- What waits for a commit goes on, the rekey engine's owners among it. -/
def commitDurable (s : State) (o : JOwner) : State :=
  match o with
  | .rekey => rekeyAdvance s
  | .rekeyDone => writeSb s (.rekeyEnd s.eng.rekey.vol)
  | o => ownerDurable s o

/-- May the end of a commit be observed: in an Intake phase of a later frame than the one that released it (01 R19)? -/
def JCommit.answered (s : State) (c : JCommit) : Bool := observes s && decide (c.frame < obsFrame s)

/-- JOURNAL_DURABLE: commits become durable in the order of their release (08 R236). -/
def execJournalDurable (s : State) : Result :=
  match s.jnl.inflight with
  | [] => .next s
  | c :: rest => if c.answered s then .next (commitDurable (landCommit s c rest) c.owner) else .next s

/-! ## JOURNAL_WRITE_FAILED (08 R237, R239, 10 R318) -/

/-- Records whose intent lines are in a commit. -/
def commitRecs (s : State) (c : JCommit) : List IntentRec :=
  s.jnl.recs.filter fun r => c.writes.any fun w => w.1 == intentA + 64 * (r.seq % recCount) && !r.durable

/-- A failed commit's records and tags are forgotten, and the content they brought leaves the caches. -/
def forgetCommit (s : State) (c : JCommit) (rest : List JCommit) : State :=
  let gone := commitRecs s c
  let s := (gone.filter (·.names)).foldl (fun s r => dropRange s r.vol r.at_ r.count) s
  let s := s.modJnl fun j => { j with
    inflight := rest,
    recs := j.recs.filter fun r => !gone.any fun g => g.seq == r.seq }
  dropTags s fun e => gone.any fun g => g.seq == e.seq

/-- A shift whose ROW or SOLVED commit failed releases no member write; it ends at the frame's commit point (08 R239). -/
def failShift (s : State) (id : Nat) : State :=
  match s.shifts.find? fun x => x.id == id with
  | some x => putShift s { x with step := .aborted, endAt := obsFrame s }
  | none => s

/-- What a failed commit means for its owner. -/
def ownerFailed (s : State) (o : JOwner) : State :=
  match o with
  | .entry f => if isIoOp (match s.taken? f with | some t => Entry.opcode t.head | none => 0) then
      failIo s f Status.journalMedia (match s.taken? f with | some t => Entry.lbn t.head | none => 0)
      else failEntry s f Status.journalMedia
  | .row id | .solved id => failShift s id
  | .fold v _ _ => foldFailed s v
  | .rekey => { s with eng := { s.eng with rekey := { s.eng.rekey with inStep := false, moved := [], sent := false } } }
  | .rekeyDone => match s.array with
    | some a => planJournal s (rekeyLines a.rekey) .rekeyDone
    | none => s
  | .log seqs => { s with log := { s.log with written := s.log.written.filter fun q => !seqs.contains q } }
  | .none => s

/-- JOURNAL_WRITE_FAILED: the oldest commit in flight has no effect, but its number is spent; JOURNAL_MEDIA is logged. -/
def execJournalWriteFailed (s : State) : Result :=
  match s.jnl.inflight with
  | [] => .next s
  | c :: rest =>
    if ¬ c.answered s then .next s
    else
    let s := ownerFailed (forgetCommit s c rest) c.owner
    let s := s.modJnl fun j => { j with commitNo := j.commitNo + 1 }
    .next (logIntegrity s 0 (match c.writes with | w :: _ => w.1 | [] => 0) 0 Status.journalMedia)

end Sys2Proof.Machine
end

