-- ==== Sys2Proof/Machine/Complex.lean ====
section
/-! DEFINITION. The control complexes (12): the token and its lease (R383 to R387), resignation (R388), divergence and
self-check (R393, R394), recovery (R395), takeback (R396), the frame state record (R391, R392) and the frame counter's
limit (R400). -/
namespace Sys2Proof.Machine

/-! ## The token -/

/-- The epoch rises by 1, skipping 0 (R386). -/
def nextEpoch (e : BitVec 16) : BitVec 16 := if e = 0xFFFF then 1 else e + 1

/-- A transition between its PREP and its EXEC is planned again by a new holder (R402). -/
def replanMode (s : State) : State :=
  let again := fun x : ModePlan => if x.target = .lockdown then x else { x with frame := obsFrame s }
  s.modMode fun m => { m with plan := m.plan.map again }

/-- A complex becomes holder at this frame's commit point, with a fresh lease. -/
def grantToken (s : State) (c : Cx) : State :=
  (replanMode s).modCx fun x =>
    { x with holder := some c, last := c, epoch := nextEpoch x.epoch, handing := false,
             expiry := s.clock.frame + x.lease.toNat }

/-- The frame in whose Intake phase something that happens now is observed by the complexes. -/
def cxObs (s : State) : Nat := if s.clock.phase = .intake then s.clock.frame else s.clock.frame + 1

/-- The token is vacant from now on. -/
def vacate (s : State) : State := s.modCx fun x => { x with holder := none, vacant := cxObs s, handing := false }

def leftOf (x : CxSt) : Cx → Nat
  | .umber => x.umberLeft
  | .slate => x.slateLeft
def setLeft (x : CxSt) (c : Cx) (n : Nat) : CxSt :=
  match c with
  | .umber => { x with umberLeft := n }
  | .slate => { x with slateLeft := n }

/-- The firmware image a complex has in its tightly coupled memory. -/
def tcmOf (x : CxSt) : Cx → Bytes
  | .umber => x.umberTcm
  | .slate => x.slateTcm
def setTcm (x : CxSt) (c : Cx) (bs : Bytes) : CxSt :=
  match c with
  | .umber => { x with umberTcm := bs }
  | .slate => { x with slateTcm := bs }

/-- A complex stops planning: it is OFF, an exit from TWIN is counted, and its token is vacant. -/
def leaveCx (s : State) (c : Cx) : State :=
  let twin := s.cx.of c == .twin
  let s := s.modCx fun x =>
    let x := x.set c .off
    if twin then { setLeft x c (leftOf x c + 1) with leave := satInc x.leave } else x
  if s.cx.holder = some c then vacate s else s

/-- A self-test holds the complex out (03 Table 3-8). -/
def underTest (s : State) (c : Cx) : Bool := match s.test with
  | some t => t.cx == some c
  | none => false

/-- A complex that is OFF and may recover is reloaded once there is a holder to recover from (R395). -/
def startReload (s : State) : State :=
  if s.cx.holder.isNone then s
  else [Cx.umber, .slate].foldl (fun s c =>
    if s.cx.of c = .off ∧ leftOf s.cx c < 4 ∧ ¬ underTest s c then s.modCx fun x => { x.set c .reload with copied := false } else s) s

/-- A planning complex whose twin is not in TWIN is SOLE (Table 12-1). -/
def settleSole (s : State) : State :=
  [Cx.umber, .slate].foldl (fun s c =>
    if s.cx.of c = .twin ∧ s.cx.of (otherCx c) ≠ .twin then s.modCx fun x => x.set c .sole else s) s

/-- The complex a self-test needs leaves TWIN at a commit point, once it is not the holder (03 Table 3-8). -/
def fenceTest (s : State) : State :=
  match s.test with
  | some t =>
    match t.cx with
    | some c => if s.cx.of c = .twin ∧ s.cx.holder = some (otherCx c) then settleSole (leaveCx s c) else s
    | none => s
  | none => s

/-! ## RESIGN, CLAIM and the lease -/

def faultRow : CxFault → Nat
  | .tcm => 1 | .bus => 2 | .overrun => 3 | .marker => 4 | .selfTest => 5 | .recordCrc => 6

/-- The complexes run in Start: from the end of S4 on (03 R81). -/
def runsStart (s : State) : Bool :=
  s.mode.mode == .start && !s.start.takedown && !s.start.halt && !lockPlanned s &&
  (s.start.stage == .s5 || s.start.stage == .s6 || s.start.stage == .s7 || s.start.stage == .s8)

/-- A complex fails in Start: the other runs simplex; with none left Start halts and no transition is planned (03 Table
3-3, R81, R97). -/
def failInStart (s : State) (c : Cx) (row : Nat) : State :=
  let s := startFailure s (Config.complexStatus row) (match c with | .umber => 1 | .slate => 2)
  let s := { s with start := { s.start with simplex := true } }
  if anyPlanning s.cx then s else haltStart s

/-- A complex resigns with a row of Table 12-6 or 12-8; with no complex left planning this is a device-level error (R397,
R405), and in Start a halt. -/
def resignCx (s : State) (c : Cx) (row : Nat) : State :=
  let sole := s.cx.of c == .sole
  let planned := plans (s.cx.of c)
  let s := logComplex (leaveCx s c) c row
  if planned ∧ runsStart s then failInStart s c row
  else if planned ∧ ¬ anyPlanning s.cx then deviceError s (if sole then .simplexFault else .bothResigned) else s

/-- RESIGN (R388): from any state in which the complex runs. -/
def execResign (c : Cx) (f : CxFault) (s : State) : Result :=
  match s.cx.of c with
  | .off | .reload => .next s
  | _ => .next (resignCx s c (faultRow f))

/-- The last holder's CLAIM stands back for its twin's while both plan (Table 12-5). -/
def claimYields (x : CxSt) (c : Cx) : Bool := c == x.last && plans (x.of (otherCx c))

/-- CLAIM (R387): at a commit point, from a planning complex, the twin of the last holder, while the token is vacant. -/
def execClaim (c : Cx) (s : State) : Result :=
  if s.clock.phase ≠ .commit ∨ ¬ plans (s.cx.of c) ∨ s.cx.holder.isSome ∨ s.clock.frame < s.cx.vacant ∨
      claimYields s.cx c = true then .next s
  else
    let s := grantToken s c
    let s := s.modCx fun x => { x with take := satInc x.take }
    .next (startReload (settleSole (logComplex s c 0)))

/-- LEASE_EXPIRY (R387): the frame is beyond E, and the token can be claimed. -/
def execLeaseExpiry (s : State) : Result :=
  if s.cx.holder.isNone ∨ s.clock.frame ≤ s.cx.expiry ∨ s.clock.phase ≠ .intake then .next s
  else .next (s.modCx fun x => { x with holder := none, vacant := s.clock.frame, handing := false })

/-! ## Handover and takeback (R390, R396) -/

def isHandover (a : Priv) : Bool := a.act == .handover

/-- A handover is under way. -/
def handingOver (s : State) : Bool := s.cx.handing || s.gate.priv.any isHandover

/-- TAKEBACK: the preferred complex is TWIN and not the holder: a handover is planned. -/
def execTakeback (s : State) : Result :=
  if s.clock.phase ≠ .plan ∨ s.cx.of s.cx.pref ≠ .twin ∨ s.cx.holder ≠ some (otherCx s.cx.pref) ∨ handingOver s ∨
      s.cx.susp.isSome then .next s
  else .next (addPriv s .handover)

/-- May a privileged action be released now: planned in an earlier frame by the present holder in the present epoch, at an
uncancelled commit point within the lease (R385)? -/
def privReady (s : State) (a : Priv) : Bool :=
  gateOpen s && !s.clock.cancelled && decide (a.frame < s.clock.frame) && a.epoch == s.cx.epoch &&
  a.cx == s.cx.holder

/-- HANDOVER (R390): its EXEC, once no earlier privileged action is between PREP and EXEC; the twin becomes holder. -/
def execHandover (s : State) : Result :=
  match s.gate.priv.find? isHandover, s.cx.holder with
  | some a, some h =>
    let rest := s.gate.priv.filter fun x => !isHandover x
    let moving := (s.mode.plan.map fun m => decide (m.frame ≤ a.frame)).getD false
    if ¬ privReady s a ∨ s.cx.of (otherCx h) ≠ .twin ∨ moving ∨ rest.any (fun x => decide (x.frame ≤ a.frame)) then
      .next s
    else
      let s := grantToken { s with gate := { s.gate with priv := rest } } (otherCx h)
      let s := s.modCx fun x => { x with hand := satInc x.hand }
      .next (logComplex s (otherCx h) 0)
  | _, _ => .next s

/-! ## The frame state record (R391, R392, R398) -/

/-- Delta pairs of a record, words of recovery traffic in a frame, and state words of a memory. -/
def maxPairs : Nat := 1022
def recoveryWords : Nat := 1952
def stateWords : Nat := 32768

/-- The record is sent to a twin, and to a complex in COPY or PROBATION (R398). -/
def sendsRecord (c : CxSt) : Bool :=
  c.holder.isSome && (plans c.umber && plans c.slate ||
    [c.umber, c.slate].any fun x => x == .copy || x == .probation)

/-- A state word takes a new value. -/
def setWord (ws : List (BitVec 16 × BitVec 36)) (x : BitVec 16 × BitVec 36) : List (BitVec 16 × BitVec 36) :=
  (ws.filter fun y => y.1 < x.1) ++ x :: ws.filter fun y => x.1 < y.1

/-- The 36-bit words of a record (Table 12-7); the CRC-32C is taken over their containers, as for a log record (log entry
14). -/
def recordWords (r : FrameRecord) : List Nat :=
  let ws := [r.frame, r.epoch.toNat + bit (r.holder == .slate) * 2 ^ 16, r.inputs.toNat, r.pairs.length] ++
    r.pairs.flatMap fun p => [p.1.toNat, p.2.toNat]
  ws ++ [(crc32c (ws.flatMap container)).toNat]

/-- The Commit and copy phase begins: the holder's changed words, those that waited first, go into the record, at most
1022 of them (R392), and a complex in COPY receives 1952 of the state words (R395). -/
def sendRecord (s : State) (words : List (BitVec 16 × BitVec 36)) : State :=
  let all := s.gate.delta ++ words
  let now := all.take maxPairs
  let r : FrameRecord := { frame := s.clock.frame, epoch := s.cx.epoch, holder := s.cx.holder.getD s.cx.last,
                           inputs := s.gate.inputs, pairs := now }
  let s := { s with gate := { s.gate with
    delta := all.drop maxPairs, record := if sendsRecord s.cx then some r else none } }
  s.modCx fun c => { c with
    words := now.foldl setWord c.words,
    copyAt := if (c.umber == .copy || c.slate == .copy) && !c.copied && c.holder.isSome then
        min stateWords (c.copyAt + recoveryWords) else c.copyAt }

/-- The twin's comparison of the record with its own inputs and its own changed words (R392). -/
def recordOk (g : GateView) : Bool := g.inputsAgree && g.words == g.twinWords

/-! ## Divergence and self-check (R393, R394) -/

/-- The complex that does not hold the token. -/
def nonHolder (s : State) : Cx := otherCx s.cx.last

/-- A divergence at the commit point: the frame is cancelled and the self-check begins; in the suspect state the
non-holder resigns instead. -/
def diverge (s : State) : State :=
  let s := { s with clock := { s.clock with cancelled := true } }
  if s.cx.susp.isSome then resignCx s (nonHolder s) 0
  else
    let s := s.modCx fun x => { x with div := satInc x.div, susp := some (s.clock.frame + 32) }
    logComplex s s.cx.last 0

/-- A complex is silent: it leaves TWIN, and the orders of the other are released, but not in the suspect state (R381,
R382, R393). -/
def silence (s : State) (c : Cx) : State :=
  let s := if s.cx.susp.isSome then { s with clock := { s.clock with cancelled := true } } else s
  resignCx s c 4

/-- Table 12-3 at the commit point: what the copies and markers of the frame's orders come to. -/
def resolveGate (s : State) (g : GateView) : State :=
  let u := plans s.cx.umber
  let l := plans s.cx.slate
  if u ∧ l then
    if g.umber ∧ g.slate then (if g.agree ∧ recordOk g then s else diverge s)
    else if g.umber then silence s .slate
    else if g.slate then silence s .umber
    else
      let s := { s with clock := { s.clock with cancelled := true } }
      resignCx (resignCx s (nonHolder s) 4) s.cx.last 4
  else if u then
    if g.umber then s else resignCx { s with clock := { s.clock with cancelled := true } } .umber 4
  else if l then
    if g.slate then s else resignCx { s with clock := { s.clock with cancelled := true } } .slate 4
  else { s with clock := { s.clock with cancelled := true } }

/-- A complex in PROBATION is compared: a clean frame counts, a difference restarts the count and is logged (R395). -/
def probation (s : State) (g : GateView) : State :=
  let one := fun (s : State) (c : Cx) (marker : Bool) =>
    if s.cx.of c ≠ .probation then s
    else if marker ∧ g.agree ∧ recordOk g then s.modCx fun x => { x with clean := min 1024 (x.clean + 1) }
    else logComplex (s.modCx fun x => { x with clean := 0 }) c 0
  one (one s .umber g.umber) .slate g.slate

/-- SELF_CHECK_END (Table 12-8). -/
def execSelfCheckEnd (umberPass slatePass : Bool) (s : State) : Result :=
  match s.cx.susp with
  | none => .next s
  | some e =>
    if s.clock.frame < e ∨ s.clock.phase ≠ .commit then .next s
    else
      let s := s.modCx fun x => { x with susp := none }
      let h := s.cx.last
      let o := otherCx h
      let pass : Cx → Bool := fun c => match c with | .umber => umberPass | .slate => slatePass
      if ¬ (plans (s.cx.of h) ∧ plans (s.cx.of o)) then
        let left := if plans (s.cx.of h) then h else o
        .next (if plans (s.cx.of left) ∧ ¬ pass left then resignCx s left 3 else s)
      else if pass h ∧ pass o then .next (startReload (settleSole (resignCx s o 1)))
      else if pass h then .next (startReload (settleSole (resignCx s o 2)))
      else if pass o then .next (settleSole (resignCx s h 3))
      else .next (deviceError (logComplex s h 4) .bothChecks)

/-! ## Recovery (R395) -/

/-- With no complex planning, an accepted image makes its complex holder with fresh state: the preferred one, or the other
where that one stays OFF (13 R411). -/
def takeFresh (s : State) (c : Cx) : State :=
  let s := grantToken (s.modCx fun x => x.set c .sole) c
  s.modCx fun x => { x with susp := none }

/-- What a boot ROM makes of a slot (03 R79): the anti-rollback counter, then the CMAC over the image it reads, which is
what the store holds but for what the trial says. -/
def slotVerdict (s : State) (k : ImgSlot) (read : Option Bytes) : Status :=
  match imageOf s.fw k with
  | none => Status.noImage
  | some x =>
    if x.version.toNat < rollback s then Status.imageRollback
    else if cmac (fwk s.fuse) (read.getD x.data) ≠ leBytes 16 x.cmac.toNat then Status.imageAuth
    else Status.success

/-- White with no image runs the test monitor (03 R82). -/
def testMonitor (s : State) : Bool := lifecycle s.fuse == .white && s.fw.a.isNone && s.fw.b.isNone

/-- The boot ROM has loaded the image of a slot into the complex's memory (03 R79). -/
def loadImage (s : State) (c : Cx) (k : ImgSlot) : State :=
  s.modCx fun x => setTcm x c (((imageOf s.fw k).map (·.data)).getD [])

/-- Does the boot ROM accept the active slot again: what it reads is what the store holds, and it passes (R395, 03 R79)? -/
def reloadTakes (s : State) (accepted : Bool) : Bool :=
  accepted && (testMonitor s || slotVerdict s s.fw.active none == Status.success)

/-- RELOAD_END: the complex enters COPY, or stays OFF where its image was refused; a reload of both chooses the holder. -/
def execReloadEnd (c : Cx) (accepted : Bool) (s : State) : Result :=
  if s.cx.of c ≠ .reload ∨ s.mode.mode = .start then .next s
  else
    let o := otherCx c
    if ¬ reloadTakes s accepted then
      let s := logCase (s.modCx fun x => setLeft (x.set c .off) c 4) cxSrc .reload (bit (c == .slate))
      .next (if anyPlanning s.cx ∨ s.cx.of o ≠ .copy then s else takeFresh s o)
    else
      let s := loadImage s c s.fw.active
      if anyPlanning s.cx then .next (s.modCx fun x => { x.set c .copy with copied := false, copyAt := 0 })
      else if c = s.cx.pref ∨ s.cx.of o = .off then .next (takeFresh s c)
      else .next (s.modCx fun x => { x.set c .copy with copied := false, copyAt := 0 })

/-- STATE_COPY_END: the tightly coupled memory's words have arrived, 1952 in a frame. -/
def execStateCopyEnd (c : Cx) (s : State) : Result :=
  if s.cx.of c ≠ .copy ∨ s.cx.copied ∨ ¬ anyPlanning s.cx ∨ s.cx.copyAt < stateWords then .next s
  else .next (s.modCx fun x => { setTcm x c (tcmOf x (otherCx c)) with copied := true })

/-- FIRMWARE_COPY_END: the last pass over the firmware data, within a Commit and copy phase; PROBATION begins. -/
def execFirmwareCopyEnd (c : Cx) (s : State) : Result :=
  if s.clock.phase ≠ .commit ∨ s.cx.of c ≠ .copy ∨ ¬ s.cx.copied ∨ ¬ anyPlanning s.cx then .next s
  else .next (s.modCx fun x => { x.set c .probation with copied := false, clean := 0 })

/-- PROBATION_END: after 1024 clean frames the complex is TWIN, and the holder leaves SOLE for TWIN. -/
def execProbationEnd (c : Cx) (s : State) : Result :=
  if s.cx.of c ≠ .probation ∨ s.cx.clean < 1024 ∨ s.clock.phase ≠ .commit then .next s
  else
    let s := s.modCx fun x => (x.set c .twin).set (otherCx c) .twin
    .next (logComplex s c 0)

/-! ## The frame counter's limit (R400) -/

/-- FRAME_LIMIT_WARNING: HLTH_STAT.flim and a record. -/
def execFrameLimitWarning (s : State) : Result :=
  if s.clock.frame < 0xFF0000000 ∨ s.cx.flim then .next s
  else .next (logCase (s.modCx fun x => { x with flim := true }) 0 .misc s.clock.frame)

/-- FRAME_LIMIT_STOP: no ring entry is taken from now on. -/
def execFrameLimitStop (s : State) : Result :=
  if s.clock.frame < 0xFFFF00000 then .next s else .next (s.modCx fun x => { x with ftake := true })

/-- FRAME_LIMIT_HALT: both complexes are held in reset and no frame runs. -/
def execFrameLimitHalt (s : State) : Result :=
  if s.clock.frame < 0xFFFFFFFFF ∨ s.cx.fstop then .next s
  else
    let s := s.modCx fun x => { x with fstop := true, umber := .off, slate := .off, holder := none, susp := none }
    .next { s with clock := { s.clock with phase := .stopped } }

end Sys2Proof.Machine
end

