-- ==== Sys2Proof/Machine/Service.lean ====
section
/-! DEFINITION. Maintenance commands (06): SELF_TEST (03 R91 to R93), FW_LOAD and FW_ACTIVATE (06 R188), MODE_SET, RESET
(11 R364), LIFECYCLE (06 R189, 11 R339), FREEZE_ARM (13 R420), and the clearing of a volume key (02 R43). -/
namespace Sys2Proof.Machine

/-! ## Spares (03 Table 3-4) -/

/-- Spare rows and columns of a memory: lines, entries and words count as rows. -/
def spares : Nat → Nat × Nat
  | 0x01 => (8, 2) | 0x02 => (8, 2) | 0x16 => (4, 1) | 0x18 => (16, 4) | 0x19 => (8, 0) | 0x1A => (256, 0)
  | _ => (0, 0)

/-- The repairs of a memory already blown or, in the journal, mapped for good. -/
def repairsOf (s : State) (id way : Nat) (col : Bool) : List Nat :=
  let fused := (s.fuse.repairs.filter fun r => r.id == id && r.way == way && r.col == col).map (·.line)
  if id = 0x1A ∧ ¬ col then (fused ++ s.jnl.spares).eraseDups else fused

/-- The rows, or columns, of a fault that no earlier repair covers: fuse repairs are applied before the test (R73). -/
def newLines (s : State) (f : MemFault) (col : Bool) : List Nat :=
  (if col then f.cols else f.rows).eraseDups.filter fun l => !(repairsOf s f.id f.way col).contains l

/-- Do the spares that earlier repairs left cover a fault? -/
def covered (s : State) (f : MemFault) : Bool :=
  decide ((repairsOf s f.id f.way false).length + (newLines s f false).length ≤ (spares f.id).1) &&
  decide ((repairsOf s f.id f.way true).length + (newLines s f true).length ≤ (spares f.id).2)

/-- Does the test find any failure? -/
def failing (s : State) (f : MemFault) : Bool := newLines s f false != [] || newLines s f true != []

/-- Soft repairs a fault takes: the rows and columns mapped, and 1 for a way that is retired (START_REPAIR.soft). -/
def softOf (s : State) (f : MemFault) : Nat :=
  if covered s f then (newLines s f false).length + (newLines s f true).length else if f.id = 0x16 then 1 else 0

/-- The faults of a test, one for each memory and way; only the stripe cache has ways. -/
def mergeFaults (fs : List MemFault) : List MemFault :=
  let way := fun f : MemFault => if f.id = 0x16 then f.way else 0
  ((fs.map fun f => (f.id, way f)).eraseDups).map fun k =>
    let mine := fs.filter fun f => (f.id, way f) == k
    { id := k.1, way := k.2, rows := mine.flatMap (·.rows), cols := mine.flatMap (·.cols),
      lost := mine.flatMap (·.lost) }

/-- The repairs a fault's new rows and columns take. -/
def repairsFor (s : State) (f : MemFault) : List Repair :=
  ((newLines s f false).map fun l => { id := f.id, way := f.way, col := false, line := l }) ++
  (newLines s f true).map fun l => { id := f.id, way := f.way, col := true, line := l }

/-- The 16 lines of a 1 KiB journal row. -/
def rowLines (row : Nat) : List Nat := (List.range 16).map fun i => 16 * row + i

/-- Journal rows move to spares; content beyond correction is lost, and its lines fail from then on (R75). -/
def spareRows (s : State) (f : MemFault) : State :=
  if f.id ≠ 0x1A then s
  else
    let rows := newLines s f false
    s.modJnl fun j => { j with
      spares := j.spares ++ rows,
      badLines := j.badLines ++ (rows.filter fun r => f.lost.contains r).flatMap rowLines }

/-! ## SELF_TEST (03 R92, R93, Table 3-8) -/

/-- The blocks of Table 3-3, which have a signature reference. -/
def logicIds : List Nat := (List.range 0x15).map (· + 1) ++ [0x1D]

/-- The blocks whose failure leads to Lockdown. -/
def securityBlock (id : Nat) : Bool := decide (5 ≤ id) && decide (id ≤ 0x0A)

/-- The fused reference of a block; 0 unprogrammed. -/
def sigRefOf (f : Fuses) (id : Nat) : W32 := match f.sigRef.find? fun r => r.1 == id with
  | some r => r.2
  | none => 0

/-- In White a block without a reference is untested (R71). -/
def untestedBlock (f : Fuses) (id : Nat) : Bool := lifecycle f == .white && sigRefOf f id == 0

/-- A signature differs from its reference. -/
def sigFails (f : Fuses) (id : Nat) (sig : W32) : Bool :=
  logicIds.contains id && !untestedBlock f id && sigRefOf f id != sig

/-- Duration of a test in frames; the holder's includes the handover. -/
def testFrames (holder : Bool) : Nat → Nat
  | 0x01 => if holder then 1202 else 1200
  | 0x02 => if holder then 1202 else 1200
  | 0x03 => 100 | 0x04 => 100 | 0x05 => 50 | 0x06 => 50 | 0x07 => 50 | 0x09 => 100 | 0x0B => 50 | 0x0C => 50
  | 0x0D => 50 | 0x0F => 50 | 0x16 => 100 | 0x17 => 100 | 0x18 => 20 | 0x19 => 2 | 0x1A => 1000 | 0x1C => 200
  | 0x1D => 1200
  | _ => 50

/-- The complex an id takes out of TWIN. -/
def testCx (s : State) : Nat → Option Cx
  | 0x01 => some .umber
  | 0x02 => some .slate
  | 0x1D => some (nonHolder s)
  | _ => none

/-- A command of an opcode is taken and not finished on a management ring. -/
def mgmtInFlight (s : State) (op : Nat) : Bool :=
  (mgmtEntries s).any fun x => Entry.opcode x.2.head == op && x.2.stage != .finished

/-- "Refused while" of Table 3-8. -/
def testRefused (s : State) (p : Port) (id : Nat) : Bool :=
  match id with
  | 0x08 => true | 0x0A => true | 0x0E => true | 0x1B => true
  | 0x01 => simplex s.cx || !anyPlanning s.cx
  | 0x02 => simplex s.cx || !anyPlanning s.cx
  | 0x1D => simplex s.cx || !anyPlanning s.cx
  | 0x03 => p == .a || s.portA.linkUp
  | 0x04 => p == .b || s.portB.linkUp
  | 0x0B => s.start.parityOut1 || testing s 0x0C
  | 0x0C => s.start.parityOut0 || testing s 0x0B
  | 0x0D => s.seq.load.isSome || s.seq.swap.isSome
  | 0x16 => s.eng.rebuild.running
  | 0x17 => s.eng.rebuild.running
  | 0x1C => mgmtInFlight s 0x41 || mgmtInFlight s 0x42
  | _ =>
    if h : 0x10 ≤ id ∧ id < 0x16 then
      let x := (s.slot ⟨id - 0x10, by omega⟩).state
      x != .empty && x != .detached
    else false

/-- "Before the test" of Table 3-8. The metadata cache holds nothing that its fold has not written (10 R318), so writing it
back changes nothing. -/
def beginTest (s : State) (id : Nat) : State :=
  match id with
  | 0x03 => s.modPort .a fun q => { q with phy := false }
  | 0x04 => s.modPort .b fun q => { q with phy := false }
  | 0x16 => { s with cache := { s.cache with lines := [], fenced := true } }
  | 0x17 => { s with cache := { s.cache with victim := [], victFenced := true } }
  | 0x0F => if s.eng.rebuild.running ∧ engAtBoundary s .rebuild then writeSb s .none else s
  | 0x18 => { s with tags := { s.tags with nodes := [] } }
  | 0x19 => (s.modPort .a dropKnown).modPort .b dropKnown
  | _ => s

/-- SELF_TEST: its target is fenced; a second test waits. -/
def execSelfTest (p : Port) (i : Nat) (s : State) : Result :=
  match mgmtVisit s p i 0x40 with
  | none => .next s
  | some (f, t) =>
    let id := field (Entry.arg t.head) 0 8
    if id = 0 ∨ 0x1D < id then fails s f Status.badField
    else if testRefused s p id then fails s f Status.conflict
    else if s.test.isSome then .next s
    else
      let c := testCx s id
      let n := testFrames (s.cx.holder == c) id
      let s := if c.isSome ∧ s.cx.holder = c ∧ ¬ handingOver s then addPriv s .handover else s
      let s := beginTest { s with test := some { id := id, repair := (Entry.arg t.head).getLsbD 8, ref := f, cx := c, frames := n } } id
      .next (s.modTaken f fun t => { t with stage := .selfTest, frame := s.clock.frame })

/-- The target is re-initialised and restored. A port whose block failed in Start stays off until the next Start. -/
def restoreTest (s : State) (id : Nat) : State :=
  let s := { s with test := none, cache := { s.cache with fenced := false, victFenced := false } }
  match id with
  | 0x01 => startReload (s.modCx fun x => setTcm x .umber [])
  | 0x02 => startReload (s.modCx fun x => setTcm x .slate [])
  | 0x03 => s.modPort .a fun q => { q with phy := !s.start.failedPortA }
  | 0x04 => s.modPort .b fun q => { q with phy := s.supply.strap && !s.start.failedPortB }
  | 0x0D => match s.array with
    | some a => { s with seq := { s.seq with table := buildTable (activeProg s) a.n } }
    | none => s
  | _ => startReload s

/-- The image check of R79 on both slots, the active one first; a slot with nothing installed has nothing to check (log
entry 77). -/
def storeCheck (s : State) : Status :=
  let one := fun k => match slotVerdict s k none with
    | 0x5030 => Status.success
    | st => st
  if one s.fw.active ≠ Status.success then one s.fw.active else one (otherSlot s.fw.active)

/-- The status of a test: the logic part, the memory part, the firmware store's images, or fuse entries used up (R93). -/
def testStatus (s : State) (t : Test) (signature : W32) (fs : List MemFault) (noFuse : Bool) : Status :=
  if sigFails s.fuse t.id signature then Status.sigMismatch
  else if ¬ fs.all (covered s) then Status.repairExhausted
  else if t.id = 0x1C ∧ storeCheck s ≠ Status.success then storeCheck s
  else if noFuse then Status.noFuse
  else Status.success

/-- SELF_TEST_DONE: after the target's duration, with the signature measured and what its memory's cells show. The status
tells a logic from a memory failure (R93); fuse repairs are blown where asked and entries are left (R77). DESIGN CHOICE
(log entry 76): a test whose repairs need more entries than are left blows none of them and answers NO_FUSE. -/
def execSelfTestDone (signature : W32) (faults : List MemFault) (s : State) : Result :=
  match s.test with
  | none => .next s
  | some t =>
    match s.taken? t.ref with
    | none => .next (restoreTest s t.id)
    | some e =>
      if e.stage ≠ .selfTest then .next (restoreTest s t.id)
      else
        let wasHolder := decide (t.id = 1 ∨ t.id = 2) && s.cx.holder == t.cx
        if s.clock.frame < e.frame + t.frames ∨ wasHolder then .next s
        else
          let mine := (mergeFaults faults).filter fun f => f.id == t.id && failing s f
          let need := (mine.filter (covered s)).flatMap (repairsFor s)
          let blow := t.repair && decide (need ≠ [])
          let noFuse := blow && decide (64 < s.fuse.repairs.length + need.length)
          let blown := if blow ∧ ¬ noFuse then need else []
          let st := testStatus s t signature mine noFuse
          let pass := st == Status.success || st == Status.noFuse
          let shown : W32 := if lifecycle s.fuse = .black ∧ securityBlock t.id then 0 else signature
          let reply := dwBytes shown ++
            dwBytes (pack [(0, 1, bit pass), (8, 8, sat 8 need.length), (16, 8, blown.length)])
          let s := (mine.filter (covered s)).foldl spareRows s
          let s := restoreTest { s with fuse := { s.fuse with repairs := s.fuse.repairs ++ blown } } t.id
          let s := s.raise { LogRec.base 0x004 0 0 with status := st, payload := [t.id, shown.toNat, bit pass] }
          .next (finishEntry s t.ref st reply)

/-! ## FW_LOAD and FW_ACTIVATE (06 R188) -/

def FwStore.install (w : FwStore) (k : ImgSlot) (x : FwImage) : FwStore :=
  match k with
  | .a => { w with a := some x }
  | .b => { w with b := some x }

/-- The package: the buffers in handle order, as far as its length. -/
def packageBytes (s : State) (hs : List W32) (len : Nat) : Bytes :=
  (hs.flatMap fun h => Memory.read s.staging.mem (bufAddr (handleIndex h) 0) 16384).take len

/-- The checks of a package, in order, or the image it installs. -/
def checkPackage (s : State) (bs : Bytes) (len : Nat) : Except Status FwImage :=
  let dw := fun i => dwOf (slice bs (4 * i) 4)
  let n := (dw 2).toNat
  if dw 0 ≠ 0xA636 ∨ 294912 < n ∨ len ≠ 64 + n ∨ bs.length ≠ len ∨ dw 3 ≠ 0 ∨ ¬ (slice bs 32 32).all (· == 0) then
    .error Status.badField
  else if (dw 1).toNat < rollback s then .error Status.imageRollback
  else if cmac s.fuse.pkgKey (bs.take 16 ++ bs.drop 64) ≠ slice bs 16 16 then .error Status.imageAuth
  else
    .ok { version := dw 1, cmac := BitVec.ofNat 128 (leNat (cmac (fwk s.fuse) (bs.drop 64))), data := bs.drop 64 }

/-- FW_LOAD. -/
def execFwLoad (p : Port) (i : Nat) (s : State) : Result :=
  match mgmtVisit s p i 0x41 with
  | none => .next s
  | some (f, t) =>
    let hs := packageHandles t
    match hs.find? fun h => handleCheck s p h != Status.success with
    | some h => handleFails s f h (handleCheck s p h)
    | none =>
      let len := (Entry.a t.head 0).toNat
      match checkPackage s (packageBytes s hs len) len with
      | .error st => fails s f st
      | .ok x => .next (planAct s f (.install (otherSlot s.fw.booted) x))

/-- FW_ACTIVATE: the slot becomes active when the transition to Start takes effect. -/
def execFwActivate (p : Port) (i : Nat) (s : State) : Result :=
  match mgmtVisit s p i 0x42 with
  | none => .next s
  | some (f, t) =>
    let k : ImgSlot := if (Entry.arg t.head).getLsbD 0 then .b else .a
    if (imageOf s.fw k).isNone then fails s f Status.noImage
    else if planTaken s then .next (setStage s f .transition)
    else .next (planTransition s f .start (.activate k) 0x10 false)

/-! ## MODE_SET (02 Table 2-2, 06 R184) -/

/-- MODE_SET with target Locked, from Service with an array; a target other than Locked and Service is malformed. -/
def execModeSetLocked (p : Port) (i : Nat) (s : State) : Result :=
  match mgmtVisit s p i 0x48 with
  | none => .next s
  | some (f, t) =>
    let target := Entry.subop t.head
    if target = 8 then .next s
    else if target ≠ 2 then fails s f Status.badField
    else if Entry.plen t.head ≠ 0 then fails s f Status.badLength
    else if s.mode.mode ≠ .service ∨ s.mode.cond = .none then fails s f Status.badMode
    else if planTaken s then .next (setStage s f .transition)
    else .next (planTransition s f .locked .leaveService 0x0F false)

/-- MODE_SET with target Service: a credential attempt from Locked, WRITE+KEY on volume 0 otherwise, as it was when the
command was taken (01 R24); a precondition that fails is BAD_MODE (02 R41). -/
def execModeSetService (p : Port) (i : Nat) (s : State) : Result :=
  match subVisit s p i 0x48 8 with
  | none => .next s
  | some (f, t) =>
    let go := fun s : State => planTransition s f .service .service 0x0E true
    if s.mode.mode = .locked then
      if Entry.plen t.head = 0 then fails s f Status.badLength
      else if planTaken s then .next (setStage s f .transition)
      else
        let r := attempt s f t (Taken.block t)
        match r.2 with
        | none => .next r.1
        | some _ => .next (go r.1)
    else if ¬ isCondition s.mode.mode then fails s f Status.badMode
    else if Entry.plen t.head ≠ 0 then fails s f Status.badLength
    else if t.grant0 < 3 then fails s f Status.badMode
    else if planTaken s then .next (setStage s f .transition)
    else .next (go s)

/-! ## RESET (11 R364) and LIFECYCLE (11 R339) -/

/-- The sources whose state RESET looks at: lid, mesh and monitors. -/
def standSources : List TamperSrc := [.lidOpen, .lidDisc, .mesh, .vinHigh, .coreV, .temp, .clock]

/-- An armed source stands. -/
def sourceStands (s : State) (standing : BitVec 9) : Bool :=
  standSources.any fun x => standing.getLsbD (tamperCode x - 1) && tamperActs s x

/-- RESET: from soft Lockdown it fails where an armed source stands at the Intake phase in which it is taken, which
`standing` gives; else the latch and its mirror are cleared at the commit point of its frame. -/
def execReset (p : Port) (i : Nat) (standing : BitVec 9) (s : State) : Result :=
  match mgmtVisit s p i 0x49 with
  | none => .next s
  | some (f, _) =>
    if s.mode.mode = .lockdown ∧ sourceStands s standing then fails s f Status.conflict
    else if planTaken s then .next (setStage s f .transition)
    else .next (addOrder (planTransition s f .start .reset 0x10 false) (.act f .clearLatch))

/-- The target of LIFECYCLE, its guard checked. -/
def lifecycleVisit (s : State) (p : Port) (i : Nat) (targets : List Nat) : Option (Ref × Taken) :=
  match mgmtVisit s p i 0x4A with
  | some (f, t) => if targets.contains (field (Entry.arg t.head) 0 2) then some (f, t) else none
  | none => none

/-- An advance is planned, or refused: the guard, the state it starts from, and what it needs (R189, Table 11-2). -/
def lifecycleGo (s : State) (f : Ref) (t : Taken) (ok : Bool) (target : Lifecycle) : Result :=
  if Entry.a t.head 0 ≠ 0x1FCA then fails s f Status.badField
  else if ¬ ok then fails s f Status.lifecycle
  else if planTaken s then .next (setStage s f .transition)
  else .next (planTransition s f .start (.lifecycle target) 0x11 false)

/-- Everything White to Grey needs is fused. -/
def greyReady (f : Fuses) : Bool := f.seedFused && f.helper && f.pkgFused && logicIds.all fun i => sigRefOf f i != 0

def execLifecycleGrey (p : Port) (i : Nat) (s : State) : Result :=
  match lifecycleVisit s p i [0, 1] with
  | none => .next s
  | some (f, t) =>
    lifecycleGo s f t (field (Entry.arg t.head) 0 2 == 1 && lifecycle s.fuse == .white && s.mode.mode == .factory &&
      greyReady s.fuse) .grey

def execLifecycleBlack (p : Port) (i : Nat) (s : State) : Result :=
  match lifecycleVisit s p i [2] with
  | none => .next s
  | some (f, t) => lifecycleGo s f t (lifecycle s.fuse == .grey && s.mode.mode == .service) .black

/-- Black to Red waits for a confirm press. -/
def execLifecycleRed (p : Port) (i : Nat) (s : State) : Result :=
  match lifecycleVisit s p i [3] with
  | none => .next s
  | some (f, t) =>
    let ok := lifecycle s.fuse == .black && s.mode.mode == .service
    if Entry.a t.head 0 = 0x1FCA ∧ ok ∧ ¬ t.pressed then .next (setStage s f .confirm)
    else lifecycleGo s f t ok .red

/-- The root store after White to Grey: only the anti-rollback counter stays, and the SEC configuration takes its reset
values (Table 11-2, Table 11-11). -/
def clearRootGrey (m : Memory) : Memory :=
  let kept := m.filter fun (c : Host.Cell) => decide (0x10 ≤ c.1) && decide (c.1 < 0x14)
  Memory.write (Memory.write kept 0x1480 (leBytes 4 0x104)) 0x1484 (leBytes 1 20 ++ zeros 3 ++ leBytes 2 60 ++ leBytes 1 160)

/-- What an advance does at its commit point; the target stands pending in the wipe record (R339). -/
def applyLifecycle (s : State) (target : Lifecycle) : State :=
  let s := match target with
    | .grey => { s with root := clearRootGrey s.root }
    | .red => hardWipe (zeroise s) 0 true
    | _ => s
  rootWrite s 0x1446 (leBytes 1 (lcCode target))

/-! ## FREEZE_ARM (13 R420) -/

/-- A non-zero match field goes with trigger 1 only. -/
def armFieldsOk (e : Entry) : Bool := field (Entry.a e 0) 0 2 == 1 || field (Entry.a e 0) 12 20 == 0

def armVisit (s : State) (p : Port) (i : Nat) (on : Bool) : Option (Ref × Taken) :=
  match mgmtVisit s p i 0x4B with
  | some (f, t) => if (Entry.arg t.head).getLsbD 0 = on then some (f, t) else none
  | none => none

/-- In White and Red only in Factory (Table 13-6). -/
def execFreezeArm (p : Port) (i : Nat) (s : State) : Result :=
  match armVisit s p i true with
  | none => .next s
  | some (f, t) =>
    if ¬ armFieldsOk t.head then fails s f Status.badField
    else if lifecycle s.fuse = .black ∧ ¬ t.pressed then .next (setStage s f .confirm)
    else done s f []

def execFreezeDisarm (p : Port) (i : Nat) (s : State) : Result :=
  match armVisit s p i false with
  | none => .next s
  | some (f, t) => if ¬ armFieldsOk t.head then fails s f Status.badField else done s f []

/-! ## VOLUME_KEY_CLEAR (02 R43) -/

/-- An order of the volume may still come: an entry of it is under way, a fold of it runs, or a rekey step. -/
def volumeBusy (s : State) (v : VolN) : Bool :=
  bothPorts.any (fun p => allRings.any fun r => (s.ring p r).taken.any fun t =>
    isIoOp (Entry.opcode t.head) && (Entry.vol t.head == v || flushAll t.head) && t.stage != .finished && !t.done) ||
  (v == 0 && (mgmtEntries s).any fun x => Entry.opcode x.2.head == 0x30 && x.2.stage != .finished && !x.2.done) ||
  s.tags.folding.any (fun x => x.vol == v) || (s.eng.rekey.inStep && s.eng.rekey.vol == v)

/-- Clears a key slot of both tables. -/
def clearKey (s : State) (k : Fin 64) : State :=
  { s with keys := { s.keys with prim := s.keys.prim.set k.val none, shadow := s.keys.shadow.set k.val none } }

/-- VOLUME_KEY_CLEAR: at the commit point after the volume's last order. -/
def execVolumeKeyClear (v : VolN) (s : State) : Result :=
  if s.clock.phase ≠ .commit ∨ ¬ s.mode.keyClear.contains v ∨ volumeBusy s v then .next s
  else
    let s := s.modMode fun m => { m with keyClear := m.keyClear.filter (· != v) }
    match volOf s v with
    | some x => .next (clearKey s x.key)
    | none => .next s

end Sys2Proof.Machine
end

