-- ==== Sys2Proof/Machine/Replay.lean ====
section
/-! DEFINITION. What Start reads back from the journal and replays (08 R241 to R243, R235, R317, R330, 09 R277, R279), and
the event log's highest record (13 R416). -/
namespace Sys2Proof.Machine

/-! ## Reading the journal -/

/-- Does the line at a journal address pass its check (03 R75, 08 R241)? -/
def lineOk (s : State) (bad : List Nat) (a : Nat) : Bool := !bad.contains (a / 64) && !s.jnl.badLines.contains (a / 64)

/-! ## The journal root (08 R241, 10 R322, R324) -/

/-- Entry i of the root store's 64: the commit number and the root. -/
def rootEntry (s : State) (i : Nat) : Nat × Bytes :=
  let bs := s.root.read (0x40 + 16 * i) 16
  (leNat (slice bs 0 8), slice bs 8 7)

/-- The entry with the highest number below a bound. -/
def topRoot (s : State) (below : Option Nat) : Nat × Bytes :=
  let under := fun (n : Nat) => (below.map fun b => decide (n < b)).getD true
  ((List.range 64).map (rootEntry s)).foldl (fun best x => if under x.1 && decide (best.1 < x.1) then x else best) (0, [])

/-- Does the root recomputed over the journal's counters equal an entry's? -/
def rootEquals (s : State) (x : Nat × Bytes) : Bool :=
  x.1 != 0 && x.2 == journalRoot s.fuse s.jnl.rootCtr.toList x.1

/-- The commit replay accepts: the newer of the last two that the recomputed root equals, if either. -/
def acceptedCommit (s : State) : Option Nat :=
  let newer := topRoot s none
  let older := topRoot s (some newer.1)
  if rootEquals s newer then some newer.1
  else if rootEquals s older then some older.1
  else none

/-- A control-block copy: generation, oldest sequence, write-cache tail. One that was never written has no generation. -/
def readCtl (s : State) (bad : List Nat) (a : Nat) : Option (Nat × Nat × Nat) :=
  let bs := Memory.read s.jnl.mem a 64
  let g := leNat (slice bs 0 8)
  if lineOk s bad a ∧ g ≠ 0 then some (g, leNat (slice bs 8 8), leNat (slice bs 16 2) % 2 ^ 14) else none

/-- The copy with the higher generation of those that pass. -/
def newestCtl (s : State) (bad : List Nat) : Option (Nat × Nat × Nat) :=
  match readCtl s bad ctlA, readCtl s bad ctlB with
  | some a, some b => some (if a.1 < b.1 then b else a)
  | some a, none => some a
  | none, b => b

/-- Record q, from copy A or else from copy B. -/
def recAt (s : State) (bad : List Nat) (q : Nat) : Option IntentRec :=
  let from_ := fun base : Nat =>
    let a := base + 64 * (q % recCount)
    if lineOk s bad a then parseIntent (Memory.read s.jnl.mem a 64) q else none
  match from_ intentA with
  | some r => some r
  | none => from_ intentB

/-- The scan of R241 from q on: the records, the numbers passed over, and the first number not found. -/
def scanRecs (s : State) (bad : List Nat) : Nat → Nat → List IntentRec × List Nat × Nat
  | 0, q => ([], [], q)
  | fuel + 1, q =>
    match recAt s bad q with
    | some r =>
      let (rs, sk, n) := scanRecs s bad fuel (q + 1)
      (r :: rs, sk, n)
    | none =>
      if (recAt s bad (q + 1)).isSome then
        let (rs, sk, n) := scanRecs s bad fuel (q + 1)
        (rs, q :: sk, n)
      else ([], [], q)

/-- Slots a record has. -/
def recSlots (r : IntentRec) : Nat :=
  match r.type with
  | .write => r.count
  | .solved => r.count * popcount 6 r.positions
  | _ => 0

/-- Does a write-cache slot fail its check? -/
def slotFails (s : State) (bad : List Nat) (k : Nat) : Bool :=
  (List.range 64).any fun i => !lineOk s bad (slotAddr (k % slotCount) + 64 * i)

/-- The bitmap as the journal holds it. DESIGN CHOICE (log entry 78): where its header fails its check nothing is marked
and marking is not active, so a member that returns is rebuilt whole; where another line fails, every bit of it counts as
marked. -/
def readBitmap (s : State) (bad : List Nat) : Bitmap :=
  let h := Memory.read s.jnl.mem bitmapBase 16
  let cells := s.jnl.mem.filter fun (c : Host.Cell) =>
    decide (bitmapBase + 64 ≤ c.1) && decide (c.1 < lostBase) && lineOk s bad c.1
  let lost := (List.range 4095).filterMap fun l =>
    if lineOk s bad (bitmapBase + 64 * (l + 1)) then none else some l
  if ¬ lineOk s bad bitmapBase then Bitmap.init
  else
    { g := leNat (slice h 0 1), active := leNat (slice h 1 1) % 2 == 1, ag := leNat (slice h 8 8),
      bits := (cells.flatMap fun c => (List.range 8).filterMap fun i =>
          if c.2.getLsbD i then some ((c.1 - bitmapBase) * 8 + i - 512) else none) ++
        lost.flatMap fun l => (List.range 512).map fun i => 512 * l + i }

/-- The lost-unit map as the journal holds it: the entries whose line passes its check; where the header's does not, every
valid one of them (log entry 78). -/
def readLost (s : State) (bad : List Nat) : List LostUnit :=
  let n := if lineOk s bad lostBase then min 16383 (leNat (Memory.read s.jnl.mem lostBase 8)) else 16383
  (List.range n).filterMap fun i =>
    let bs := Memory.read s.jnl.mem (lostBase + 16 * (i + 1)) 16
    let w := leNat (slice bs 0 8)
    if w / 2 ^ 39 % 2 = 1 ∧ lineOk s bad (lostBase + 16 * (i + 1)) then
      some { row := w % 2 ^ 36, pos := six (w / 2 ^ 36 % 8),
             good := (List.range 64).filter fun b => leNat (slice bs 8 8) / 2 ^ b % 2 = 1 }
    else none

/-- The entries of a tag-log line. -/
def readTagLine (m : Memory) (p line : Nat) : List TagEnt :=
  let bs := Memory.read m (metaBase + 64 * p) 64
  let seq := leNat (slice bs 0 6)
  let v := leNat (slice bs 6 1)
  let n := leNat (slice bs 7 1)
  if seq = 0 ∨ n = 0 ∨ 2 < n then []
  else (List.range n).map fun i =>
    let e := slice bs (16 + 24 * i) 24
    { line := line, seq := seq, vol := sixtyFour v, lbn := leNat (slice e 0 8), ctr := leNat (slice e 8 8),
      tag := slice e 16 8, frame := 0 }

/-- The tag log after a power loss: every line of a present sealed volume that passes its check and whose record landed,
the newest record's last line newest (R317, 01 R20; log entry 47). -/
def readTags (s : State) (bad : List Nat) (accepted next : Nat) : SealSt :=
  let cells := s.jnl.mem.filter fun (c : Host.Cell) =>
    decide (metaBase ≤ c.1) && decide (c.1 < metaBase + 64 * tagLines) && lineOk s bad c.1
  let landed := fun p => match (readTagLine s.jnl.mem p p).head? with
    | some e => decide (e.seq < next)
    | none => false
  let places := ((cells.map fun c => (c.1 - metaBase) / 64).eraseDups).filter landed
  let used := places.filterMap fun p => ((readTagLine s.jnl.mem p p).head?).map fun e => (e.seq, p)
  let top := used.foldl (fun best x => if best.1 ≤ x.1 then x else best) (0, 0)
  let at_ := fun p => if p ≤ top.2 then p + tagLines else p
  let live := fun e : TagEnt => match volOf s e.vol with
    | some x => x.isSealed && !x.stale
    | none => false
  let older := (places.filter fun p => decide (top.2 < p)).flatMap fun p => readTagLine s.jnl.mem p (at_ p)
  let newer := (places.filter fun p => decide (p ≤ top.2)).flatMap fun p => readTagLine s.jnl.mem p (at_ p)
  let log := (older ++ newer).filter live
  let head := if used.isEmpty then 0 else at_ top.2 + 1
  { SealSt.init with tagLog := log, head := head, tail := (log.head?.map (·.line)).getD head,
                     bankB := BitVec.ofNat 64 ((allVols.filter (startBank s accepted)).map fun v => 2 ^ v.val).sum }

/-- The bitmap for a session: marking that assembly has begun stands (09 R277). -/
def sessionBitmap (now b : Bitmap) : Bitmap :=
  if now.active ∧ ¬ b.active then { b with active := true, ag := now.ag } else b

/-- The journal's view in the state, for the records the scan found. -/
def loadJournal (s : State) (bad : List Nat) (ctl : Nat × Nat × Nat) (recs : List IntentRec) (next : Nat) : State :=
  let withSlots := recs.filter fun r => recSlots r != 0
  let tail := match withSlots with
    | r :: _ => r.slot
    | [] => ctl.2.2
  let head := match withSlots.getLast? with
    | some r => (r.slot + recSlots r) % slotCount
    | none => ctl.2.2
  s.modJnl fun j =>
    { j with nextSeq := next, oldest := ctl.2.1, recs := recs, ctlGen := ctl.1, wcHead := head,
             wcUsed := if withSlots.isEmpty then 0 else (head + slotCount - tail - 1) % slotCount + 1,
             bitmap := sessionBitmap j.bitmap (readBitmap s bad), lost := readLost s bad }

/-- The journal as far as assembly needs it: does it hold unretired records (09 R273)? -/
def peekJournal (s : State) : State :=
  match newestCtl s [] with
  | some c =>
    let (rs, _, n) := scanRecs s [] recCount c.2.1
    loadJournal s [] c rs n
  | none => s

/-- The journal's rekey line: of its two copies that pass their check, the one with the higher state and boundary. -/
def rekeyLine (s : State) (bad : List Nat) : RekeyRec :=
  let at_ := fun p => let a := metaBase + 64 * p
    if lineOk s bad a then parseRekey (Memory.read s.jnl.mem a 64) else RekeyRec.none
  let x := at_ 16382
  let y := at_ 16383
  if x.state < y.state ∨ (x.state = y.state ∧ x.b < y.b) then y else x

/-- The rekey goes on from the higher of the view's B and the journal line's (R330). A line in state 2 says that the rekey
had completed: what is left of it, the new wrap in every superblock and the line's clearing, is done before release, from
the line (R331, R335). Either holds only where the root store names the array. -/
def loadRekey (s : State) (bad : List Nat) : State :=
  match s.array with
  | none => s
  | some a =>
    let line := if uuidBytes a.uuid = rootUuid s then rekeyLine s bad else RekeyRec.none
    if line.state = 2 ∧ a.vtab[line.vol.val].present then
      let s := s.modArray fun a => { a with rekey := line }
      writeSb { s with eng := { s.eng with rekey := { EngSts.init.rekey with running := true, vol := line.vol, b := line.b } } }
        (.rekeyEnd line.vol)
    else if a.rekey.state = 0 then s
    else
      let b := if line.state ≠ 0 ∧ line.vol = a.rekey.vol then max a.rekey.b line.b else a.rekey.b
      let s := s.modArray fun a => { a with rekey := { a.rekey with b := b } }
      { s with eng := { s.eng with rekey := { EngSts.init.rekey with running := true, vol := a.rekey.vol, b := b } } }

/-! ## Redo (R242) -/

/-- What replay has of one block of a window. -/
inductive Source where
  | held (bs : Bytes)      -- the journal holds it
  | lost                   -- its slot failed its check
  | clean                  -- the members or a SOLVED record have it

/-- newest(b): the newest listed record that names the address. -/
def sourceOf (s : State) (bad : List Nat) (addr : Nat) : Source :=
  match newestComplete s addr with
  | none => .clean
  | some r =>
    let i := addr - recAddr s r
    if r.type = .write ∧ slotFails s bad (r.slot + i) then .lost else .held (recBlock s r i)

/-- The SOLVED record of a ROW record: the same row and b0, after it and before the next such ROW (R239). -/
def solvedOf (s : State) (r : IntentRec) : Option IntentRec :=
  let same := s.jnl.recs.filter fun x => x.at_ == r.at_ && x.b0 == r.b0 && decide (r.seq < x.seq)
  let next := (same.find? fun x => x.type == .row).map (·.seq)
  (same.filter fun x => x.type == .solved && match next with
    | some q => decide (x.seq < q)
    | none => true).getLast?

/-- Block i of a position from a SOLVED record: units lie in ascending position order. -/
def solvedBlock (s : State) (x : IntentRec) (p : PosN) (i : Nat) : Option Bytes :=
  let ps := allPos.filter fun q => x.positions.getLsbD q.val
  if ps.contains p then some (slotBytes s (x.slot + ps.idxOf p * x.count + i)) else none

/-- A clean or lost block of data unit j at block i of the window: from the SOLVED record, or the member; the lost-unit map
does not stand in the way of a lost slot's block (R242). -/
def redoRead (s : State) (media : List MediaRead) (r : IntentRec) (isLost : Bool) (j i : Nat) : Option Bytes :=
  match rolePos s r.at_ (.data j) with
  | none => none
  | some p =>
    match (solvedOf s r).bind fun x => solvedBlock s x p i with
    | some bs => some bs
    | none =>
      let b := r.b0 + i
      if posOut s p r.at_ b ∨ (blockLost s r.at_ p b ∧ ¬ isLost) then none
      else mediaAt media p (areaBlock s r.at_ b)

/-- The data units of block i of a window, as far as they can be had. -/
def redoData (s : State) (v : ReplayView) (r : IntentRec) (i : Nat) : List (Option Bytes) :=
  (List.range (layoutK s)).map fun j =>
    match sourceOf s v.bad (addrOf s r.at_ j (r.b0 + i)) with
    | .held bs => some bs
    | .lost => redoRead s v.media r true j i
    | .clean => redoRead s v.media r false j i

/-- The writes of journal-held blocks. -/
def redoHeld (s : State) (v : ReplayView) (r : IntentRec) : Plan :=
  (List.range (layoutK s)).flatMap fun j => (List.range r.count).filterMap fun i =>
    match sourceOf s v.bad (addrOf s r.at_ j (r.b0 + i)), rolePos s r.at_ (.data j) with
    | .held bs, some p =>
      if posWritten s p r.at_ (r.b0 + i) then some (p, areaBlock s r.at_ (r.b0 + i), bs) else none
    | _, _ => none

/-- The writes of the accumulators, from the full set of data units. -/
def redoReds (s : State) (v : ReplayView) (r : IntentRec) : Plan :=
  let d := rowDesc s r.at_
  (List.range d.m).flatMap fun a => (List.range r.count).filterMap fun i =>
    match rolePos s r.at_ (.red a) with
    | some p =>
      if posWritten s p r.at_ (r.b0 + i) then
        some (p, areaBlock s r.at_ (r.b0 + i), redBlock d a ((redoData s v r i).map (·.getD [])))
      else none
    | none => none

/-- Puts a plan's member commands into the frame. -/
def sendPlan (s : State) (plan : Plan) : State :=
  let ps := (plan.map (·.1)).eraseDups
  ps.foldl (fun s p => match slotOf s p with
    | some m =>
      (joinRuns ((plan.filter fun w => w.1 == p).map fun w => (w.2.1, w.2.2))).foldl
        (fun s w => planMember s m (.write (64 + w.1) w.2) .redo) s
    | none => s) s

/-- One window is redone: its writes, and its losses. -/
def redo (v : ReplayView) (s : State) (r : IntentRec) : State :=
  let whole := (List.range r.count).all fun i => (redoData s v r i).all Option.isSome
  let held := redoHeld s v r
  if whole then sendPlan s (held ++ redoReds s v r)
  else
    (List.range (rowDesc s r.at_).m).foldl (fun s a => match rolePos s r.at_ (.red a) with
      | some p => enterOrLose s r.at_ p ((List.range r.count).map (r.b0 + ·))
      | none => s) (sendPlan s held)

/-- A redone window's writes have ended: its marks and its ROWDONE record. -/
def endRedo (s : State) (r : IntentRec) : State :=
  let targets := ((rowDesc s r.at_).lanes.length |> List.range).filterMap fun l =>
    if h : l < 6 then some (⟨l, h⟩ : PosN) else none
  let (s, marks) := if skipsMissing s targets then markRow s r.at_ else (s, [])
  let upTo := s.jnl.nextSeq
  let s := (List.range (layoutK s)).foldl (fun s j => (List.range r.count).foldl (fun s i =>
    markDone s upTo (addrOf s r.at_ j (r.b0 + i))) s) s
  let (x, s) := addRec s { IntentRec.base .rowDone with count := r.count, at_ := r.at_, b0 := r.b0, durable := true }
  planJournal s (marks ++ intentWrites x) .none

/-- Blocks whose slots fail their check: in the lost-unit map, and no part of any destage (R241, R242). -/
def loseSlots (bad : List Nat) (s : State) : State :=
  let hits := (s.jnl.recs.filter fun r => r.type == .write).flatMap fun r =>
    ((List.range r.count).filter fun i => slotFails s bad (r.slot + i)).map fun i => (r.seq, recAddr s r + i, i)
  let s := hits.foldl (fun s h =>
    let p := placeOf s h.2.1
    match rolePos s p.row (.data p.j) with
    | some pos => enterOrLose s p.row pos [p.b]
    | none => s) s
  s.modJnl fun j => { j with recs := j.recs.map fun r =>
    { r with done := r.done ++ (hits.filter fun h => h.1 == r.seq).map (·.2.2) } }

/-- The ROW records without a later ROWDONE for the same row and b0. -/
def openRows (s : State) : List IntentRec :=
  s.jnl.recs.filter fun r => r.type == .row && !s.jnl.recs.any fun x =>
    x.type == .rowDone && x.at_ == r.at_ && x.b0 == r.b0 && decide (r.seq < x.seq)

/-- R241: the root is recomputed and compared with the last two in the root store, the journal is read, and its open windows
are redone. Lines that failed fail until they are written again. `none`: replay stops with JOURNAL_ROOT. -/
def replay (s : State) (v : ReplayView) : Option State :=
  match if v.altered then none else acceptedCommit s, newestCtl s v.bad with
  | some n, some c =>
    let (rs, skipped, next) := scanRecs s v.bad recCount c.2.1
    let s := s.modJnl fun j => { j with commitNo := n, badLines := (j.badLines ++ v.bad).eraseDups }
    let tags := readTags s v.bad n next
    let s := loadJournal s v.bad c rs next
    let s := skipped.foldl (fun s q => logIntegrity s 0 (intentA + 64 * (q % recCount)) 0 Status.journalMedia) s
    let s := if skipped.isEmpty then s else startFailure s Status.journalMedia 0
    let s := loseSlots v.bad s
    let rows := openRows s
    let s := rows.foldl (redo v) s
    some { s with tags := tags, start := { s.start with redo := true, rows := rows.length } }
  | _, _ => none

/-- A write of a redone window that has not ended. -/
def redoing (s : State) : Bool :=
  s.morders.any (fun o => o.owner == .redo) ||
  s.gate.orders.any fun o => match o with
    | .member o => o.owner == .redo
    | _ => false

/-- The writes of the redone windows have ended: their ROWDONE records are released, and what can retire does (R241). -/
def endReplay (s : State) : State :=
  let s := (openRows s).foldl endRedo s
  let s := if s.jnl.lost = readLost s [] then s else planJournal s (lostWrites s) .none
  let s := if Memory.read s.jnl.mem bitmapBase 64 = bitmapHeader s.jnl.bitmap ∨ ¬ s.jnl.bitmap.active then s
    else planJournal s [(bitmapBase, bitmapHeader s.jnl.bitmap)] .none
  let s := loadRekey (retire s) []
  let pend := (s.jnl.recs.filter fun r => r.type == .write).length
  { s with start := { s.start with redo := false, pend := pend, replayed := true, stage := .s8 } }

/-! ## The event log (13 R416) -/

/-- The highest sequence number of a valid record in the log: its CRC holds, and the lines it lies in pass their check. -/
def logHighest (s : State) : Nat :=
  let base := logOffset 1
  let cells := s.jnl.mem.filter fun (c : Host.Cell) => decide (base ≤ c.1) && decide (c.1 < base + 72 * 28672)
  let places := (cells.map fun c => (c.1 - base) / 72).eraseDups
  (places.filterMap fun p =>
    let ws := wordsOf (Memory.read s.jnl.mem (base + 72 * p) 72)
    let q := ws.getD 0 0
    let a := base + 72 * p
    if lineOk s [] a ∧ lineOk s [] (a + 71) ∧ q ≠ 0 ∧ (q - 1) % 28672 = p ∧ (crc32c ((ws.take 15).flatMap container)).toNat = ws.getD 15 0 then some q
    else none).foldl max 0

end Sys2Proof.Machine
end

