-- ==== Sys2Proof/Machine/Start.lean ====
section
/-! DEFINITION. Supply and Start (03, 14 R437): loss and return of VIN, the stages S1 to S8, their outcomes, release, halts,
and what wakes the device from Vault (02 R48). -/
namespace Sys2Proof.Machine

/-! ## What a session keeps -/

/-- The codes of the AUX functions that AUX0 keeps in Vault: TAMPER_OUT and WAKE_IN (02 R55). -/
def vaultAux (c : BitVec 4) : BitVec 4 := if c = 6 ∨ c = 7 then c else 0

/-- The subsystem IDs of this Start: what the root store holds, unless nothing was programmed (04 R103, R104). -/
def subIds (s : State) : BitVec 16 × BitVec 16 :=
  let w := dwOf (Memory.read s.root 0x18 4)
  if w = 0 then (0x1D9B, 0x0636) else (w.extractLsb' 0 16, w.extractLsb' 16 16)

/-- A port at reset: the levels the host drives stay as they are. -/
def freshPort (s : State) (q : PortSt) : PortSt :=
  { PortSt.init with perst := q.perst, refclk := q.refclk, cfg := CfgSpace.init (subIds s).1 (subIds s).2 }

/-- A port at a Start without loss of VIN: its BAR0 state is `q`, re-initialised; the link, the power state and
configuration space, but for AER's sticky bits and the subsystem IDs, go on as they were (04 R466, Table 4-9). -/
def warmPort (q was : PortSt) : PortSt :=
  { q with phy := was.phy, linkUp := was.linkUp, linkSpeed := was.linkSpeed, linkWidth := was.linkWidth, d3 := was.d3,
           d3Pend := was.d3Pend, l1 := was.l1, l11 := was.l11, l12 := was.l12, lastTlp := was.lastTlp,
           crs := was.crs, intx := was.intx, bmeSince := was.bmeSince.map fun _ => 0,
           cfg := { was.cfg with uncMask := q.cfg.uncMask, uncSev := q.cfg.uncSev, corMask := q.cfg.corMask,
                                 ecrcGen := q.cfg.ecrcGen, ecrcChk := q.cfg.ecrcChk, subVendor := q.cfg.subVendor,
                                 subId := q.cfg.subId } }

/-- A slot at reset: presence stays as it was last seen. -/
def freshSlot (x : SlotSt) : SlotSt := { SlotSt.init with present := x.present }

/-- The state with everything volatile at its reset value: what is left is the queue, the always-on domain, fuses, root
store, firmware store, the journal's memory, and levels from outside. -/
def freshSession (s : State) : State :=
  { State.reset with
    pending := s.pending, out := s.out, free := s.free,
    clock := { State.reset.clock with rtc := s.clock.rtc, aonLost := s.clock.aonLost },
    supply := s.supply, fuse := s.fuse, root := s.root, fw := s.fw,
    portA := freshPort s s.portA, portB := freshPort s s.portB, slots := s.slots.map freshSlot,
    cache := CacheSt.init s.supply.strap,
    jnl := { JnlSt.init with mem := s.jnl.mem, rootCtr := s.jnl.rootCtr, spares := s.jnl.spares,
                             badLines := s.jnl.badLines },
    sec := { SecSt.init with latch := s.sec.latch, first := s.sec.first, seen := s.sec.seen, latchRtc := s.sec.latchRtc,
                             tampCfg := s.sec.tampCfg, lidCfg := s.sec.lidCfg, confDisc := s.sec.confDisc,
                             confWin := s.sec.confWin, chan := s.sec.chan },
    mode := { ModeSt.init with gpioIn := s.mode.gpioIn },
    scanIr := s.scanIr, scanCells := s.scanCells, scanHold := s.scanHold }

/-- A commit of which only the first n lines landed: the root store holds its root, the journal's counters do not answer
to it, and all its lines fail from now on (08 R236, R241: "lines of the last commit count as failing"; log entry 79). -/
def tearCommit (s : State) (c : JCommit) (n : Nat) : State :=
  let t := bumpCounters s c
  let s := landLines { s with root := t.root } (c.writes.take n)
  s.modJnl fun j => { j with badLines := j.badLines ++ c.writes.flatMap fun w =>
    (List.range ((w.2.length + 63) / 64)).map fun i => w.1 / 64 + i }

/-- The first n writes of the commits under way land, in their order (14 R437, 08 R236). -/
def landCommits (s : State) : Nat → List JCommit → State
  | _, [] => s
  | 0, _ => s
  | n + 1, c :: rest =>
    if c.writes.length ≤ n + 1 then landCommits (landCommit s c rest) (n + 1 - c.writes.length) rest
    else tearCommit s c (n + 1)

def landWrites (s : State) (n : Nat) : State := landCommits s n s.jnl.inflight

/-- All of them land. -/
def landAll (s : State) : State := landWrites s (s.jnl.inflight.flatMap (·.writes)).length

/-! ## VIN (14 R437) -/

/-- VIN_LOST: the line writes begun are completed, and the device is in Vault; the always-on state is lost where VBAT does
not carry it (14 R443, R445). -/
def execVinLost (landed : Nat) (reversed : Bool) (s : State) : Result :=
  if s.mode.mode = .vault then .next s
  else
    let was := s.mode.mode
    let own := vaultAux (s.mode.auxOwn.toList.getD 0 0)
    let s := freshSession (landWrites s landed)
    let s := { s with supply := { s.supply with vin := false, vinReversed := s.supply.vinReversed || reversed },
                      clock := { s.clock with phase := .stopped } }
    let s := s.modMode fun m => { m with mode := .vault, prior := was, auxOwn := #v[own, 0, 0, 0] }
    .next (if aonAlive s then s else loseAon s)

/-- Stage H begins (03 R67). -/
def powerStage (s : State) : State :=
  let s := { s with supply := { s.supply with vin := true }, clock := { s.clock with phase := .stopped },
                    start := { StartSt.init with stage := .h } }
  s.modMode fun m => { m with mode := .start, prior := .vault, cause := 0x01 }

/-- VIN_VALID. -/
def execVinValid (s : State) : Result := if s.mode.mode = .vault then .next (powerStage s) else .next s

/-- WAKE_IN (02 R48): AUX0, with that function, wakes from Drowse, and from Vault where VIN is in range. -/
def execWakeIn (s : State) : Result :=
  if (s.mode.auxOwn.toList.getD 0 0) ≠ 7 then .next s
  else match s.mode.mode with
    | .vault => .next (powerStage s)
    | .drowse => .next (wakeDrowse s 0)
    | _ => .next s

/-- POWER_ON_END: F0. -/
def execPowerOnEnd (strapHigh : Bool) (s : State) : Result :=
  if s.mode.mode ≠ .start ∨ s.start.stage ≠ .h then .next s
  else .next (freshSession { s with supply := { s.supply with strap := strapHigh } })

/-! ## A Start without loss of VIN (03 R67) -/

/-- The transition to Start takes effect: every slot whose rail is on is taken down. -/
def beginTakedown (s : State) : State :=
  let s := { s with start := { StartSt.init with takedown := true } }
  allSlots.foldl (fun s m => if (s.slot m).rail ∧ (s.slot m).pd.isNone then powerDown s m false else s) s

/-- The log over a Start without loss of VIN: records whose writes were released are in the journal; the others keep
their numbers (13 R416). -/
def keepLog (l : LogSt) : LogSt :=
  let keep := fun r : LogRec => !l.written.contains r.seq
  { LogSt.init with next := l.next, raised := l.raised, general := l.general.filter keep,
                    reserved := l.reserved.filter keep, wiped := l.wiped }

/-- START_SLOT_TAKEDOWN_END: the last rail is off, and F0 begins. MODE registers keep what R42 wrote, and the throttle and
alarms their comparators. -/
def execStartSlotTakedownEnd (s : State) : Result :=
  if s.mode.mode ≠ .start ∨ ¬ s.start.takedown ∨ allSlots.any (fun m => (s.slot m).rail || (s.slot m).pd.isSome) then
    .next s
  else
    let m := s.mode
    let l := keepLog s.log
    let s := dropAcmp (landAll s) fun a => a.user == 2 || a.user == 3
    let acmp := s.mode.acmp
    let t := freshSession s
    let s := { t with log := l, portA := warmPort t.portA s.portA, portB := warmPort t.portB s.portB }
    .next (s.modMode fun x => { x with prior := m.prior, cause := m.cause, src := m.src, slot := m.slot, entry := m.entry,
                                       chg := m.chg, acmp := acmp })

/-! ## Outcomes of Start (03 R72 to R76, R87) -/

/-- Start ends in Lockdown: no later stage begins. -/
def lockStart (s : State) (cause : Nat) : State := enablePhys (planLockdown s cause 0)

/-- A stage runs: Start is in it, and no end of Start is already decided. -/
def inStage (s : State) (st : Stage) : Bool :=
  s.mode.mode == .start && !s.start.takedown && !s.start.halt && s.start.stage == st && s.mode.plan.isNone

/-- What a failing block does to the rest of Start (Tables 3-3 and 3-4): its own unit is taken out. -/
def failUnit (s : State) (id : Nat) : State :=
  let t := s.start
  match id with
  | 0x01 => { s with start := { t with failedUmber := true } }
  | 0x02 => { s with start := { t with failedSlate := true } }
  | 0x03 => { s with start := { t with failedPortA := true } }
  | 0x04 => { s with start := { t with failedPortB := true } }
  | 0x0B => { s with start := { t with parityOut0 := true } }
  | 0x0C => { s with start := { t with parityOut1 := true } }
  | 0x17 => { s with cache := { s.cache with victDis := true } }
  | 0x1D => match s.cx.pref with
    | .umber => { s with start := { t with failedSlate := true } }
    | .slate => { s with start := { t with failedUmber := true } }
  | _ =>
    if 0x10 ≤ id ∧ id < 0x16 then
      { s with start := { t with memberBad := t.memberBad ||| BitVec.ofNat 6 (2 ^ (id - 0x10)) } }
    else s

/-- Blocks that end Start in Service by themselves. -/
def serviceBlock (id : Nat) : Bool := [0x0D, 0x0F, 0x16, 0x18, 0x1A].contains id

/-- Blocks that halt Start by themselves. -/
def haltBlock (id : Nat) : Bool := [0x0E, 0x19, 0x1B, 0x1C].contains id

/-- After S4 the complexes run: one whose block fails stops, and the other runs simplex (Table 3-3, R81). -/
def dropFailed (s : State) : State :=
  if ¬ runsStart s then s
  else
    let t := s.start
    let s := if t.failedUmber && plans s.cx.umber then settleSole (leaveCx s .umber) else s
    let s := if t.failedSlate && plans s.cx.slate then settleSole (leaveCx s .slate) else s
    { s with start := { s.start with simplex := t.simplex || t.failedUmber || t.failedSlate } }

/-- The outcome of the blocks that failed in a stage: Lockdown before a halt, a halt before Service. `none`: Start goes on
in the state given. -/
def blocksFail (s : State) (st : Status) (ids : List Nat) : State × Bool :=
  let s := ids.foldl (fun s id => startFailure s st id) s
  let s := ids.foldl failUnit s
  let t := s.start
  let halt := ids.any haltBlock || (t.failedUmber && t.failedSlate) || (t.failedPortA && t.failedPortB)
  if ids.any securityBlock then (lockStart s 0x15, false)
  else if halt then (haltStart s, false)
  else (dropFailed { s with start := { t with
    service := t.service || ids.any serviceBlock || (t.parityOut0 && t.parityOut1) } }, true)

/-- The next stage begins where Start goes on. -/
def nextStage (r : State × Bool) (st : Stage) : Result :=
  if r.2 then .next { r.1 with start := { r.1.start with stage := st } } else .next r.1

/-! ## S1 (R69, R70, 11 R363) -/

/-- Is every sample of a window inside Table 3-2? Rails in tenths of a millivolt, VIN in millivolts. -/
def windowOk (s : State) (w : WindowSample) : Bool :=
  let tj : Int × Int := match s.supply.grade with
    | .c => (-5, 105)
    | .e => (-25, 115)
  decide (3118750 ≤ w.cycles) && decide (w.cycles ≤ 3131250) &&
  decide (7275 ≤ w.coreMin) && decide (w.coreMax ≤ 7725) && decide (17100 ≤ w.ioMin) && decide (w.ioMax ≤ 18900) &&
  decide (9975 ≤ w.memMin) && decide (w.memMax ≤ 11025) && decide (4400 ≤ w.vinMin) && decide (w.vinMax ≤ 24000) &&
  decide (tj.1 ≤ w.tjMin) && decide (w.tjMax ≤ tj.2)

/-- The fuse of a lifecycle is blown. -/
def blowFuse (f : Fuses) : Nat → Fuses
  | 1 => { f with g := true }
  | 2 => { f with b := true }
  | 3 => { f with x := true }
  | _ => f

/-- R363: a wipe in state 1 is completed; then any pending fuse is blown; then a wiped device loses its latch. -/
def handleWipe (s : State) : State :=
  let s := if wipeState s.root = 1 then
      rootWrite { s with root := s.root.filter fun c => wipeKeeps c.1 } 0x1440 (leBytes 4 2) else s
  let s := rootWrite { s with fuse := blowFuse s.fuse (wipeTarget s.root) } 0x1446 [0]
  if wipeState s.root = 2 then
    rootWrite (rootWrite (s.modSec fun c => { c with latch := false, first := 0, seen := 0, latchRtc := 0, latchFrame := none })
      0x14A0 (zeros 12)) 0x1440 (leBytes 4 3)
  else s

/-- The latch reads as set if it or its mirror is (11 R357). -/
def readLatch (s : State) : State :=
  if s.sec.latch ∨ leNat (s.root.read 0x14A0 1) ≠ 1 then s
  else s.modSec fun c => { c with
    latch := true, first := BitVec.ofNat 8 (leNat (s.root.read 0x14A1 1)),
    seen := BitVec.ofNat 9 (leNat (s.root.read 0x14A2 2)), latchRtc := leNat (s.root.read 0x14A4 8) }

/-- The SEC configuration is loaded from the security region (11 R367). -/
def loadSecConfig (s : State) : State :=
  let conf := leNat (s.root.read 0x1488 4)
  s.modSec fun c => { c with
    tampCfg := BitVec.ofNat 18 (leNat (s.root.read 0x1480 4)), lidCfg := BitVec.ofNat 8 (leNat (s.root.read 0x1484 4)),
    confDisc := BitVec.ofNat 9 conf, confWin := BitVec.ofNat 8 (conf / 2 ^ 16) }

/-- WINDOWS_CLOSE: S1 passes in the first good window; 16 bad ones halt. -/
def execWindowsClose (w : WindowSample) (s : State) : Result :=
  if ¬ inStage s .s1 then .next s
  else if windowOk s w then
    let s := loadSecConfig (readLatch (handleWipe s))
    let s := { s with start := { s.start with windows := s.start.windows + 1 } }
    if s.sec.latch then .next (lockStart s 0x13)
    else .next { s with start := { s.start with stage := .s2 } }
  else
    let s := { s with start := { s.start with windows := s.start.windows + 1 } }
    .next (if s.start.windows < 16 then s else haltStart (startFailure s Status.windowFail 0))

/-! ## S2 and S3 (R71 to R75) -/

/-- Blocks without a reference are reported as untested (R71). -/
def noteUntested (s : State) : State :=
  { s with start := { s.start with untested := logicIds.any (untestedBlock s.fuse) } }

/-- LOGIC_SELF_TEST_END. -/
def execLogicSelfTestEnd (sigs : List (Nat × W32)) (s : State) : Result :=
  if ¬ inStage s .s2 then .next s
  else
    let measured := fun id => ((sigs.find? fun x => x.1 == id).map (·.2)).getD 0
    nextStage (blocksFail (noteUntested s) Status.sigMismatch
      (logicIds.filter fun id => sigFails s.fuse id (measured id))) .s3

/-- The ways S3 retires. -/
def badWays (s : State) (fs : List MemFault) : List Nat :=
  (fs.filter fun f => f.id == 0x16 && !covered s f).map (·.way)

/-- MEMORY_TEST_END: fuse repairs stand, soft repairs follow, ways and victim lines are retired, and the blocks whose
spares run out have their outcome (R73 to R75). -/
def execMemoryTestEnd (faults : List MemFault) (s : State) : Result :=
  if ¬ inStage s .s3 then .next s
  else
    let fs := (mergeFaults faults).filter (failing s)
    let ways := badWays s fs
    let lines := ((fs.filter fun f => f.id == 0x17).map fun f => (newLines s f false).length).sum
    let soft := ((fs.filter fun f => f.id != 0x17).map (softOf s)).sum
    let ids := ((fs.filter fun f => !covered s f && f.id != 0x16 && f.id != 0x17).map (·.id)) ++
      (if 8 < ways.length then [0x16] else [])
    let mask := BitVec.ofNat 16 ((ways.map (2 ^ ·)).sum)
    let s := (fs.filter (covered s)).foldl spareRows s
    let s := { s with
      start := { s.start with soft := soft, repaired := decide (soft ≠ 0) || decide (lines ≠ 0),
                              ways := mask, vict := min 15 lines },
      cache := { s.cache with wayRet := mask, victRet := min 15 lines, victDis := decide (8 < lines) } }
    nextStage (let r := blocksFail s Status.repairExhausted ids; (if r.2 then enablePhys r.1 else r.1, r.2)) .s4

/-! ## S4 (R79 to R82) -/

def trialRead (t : BootTrial) : ImgSlot → Option Bytes
  | .a => t.readA
  | .b => t.readB

/-- What a complex's boot ROM makes of a slot. -/
def trialVerdict (s : State) (t : BootTrial) (k : ImgSlot) : Status := slotVerdict s k (trialRead t k)

/-- A boot ROM that reads what the store holds. -/
def BootTrial.clean : BootTrial := { readA := none, readB := none, digest1 := 0, digest2 := 0 }

/-- The slot a complex boots: the active one, or else the other. -/
def bootSlot (s : State) (t : BootTrial) : Option ImgSlot :=
  let k := s.fw.active
  if trialVerdict s t k = Status.success then some k
  else if trialVerdict s t (otherSlot k) = Status.success then some (otherSlot k)
  else none

/-- S6 and S7 are skipped (R72, R82). -/
def skipsMembers (s : State) : Bool := s.start.service || openLifecycle s

/-- S6 begins: slot power is applied to every present slot whose port works (R83). -/
def beginS6 (s : State) : State :=
  if skipsMembers s then { s with start := { s.start with s6 := true } }
  else
    let there := allSlots.filter fun m => (s.slot m).present && !slotBad s m
    let s := { s with start := { s.start with s6Slots := BitVec.ofNat 6 ((there.map fun m => 2 ^ m.val).sum) } }
    there.foldl beginBringup s

/-- JNK and BUK are derived and drawn (10 R304). Commits are numbered on from the root store's newest, and each volume's
root is the newer one, until replay accepts a commit (10 R322). -/
def deriveKeys (s : State) : State :=
  let (buk, s) := freshSecret s
  let n := (topRoot s none).1
  let s := s.modJnl fun j => { j with commitNo := n }
  let s := allVols.foldl (fun s v => setRootBank s v (startBank s n v)) s
  { s with keys := { s.keys with jnk := true, buk := some buk }, log := { s.log with held := false } }

/-- S4 ends with the complexes that passed: the preferred one becomes holder if it did (R81). -/
def bootDone (s : State) (umber slate : Bool) (k : ImgSlot) : State :=
  let st := fun ok : Bool => if ok then (if umber && slate then CxState.twin else CxState.sole) else CxState.off
  let h : Cx := match s.cx.pref with
    | .umber => if umber then .umber else .slate
    | .slate => if slate then .slate else .umber
  let s := s.modCx fun c => { c with
    umber := st umber, slate := st slate, holder := some h, last := h, expiry := s.clock.frame + c.lease.toNat,
    umberLeft := if umber then c.umberLeft else 4, slateLeft := if slate then c.slateLeft else 4 }
  let s := { s with fw := { s.fw with booted := k },
                    start := { s.start with simplex := !(umber && slate), slotB := k == .b, stage := .s5 } }
  let s := if umber then loadImage s .umber k else s
  let s := if slate then loadImage s .slate k else s
  beginS6 (deriveKeys s)

/-- S4 ends with what the boot ROMs of the complexes that have not failed met; `agree`: the digests of the loaded images
agree at one of the two attempts (R79 to R82). -/
def bootEnds (s : State) (u l : BootTrial) (agree : Bool) : State :=
  let k := s.fw.active
  if testMonitor s then bootDone s (!s.start.failedUmber) (!s.start.failedSlate) k
  else
    let ku := if s.start.failedUmber then none else bootSlot s u
    let kl := if s.start.failedSlate then none else bootSlot s l
    let fallBack := fun (s : State) (t : BootTrial) (x : ImgSlot) =>
      if x = k then s else startFailure s (trialVerdict s t k) 0x1C
    match ku, kl with
    | some x, some y =>
      if agree then
        bootDone (fallBack s (if s.cx.pref = .umber then u else l) x) true true (if s.cx.pref = .umber then x else y)
      else haltStart (startFailure s Status.bootDiverge 0)
    | some x, none =>
      let s := if s.start.failedSlate then s else startFailure s (trialVerdict s l k) 0x02
      bootDone (fallBack s u x) true false x
    | none, some y =>
      let s := if s.start.failedUmber then s else startFailure s (trialVerdict s u k) 0x01
      bootDone (fallBack s l y) false true y
    | none, none =>
      let t := if s.start.failedUmber then l else u
      haltStart (startFailure s (trialVerdict s t k) 0x1C)

/-- SECURE_BOOT_END. -/
def execSecureBootEnd (u l : BootTrial) (s : State) : Result :=
  if ¬ inStage s .s4 then .next s
  else .next (bootEnds s u l (decide (u.digest1 = l.digest1 ∨ u.digest2 = l.digest2)))

/-! ## S5 to S7 (R76, R83 to R86) -/

/-- Once S5 and S6 have ended: S7 where an array is assembled, else S8 with the journal left alone (R84). -/
def joinStages (s : State) : State :=
  if ¬ (s.start.s5 ∧ s.start.s6) then
    { s with start := { s.start with stage := if s.start.s5 then .s6 else .s5 } }
  else if s.array.isSome then { s with start := { s.start with stage := .s7 } }
  else { s with start := { s.start with stage := .s8, jpend := !openLifecycle s } }

/-- BULK_MEMORY_TEST_END: failing pages are retired, by page number: the read cache shrinks by them, and the staging region
and the firmware data lie on pages that pass; more than 256 halt. -/
def execBulkMemoryTestEnd (bad : List Nat) (s : State) : Result :=
  if ¬ inStage s .s5 ∨ s.start.s5 then .next s
  else
    let n := bad.eraseDups.length
    let s := { s with bulk := { s.bulk with bad := bad.eraseDups } }
    let s := { s with start := { s.start with pages := min 511 n, s5 := true, repaired := s.start.repaired || decide (n ≠ 0) } }
    .next (if 256 < n then haltStart (startFailure s Status.repairExhausted 0x1B) else joinStages s)

/-- Has every slot that was present when S6 began finished bring-up, or does it wait for power while every other such slot
has (R83)? -/
def bringupsDone (s : State) : Bool :=
  allSlots.all fun m => s6Finished s m || ((s.slot m).waiting && othersFinished s m)

/-- MEMBER_BRING_UP_END: the array is assembled. -/
def execMemberBringUpEnd (atMaximum : Bool) (s : State) : Result :=
  if ¬ runsS6 s ∨ s.mode.plan.isSome ∨ s.start.halt ∨ s.cx.holder.isNone ∨ ¬ (bringupsDone s ∨ atMaximum) then .next s
  else
    let j := s.jnl
    let s := assemble (peekJournal s)
    let s := s.modJnl fun x => { j with bitmap := x.bitmap }
    .next (joinStages { s with start := { s.start with s6 := true } })

/-- Replay stops with JOURNAL_ROOT: no member write, and Start ends in Service with the journal kept (R86). -/
def rootMismatch (s : State) : State :=
  let s := startFailure s Status.journalRoot 0
  { s with start := { s.start with service := true, jpend := true, replayed := true, stage := .s8 } }

/-- JOURNAL_REPLAY_END: replay reads the journal and releases the writes of the windows it redoes; it ends, with this command or
a later one, once none of them is out (08 R241). -/
def execJournalReplayEnd (v : ReplayView) (s : State) : Result :=
  let ends := fun s : State => Host.Outcome.next (if redoing s then s else endReplay s)
  if ¬ inStage s .s7 then .next s
  else if s.start.redo then ends s
  else match replay s v with
    | some s => ends s
    | none => .next (rootMismatch s)

/-- INTEGRITY_ALARM (10 Table 10-5): a device-level error; in replay a counter block's failure is R86's case. -/
def execIntegrityAlarm (c : AlarmCause) (s : State) : Result :=
  if inStage s .s7 ∧ c = .counterBlock then .next (rootMismatch s)
  else
    let row := match c with
      | .counterBlock => 6
      | .lineMacs => 7
    .next (deviceError (logIntegrity s 0 0 row 0) .integrityAlarm)

/-! ## STAGE_TIMEOUT (R66) -/

/-- A stage exceeds its maximum: its block's outcome, and the stage ends. S1 and S6 end at their maximum by rules of their
own (R69, R83), and H is run by the power stage, which is no block of Tables 3-3 and 3-4. In S4 the complex that is not
named boots what its own check of the store accepts (R79); in S8 what is left of the device goes on to release. -/
def execStageTimeout (blk : BitVec 8) (s : State) : Result :=
  let id := blk.toNat
  let st := s.start.stage
  if ¬ inStage s st then .next s
  else
    let r := fun (_ : Unit) => blocksFail s Status.stageTimeout [id]
    match st with
    | .s2 => nextStage (blocksFail (noteUntested s) Status.stageTimeout [id]) .s3
    | .s3 => let x := r (); nextStage (if x.2 then enablePhys x.1 else x.1, x.2) .s4
    | .s4 =>
      let x := r ()
      .next (if x.2 then bootEnds x.1 BootTrial.clean BootTrial.clean true else x.1)
    | .s5 =>
      if s.start.s5 then .next s
      else
        let x := r ()
        .next (if x.2 then joinStages { x.1 with start := { x.1.start with s5 := true } } else x.1)
    | .s7 =>
      let x := r ()
      .next (if x.2 then
        { x.1 with start := { x.1.start with service := true, jpend := true, replayed := true, stage := .s8 } } else x.1)
    | .s8 => .next (r ()).1
    | _ => .next s

/-! ## S8: release (R87, R88) -/

/-- The mode Start ends in and its cause (02 Table 2-2). -/
def releaseTarget (s : State) : Mode × Nat :=
  if openLifecycle s then (.factory, 0x02)
  else if s.array.isNone then (.service, 0x03)
  else if s.start.service then (.service, 0x02)
  else (.locked, 0x02)

/-- A rekey that a Start completes is not yet complete: its superblocks, or its line in the journal (10 R335). -/
def rekeyFinishing (s : State) : Bool :=
  s.start.replayed && !s.start.jpend &&
  ((s.array.map fun a => a.rekey.state == 2).getD false ||
   (s.jnl.inflight ++ plannedCommits s).any fun c => c.writes.any fun w => w.1 == metaBase + 64 * 16382)

/-- RELEASE: the holder plans the closing transition; MODE_TRANSITION makes it effective. `reversed` is what the device
measures of VBAT (14 R445, Table 14-10): the release notes it while it lasts, and a loss of VIN then takes the
always-on state with it. -/
def execRelease (reversed : Bool) (s : State) : Result :=
  if ¬ inStage s .s8 ∨ s.clock.phase ≠ .plan ∨ s.cx.holder.isNone ∨ ¬ anyPlanning s.cx ∨
      rekeyFinishing s then .next s
  else
    let t := releaseTarget s
    let s := { s with supply := { s.supply with vbatReversed := reversed } }
    .next (planMode s t.1 .startEnd t.2 0 7 none false)

/-- The event log starts: the next number is above the log's highest record and above what the intake holds (13 R416). -/
def startLog (s : State) : State :=
  if s.log.started then s
  else { s with log := { s.log with started := true, next := max s.log.next (logHighest s + 1) } }

/-- The NOTEs of 14 Table 14-10 due at a release. -/
def supplyNotes (s : State) : State :=
  let s := if s.supply.vinReversed then logNote s 0 0xF01 7 else s
  let s := if s.supply.vbatReversed then logNote s 0 0xF02 7 else s
  let s := if s.clock.aonLost then logNote s 0 0xF03 7 else s
  { s with supply := { s.supply with vinReversed := false }, clock := { s.clock with aonLost := false } }

/-- The anti-rollback counter is raised to the booted image's version (06 R188). -/
def raiseRollback (s : State) : State :=
  match imageOf s.fw s.fw.booted with
  | some x => if rollback s < x.version.toNat then rootWrite s 0x10 (dwBytes x.version) else s
  | none => s

/-- Members that became ready after S6 are placed as insertions (R96). -/
def placeLate (s : State) : State :=
  allSlots.foldl (fun s m =>
    if (s.slot m).state = .spare ∧ (s.slot m).step = 8 ∧ (s.slot m).sb.isSome then placeReady s m else s) s

/-- Later failures as words of the Start record, which has room for three of them (R90; log entry 76). -/
def lateWords (t : StartSt) : List Nat := (t.late.take 3).map fun x => x.1.toNat + x.2.toNat * 2 ^ 16

/-- What release brings besides the mode: START_TIME, the START record, NOTEs, the log, the anti-rollback counter, and the
throttle's full delay (R88, 11 R342). -/
def releaseDone (s : State) : State :=
  let s := { s with start := { s.start with stage := .released, time := BitVec.ofNat 32 s.clock.frame } }
  let s := supplyNotes (startLog s)
  let s := s.raise { LogRec.base 0x001 0 0 with payload :=
    [(startStat s.start).toNat, (startCode s.start).toNat, (startRepair s.start).toNat,
     s.start.ways.toNat, (startReplay s.start).toNat] ++ lateWords s.start }
  let s := if s.start.replayed ∧ ¬ s.start.jpend then s.modJnl fun j => { j with badLines := [] } else s
  let s := raiseRollback s
  placeLate (if 6 ≤ unlockCount s.root then startThrottle s else s)

end Sys2Proof.Machine
end

