-- ==== Sys2Proof/Machine/Frame.lean ====
section
/-! DEFINITION. The frame (01 R17 to R19, R26 to R29): the four phases, what a commit point releases, the EXEC of
privileged actions (12 R384, R385), and the mode transitions that take effect (02 R40 to R49). -/
namespace Sys2Proof.Machine

/-! ## Intake (R17, 05 R146) -/

/-- Does a next frame begin? Not in Vault, stage H or Freeze, nor while a freeze is due (13 R421), nor at the counter's
limit (12 R400). -/
def frameRuns (s : State) : Bool :=
  s.mode.mode != .vault && s.mode.mode != .freeze && !(s.mode.mode == .start && s.start.stage == .h) &&
  s.frz.trigger.isNone && !s.cx.fstop && decide (s.clock.frame < 0xFFFFFFFFF)

/-- Masks written in the frame before are in force (08 R253). -/
def applyMasks (s : State) : State :=
  let one := fun (c : CacheSt) (x : ClassN × BitVec 16) => { c with cmask := c.cmask.set x.1.val x.2 }
  { s with cache := { s.cache.cmaskNext.foldl one s.cache with cmaskNext := [] } }

/-- CACHE_MAINT subop 6 acts at the start of this Intake phase (08 R252). -/
def applyPrefetchDrops (s : State) : State :=
  (mgmtEntries s).foldl (fun s x =>
    if Entry.opcode x.2.head = 0x1B ∧ Entry.subop x.2.head = 6 ∧ x.2.stage = .exec ∧ x.2.frame < s.clock.frame then
      finishEntry (s.modPort x.1.p dropKnown) x.1 Status.success []
    else s) s

/-- No entry is unconsumed and no order is in flight (02 R47, condition 3). -/
def ringsIdle (s : State) : Bool :=
  bothPorts.all (fun p => allRings.all fun r => (s.ring p r).known.isEmpty && (s.ring p r).taken.isEmpty) &&
  s.gate.orders.isEmpty && s.gate.priv.isEmpty && s.morders.isEmpty && s.shifts.isEmpty && s.jnl.inflight.isEmpty &&
  s.sbq.isEmpty

/-- Is a background engine active: started, not paused for conflict, in a mode that runs it? -/
def engineActive (s : State) (e : Engine) : Bool := engRunning s e && engRuns s e

/-- Conditions 1 to 5 of R47. -/
def drowseReady (s : State) : Bool :=
  (s.mode.mode == .locked || s.mode.mode == .online || s.mode.mode == .degraded || s.mode.mode == .salvage) &&
  bothPorts.all (fun p => !portEnabled s p || (s.port p).l12 || (s.port p).perst) &&
  ringsIdle s && s.jnl.recs.isEmpty && !([Engine.rebuild, .rekey, .scrub].any (engineActive s))

/-- The idle count of R47 starts at the first Intake phase at which conditions 1 to 5 hold, and breaks where they do not. -/
def trackIdle (s : State) : State :=
  let since := match s.mode.idleSince with
    | some f => some f
    | none => some s.clock.frame
  let since := if drowseReady s then since else none
  s.modMode fun m => { m with idleSince := since }

/-- A host's write that waited for this Intake phase is observed (00 R8, 01 Table 1-2). -/
def observeLate (s : State) (a : HostAct) : State :=
  match a with
  | .reg p off v => if regOpen s p off then observeReg s p off v else s
  | .power p d3 => if configOpen s p then observePower s p d3 else s

/-- The values of INT_COAL this frame's check uses (04 R131). -/
def latchCoal (q : PortSt) : PortSt := { q with coalNow := q.coal }

/-- INTAKE_PHASE: the next frame begins. -/
def execIntakePhase (s : State) : Result :=
  if s.clock.phase ≠ .commit ∨ ¬ frameRuns s then .next s
  else
    let f := s.clock.frame + 1
    let s := { s with clock := { s.clock with frame := f, phase := .intake, cancelled := false },
                      frz := { s.frz with pin := true } }
    let s := applyPrefetchDrops (applyMasks s)
    let s := if s.mode.plan.isNone then planNoted s else s
    let s := retag { s with free := s.free + 1, gate := { s.gate with inputs := Config.inputsDigest s.free } }
    let s := s.gate.late.foldl observeLate { s with gate := { s.gate with late := [] } }
    let s := (s.modPort .a latchCoal).modPort .b latchCoal
    let s := match portOrder f with
      | [p, q] => takeEntries s p q
      | _ => s
    .next (trackIdle s)

/-- DROWSE_IDLE_ELAPSED (R47): by idle time, or by the votes of every enabled port. -/
def execDrowseIdleElapsed (s : State) : Result :=
  let votes := bothPorts.all fun p => !portEnabled s p || (s.port p).vote
  let t := s.mode.drowseIdle.toNat
  let idle : Bool := match s.mode.idleSince with
    | some f => t != 0 && decide (f + 1024 * t ≤ s.clock.frame)
    | none => false
  if s.clock.phase ≠ .intake ∨ ¬ drowseReady s ∨ s.mode.plan.isSome ∨ ¬ (idle ∨ votes) then .next s
  else .next (planMode s .drowse .plain (if idle then 0x0B else 0x0C) 0 7 none false)

/-! ## Plan (R17, 12 R389) -/

/-- The first frame whose Intake phase finds a contained port with no order in flight (04 R122). -/
def noteQuiet (frame : Nat) (q : PortSt) : PortSt :=
  { q with quietAt := if q.cstate = .freeze ∧ containedQuiet q then some (q.quietAt.getD frame) else none }

/-- PLAN_PHASE: the frame's charges start at 0, engines take buffers, and the continuous self-test goes on by the steps
that fit; the health report counts the words its memory corrected and the phase watchdog's near misses (12 Table 12-11). -/
def execPlanPhase (selfTestSteps corrected nearMisses : Nat) (s : State) : Result :=
  if s.clock.phase ≠ .intake then .next s
  else
    let n := s.cx.rptStep + selfTestSteps
    let s := { s with clock := { s.clock with phase := .plan },
                      gate := { s.gate with spentA := 0, spentB := 0, spentRb := 0, spentRk := 0, spentSc := 0 } }
    let s := if anyPlanning s.cx then
        s.modCx fun c => { c with rptStep := n % 256, rptPass := c.rptPass || decide (256 ≤ n),
                                  rptCorr := satAdd c.rptCorr corrected, rptOvr := satAdd c.rptOvr nearMisses }
      else s
    let s := (s.modPort .a (noteQuiet s.clock.frame)).modPort .b (noteQuiet s.clock.frame)
    .next (feedEngines s)

/-! ## Dispatch (R19, R28, R29) -/

/-- Gives one piece of work charges, on its party's account. -/
def giveWork (s : State) (w : Work) (n : Nat) : State :=
  match w with
  | .entry f => match s.taken? f with
    | some t => match t.stage with
      | .engine need => setStage (chargePort s f.p n) f (.engine (need - n))
      | _ => s
    | none => s
  | .shift id => match s.shifts.find? fun x => x.id == id with
    | some x =>
      let s := putShift s { x with need := x.need - n }
      match x.party with
      | some p => chargePort s p n
      | none => chargeEng s (shiftEngine x) n
    | none => s
  | .rekey =>
    let s := chargeEng s .rekey n
    { s with eng := { s.eng with rekey := { s.eng.rekey with need := s.eng.rekey.need - n } } }

/-- Gives up to `n` charges to work in its order. -/
def giveAll : List (Nat × Work × Nat) → Nat → State → State
  | [], _, s => s
  | x :: xs, n, s => giveAll xs (n - min x.2.2 n) (if min x.2.2 n = 0 then s else giveWork s x.2.1 (min x.2.2 n))

/-- The charges of the frame (R28, R29): both passes over the ports and the background party, whose charges its engines
share by R285. -/
def giveCharges (s : State) : State :=
  match portOrder s.clock.frame with
  | [p, q] =>
    let a := portWork s p
    let b := portWork s q
    let bg := engOrder.map (engWork s)
    let needs := bg.map workNeed
    let got := handCharges [workNeed a, workNeed b, needs.sum]
      [guarantee s (some p), guarantee s (some q), guarantee s none]
    let mine := splitCharges (got.getD 2 0) needs (engOrder.map (engGuarantee s))
    let s := giveAll b (got.getD 1 0) (giveAll a (got.getD 0 0) s)
    (bg.zip mine).foldl (fun s x => giveAll x.1 x.2 s) s
  | _ => s

/-- Work that has all its charges, in the order in which it began. -/
def readyWork (s : State) : List (Nat × Work) :=
  sortOrd ((shiftWork s (fun _ => true) ++ entryWork s .a ++ entryWork s .b).filterMap fun w =>
    if w.2.2 = 0 then some (w.1, w.2.1) else none)

/-- The engine work of one piece is done in this frame (R19); a write waits for what comes before it in the order of R26. -/
def finishWork (s : State) (w : Work) : State :=
  match w with
  | .entry f => match s.taken? f with
    | some t => if isWriteOp (Entry.opcode t.head) ∧ writeWaits s t then s else engineDone s f
    | none => s
  | .shift id => match s.shifts.find? fun x => x.id == id with
    | some x => shiftCompute s x
    | none => s
  | .rekey => s

/-- The engine work of the frame (R19, R28, R29); destages whose records are durable plan their writes (08 R239), and a
rekey step that has all its charges plans its commit (10 R328). -/
def engineWork (s : State) : State :=
  let s := giveCharges s
  rekeyReady (releaseDestages ((readyWork s).foldl (fun s w => finishWork s w.2) s))

/-- What an entry's host read covers: its parameter block, the pages of its runs, or the source of a BUF_COPY. -/
def hostSource (t : Taken) : List (Nat × Nat) :=
  let e := t.head
  if t.stage = .param then [(Entry.pblk e, Entry.plen e)]
  else if isIoOp (Entry.opcode e) then
    ((runPages (chainRuns t.entries) (Entry.nblk e)).getD []).map fun a => (a, 4096)
  else [(copyAddr e, (Entry.a e 2).toNat)]

/-- Dispatches one entry's host read (R19, 04 R110, R465). -/
def issueRead (s : State) (f : Ref) : State :=
  match s.taken? f with
  | none => s
  | some t =>
    if t.issued.isSome ∨ ¬ (t.stage = .param ∨ t.stage = .hostData) ∨ ¬ portActive s f.p ∨ orderRoom s.gate = 0 then s
    else
      let s := { s with gate := issueTag s false false (.hostRead f) s.gate }
      let s := (hostSource t).foldl (fun s x => readHost s f.p (.entry f) x.1 x.2) s
      let n := s.clock.frame
      let s := s.modPort f.p fun q => { q with busyFrame := some n }
      s.modTaken f fun t => { t with issued := some n, data := [] }

/-- Every host read that can go out; requests that waited for a tag go first. -/
def issueReads (s : State) : State :=
  let s := pumpReads (pumpReads s .a) .b
  (portOrder s.clock.frame).foldl (fun s p =>
    allRings.foldl (fun s r => (s.ring p r).taken.foldl (fun s t => issueRead s { p := p, r := r, i := t.i }) s) s) s

/-- DISPATCH_PHASE: shifts a failure has left without a source plan their further reads (07 R218), charges go to the work
that waits for them, the engines do it, and read-class orders start. -/
def execDispatchPhase (s : State) : Result :=
  if s.clock.phase ≠ .plan then .next s
  else
    let s := { s with clock := { s.clock with phase := .dispatch } }
    .next (if anyPlanning s.cx then
      dispatchMembers (issueReads (engineWork ((s.shifts.map (·.id)).foldl replan s))) else s)

/-! ## The commit point (R18, 12 R379 to R393) -/

/-- What a management command changes at the commit point of the frame it was planned in (01 R18); nothing where the entry
no longer waits for it. -/
def commitAct (s : State) (f : Ref) (t : Taken) (a : CommitAct) : State :=
  match a with
  | .takeCool id => takeCoolAct s f id
  | .clearLatch => if resetPlanned s then clearLatch s else s
  | a => if t.stage ≠ .commit then s else match a with
    | .takeCool _ | .clearLatch => s
    | .queueCreate r base cfg poll =>
      if (s.ring f.p r).state ≠ .disabled then failEntry s f Status.badRing
      else finishEntry (s.setRing f.p r (createdRing s base cfg poll)) f Status.success []
    | .queueModify r cfg poll =>
      if (s.ring f.p r).state = .disabled then failEntry s f Status.badRing
      else finishEntry (s.modRing f.p r fun x => { x with cfg := cfg ||| 1, poll := poll }) f Status.success []
    | .queueOp r op delete =>
      if (s.ring f.p r).state = .disabled then failEntry s f Status.badRing
      else if ¬ ringOpOk (s.ring f.p r) op then failEntry s f Status.ringState
      else finishEntry (ringOp s f.p r op delete) f Status.success []
    | .abort r all tag => abortAct s f r all tag
    | .gpioOut level => finishEntry (s.modMode fun m => { m with gpioOut := level }) f Status.success (leBytes 4 (bit level))
    | .locate m on => locateAct s f m on
    | .setAlarm user delay => setAlarmAct s f user delay
    | .cancelAlarm user => cancelAlarmAct s f user
    | .setMask c m =>
      finishEntry { s with cache := { s.cache with cmaskNext := s.cache.cmaskNext ++ [(c, m)] } } f Status.success []
    | .countAttempt => countAct s f
    | .failedAttempt => failedAct s f t
    | .credsDone => finishEntry (setUnlockCount s 0) f Status.success []
    | .invalidate => invalAct s f t.head
    | .install k x => finishEntry { s with fw := s.fw.install k x } f Status.success (dwBytes x.version)

/-- One order of the frame is released. -/
def releaseOrder (s : State) (o : Order) : State :=
  match o with
  | .reg p off v => applyReg s p off v
  | .wrej p b => setWrej s p b
  | .host p w => sendHost s p w
  | .d0 p => s.modPort p fun q => { q with d3 := false, l1 := if q.d3 then false else q.l1 }
  | .member o => releaseMember s o
  | .act f a => match s.taken? f with
    | some t => commitAct s f t a
    | none => s
  | .journal c => journalCommit (commitRoot s c.owner) c.writes c.owner
  | .rootBack v ver mac n => restoreRoot s v ver mac n

/-- A write-class order of the entry has been released (05 R156). -/
def noteCommitted (s : State) (f : Ref) : State := s.modTaken f fun t => { t with committed := true }

/-- The swap's superblock writes have begun (07 R223). -/
def swapPersists (s : State) : Bool :=
  match s.seq.swap with
  | some w => w.step == .persist || w.step == .activate
  | none => false

/-- Entries of which something irrevocable is released at this commit point. -/
def markCommitted (s : State) : State :=
  (mgmtEntries s).foldl (fun s x => match x.2.stage with
    | .superblock | .init | .format | .transition => noteCommitted s x.1
    | .swap => if swapPersists s then noteCommitted s x.1 else s
    | _ => s) s

/-- The PREPs of the frame are released, or planned again in the next frame where the gate does not let them pass or a
handover is under way (12 R384, R385, R390). -/
def prepPriv (s : State) : State :=
  let ok := gateOpen s && !s.clock.cancelled
  let pass := fun a : Priv => ok && a.epoch == s.cx.epoch && a.cx == s.cx.holder && (!s.cx.handing || isHandover a)
  let mine := s.gate.priv.filter fun a => decide (a.frame = s.clock.frame)
  let again := fun a : Priv =>
    if a.frame = s.clock.frame ∧ ¬ pass a then
      { a with frame := s.clock.frame + 1, epoch := s.cx.epoch, cx := s.cx.holder }
    else a
  let done := mine.filter pass
  let s := { s with gate := { s.gate with priv := s.gate.priv.map again } }
  let s := (done.filterMap fun a => privRef a.act).foldl noteCommitted s
  if done.any isHandover then s.modCx fun c => { c with handing := true } else s

/-- The PREP of a planned transition: MODE_STAT.pend (02 R40). -/
def prepPlan (s : State) : State :=
  match s.mode.plan with
  | none => s.modMode fun m => { m with pend := false }
  | some m =>
    if m.target = .lockdown then s
    else if m.frame = s.clock.frame ∧ (¬ gateOpen s ∨ s.clock.cancelled ∨ s.cx.handing) then
      s.modMode fun x => { x with plan := some { m with frame := s.clock.frame + 1 }, pend := false }
    else s.modMode fun x => { x with pend := decide (m.frame ≤ s.clock.frame) }

/-- RENEW (12 R386). -/
def renew (s : State) : State :=
  if s.cx.holder.isSome ∧ s.clock.frame ≤ s.cx.expiry then
    s.modCx fun c => { c with expiry := s.clock.frame + c.lease.toNat }
  else s

/-- The first entry, in the order of R26, that awaits a press. -/
def awaiting (s : State) : Option Ref :=
  let es := (mgmtEntries s).filter fun x => x.2.stage == .confirm
  (sortOrd (es.map fun x => (x.2.ord, x.1))).head?.map (·.2)

/-- The confirm window: it closes where its command has gone, and the next one opens (11 R354). A faulted run that still
lasts fails the command. -/
def confirmCommit (s : State) : State :=
  let gone : Ref → Bool := fun f => match s.taken? f with
    | some t => t.stage != .confirm
    | none => true
  let s := closeWindow s gone
  if s.sec.cwin.isSome then s
  else match awaiting s with
    | none => s
    | some f =>
      if s.sec.confRun then failEntry s f Status.confirmRefused
      else
        let target := s.clock.rtc + 64 * s.sec.confWin.toNat
        match takeAcmp s 2 (some target) 0 with
        | some (_, s) => s.modSec fun c => { c with cwin := some { ref := f, target := target, released := false } }
        | none => s

/-- A volume still has entries to fold, or a fold under way. -/
def foldPending (s : State) (v : VolN) : Bool :=
  s.tags.folding.any (fun f => f.vol == v) ||
  (!(unfolded s v).isEmpty && match volOf s v with
    | some x => x.isSealed && !x.stale
    | none => false)

/-- After a LOCK, AMK leaves the master register once no fold is pending (10 R310). -/
def dropAmk (s : State) : State :=
  if s.mode.mode = .locked ∧ s.keys.staged.isNone ∧ ¬ allVols.any (foldPending s) then
    { s with keys := { s.keys with amk := none } }
  else s

/-- At soft depth the holder derives JNK again (10 R304, 13 R417). -/
def rederive (s : State) : State :=
  if s.mode.mode = .lockdown ∧ s.log.held ∧ ¬ s.mode.hard ∧ ¬ s.err.dbl ∧ s.cx.holder.isSome then
    { s with keys := { s.keys with jnk := true }, log := { s.log with held := false } }
  else s

/-- The withheld writes of a port that may send again (04 R465); no message is sent during Start (03 R78). -/
def sendWithheld (s : State) (p : Port) : State :=
  let q := s.port p
  if masters q s.clock.frame ∧ q.cstate = .run ∧ s.mode.mode ≠ .start then sendAll (s.modPort p fun q => { q with withheld := [] }) p q.withheld else s

/-- Orders that set a write-rejection flag: they come after the frame's write-1-to-clear orders, which they win over (00
R14). -/
def Order.isWrej : Order → Bool
  | .wrej .. => true
  | _ => false

/-- A write of AUX_EN or AUX_PIN: those of a frame are settled together (02 R63). -/
def Order.isAux : Order → Bool
  | .reg _ off _ => off == 0x118 || off == 0x11C
  | _ => false

/-- What the AUX writes of a frame, in their order, leave requested. -/
def auxRequest (s : State) (os : List Order) : BitVec 10 × BitVec 20 :=
  os.foldl (fun a o => match o with
    | .reg _ 0x118 v => (v.extractLsb' 0 10, a.2)
    | .reg _ 0x11C v => (a.1, v.extractLsb' 0 20)
    | _ => a) (s.mode.auxEn, s.mode.auxPin)

/-- The AUX pins are given out once in a frame (02 R53, R63). -/
def settleAux (s : State) (os : List Order) : State :=
  if os.any Order.isAux then applyAux s (auxRequest s os).1 (auxRequest s os).2 else s

/-- An uncancelled commit point: the frame's orders, then what they complete, then heads, events and records. -/
def releaseFrame (s : State) : State :=
  let os := issuedOrders s
  let later := deferredOrders s
  let s := settleAux s os
  let s := (os.filter fun o => !o.isWrej && !o.isAux).foldl releaseOrder { s with gate := { s.gate with orders := later, agUp := false } }
  let s := (os.filter Order.isWrej).foldl releaseOrder s
  let s := markCommitted (prepPlan (prepPriv s))
  let s := rederive (dropAmk (confirmCommit (renew s)))
  let s := applyArms (dropCools (startCools (commitSwap s)))
  let s := rekeyPaused s
  let s := s.modCx fun c => if anyPlanning c then { c with rptWho := reporter c, rptFrame := s.clock.frame } else c
  let s := if s.mode.mode = .start ∨ s.mode.mode = .lockdown then s else noteCond s
  publish (logCommit s)

/-- A cancelled commit point: nothing of the frame is released, and it is all planned again (12 R393, R405). The double
fault's FATAL is written by the hardware (13 R412). -/
def cancelFrame (s : State) : State :=
  let s := prepPlan (prepPriv s)
  let s := if s.log.started then placeRaised s else s
  if s.err.dbl then bothPorts.foldl flushEvents s else s

/-- COMMIT_POINT. -/
def execCommitPoint (g : GateView) (s : State) : Result :=
  if s.clock.phase ≠ .dispatch then .next s
  else
    let s := { s with clock := { s.clock with phase := .commit } }
    let s := sendRecord { s with gate := { s.gate with marker := some (markerOf s) } } g.words
    let s := bothPorts.foldl sendWithheld s
    let s := probation (resolveGate s g) g
    let s := startReload (settleSole (fenceTest s))
    let s := settleSlots (if s.clock.cancelled then cancelFrame s else releaseFrame s)
    .next (bothPorts.foldl updateIntx s)

/-! ## The EXEC of privileged actions (12 R384, R385) -/

/-- Is the action's entry still waiting for its EXEC? One whose entry a port reset took completes internally (04 R119). -/
def privLive (s : State) (a : Priv) : Bool :=
  a.orphan || match privRef a.act with
    | some f => ((s.taken? f).map fun t => t.stage == .exec).getD false
    | none => true

/-- What the EXEC does. -/
def privExec (s : State) (a : PrivAct) : State :=
  match a with
  | .bufAlloc f idx =>
    match bufOf s idx with
    | some b => finishEntry (setBuf s idx (.held f.p)) f Status.success (dwBytes (handleOf idx b.gen f.p) ++ zeros 4)
    | none => failEntry s f Status.noBuffer
  | .bufFree f idx => finishEntry (freeBuf s idx) f Status.success []
  | .engineFree _ idxs => idxs.foldl freeBuf s
  | .grant f v p level =>
    if ¬ adminLeft { s with gate := { s.gate with priv := [] } } v p level then failEntry s f Status.lastAdmin else
    let s := s.modArray fun a =>
      let x := a.vtab[v.val]
      { a with vtab := a.vtab.set v.val (match p with
        | .a => { x with grantA := level }
        | .b => { x with grantB := level }) }
    setStage (writeSb s (.reply f)) f .superblock
  | .identity f w => finishEntry (rootWrite s 0x18 (dwBytes w)) f Status.success []
  | .hlthCfg v =>
    s.modCx fun c => { c with lease := v.extractLsb' 0 8, pref := if v.getLsbD 8 then .slate else .umber }
  | .handover => s
  | .attach f m => finishEntry (beginBringup s m) f Status.success []
  | .detach f m => detachMember s f m
  | .credSet f h fl => setStage (writeSb s (.creds f h fl)) f .superblock
  | .shares f w => finishEntry (rootWrite s 0x16 (leBytes 2 w.toNat)) f Status.success []
  | .split f w => finishEntry (rootWrite s 0x14 (leBytes 2 w.toNat)) f Status.success []
  | .replace f m q => if (s.slot m).state = .spare then replaceMember s f m q else failEntry s f Status.slotState
  | .superblock e => sbEffect s e

/-- A deletion waits for the entries that still name the volume (06 R185). -/
def privWaits (s : State) (a : PrivAct) : Bool := match a with
  | .superblock (.volumeDelete _ v) => volBusy s v
  | _ => false

/-- One action: done, dropped, or discarded and planned again from its trigger. -/
def stepPriv (s : State) (a : Priv) : State :=
  if s.clock.frame ≤ a.frame ∨ isHandover a ∨ privWaits s a.act then { s with gate := { s.gate with priv := s.gate.priv ++ [a] } }
  else if ¬ privLive s a then privDropped s a.act
  else if privReady s a then privExec s a.act
  else
    { s with gate := { s.gate with priv := s.gate.priv ++
        [{ a with frame := s.clock.frame + 1, epoch := s.cx.epoch, cx := s.cx.holder }] } }

/-- PRIVILEGED_EXEC: the EXECs of the frame, in the order of their PREPs. -/
def execPrivilegedExec (s : State) : Result :=
  if s.clock.phase ≠ .commit ∨ ¬ s.gate.priv.any (fun a => decide (a.frame < s.clock.frame) && !isHandover a) then .next s
  else
    let ps := s.gate.priv
    .next (publish (settleSlots (ps.foldl stepPriv { s with gate := { s.gate with priv := [] } })))

/-! ## Mode transitions (02 R40 to R49, Table 2-3) -/

/-- Every order of taken I/O entries is complete. -/
def ioDrained (s : State) : Bool :=
  bothPorts.all fun p => allRings.all fun r =>
    r == 0 || (s.ring p r).taken.all fun t => t.done || t.stage == .finished || t.stage == .refetch

/-- May the planned transition take effect at this commit point? Lockdown is the hardware's; any other is an EXEC. -/
def planReady (s : State) (m : ModePlan) : Bool :=
  s.clock.phase == .commit &&
  if m.target = .lockdown then decide (m.frame ≤ s.clock.frame)
  else gateOpen s && !s.clock.cancelled && decide (m.frame < s.clock.frame) && (!m.waitIo || ioDrained s)

/-- The transition as it takes effect: an unlock, a wake to an array condition and a change of condition enter the mode that
MODE_STAT.cond names at that moment (02 R39, R60); `none` where it leaves none to enter. A loss keeps its cause (02 R49). -/
def retarget (s : State) (m : ModePlan) : Option ModePlan :=
  match m.kind with
  | .unlock => if s.mode.cond = .none then none else some { m with target := condMode s.mode.cond }
  | .wake => some (if isCondition s.mode.drowseFrom then { m with target := condMode s.mode.cond } else m)
  | .plain =>
    if ¬ isCondition m.target then some m
    else (condTarget s s.mode.cond).map fun t =>
      if t = m.target ∨ m.cause = 0x06 then { m with target := t }
      else { m with target := t, cause := BitVec.ofNat 8 s.mode.condWhy.cause, src := BitVec.ofNat 4 s.mode.condWhy.src,
                    slot := BitVec.ofNat 3 s.mode.condWhy.slot }
  | _ => some m

/-- A planned transition that has nowhere to go: its command, if any, fails. -/
def dropPlan (s : State) (m : ModePlan) : State :=
  let s := { s with keys := { s.keys with staged := none } }.modMode fun x => { x with plan := none, pend := false }
  match m.ref with
  | some f => failEntry s f Status.badMode
  | none => s

/-- What the transition's kind brings with the new mode. -/
def kindBefore (s : State) (m : ModePlan) : State :=
  match m.kind with
  | .unlock => match s.keys.staged with
    | some k => (setUnlockCount (loadKeys s k) 0).modMode fun x => { x with keyClear := [] }
    | none => s
  | .service => if s.mode.mode = .locked then setUnlockCount s 0 else s
  | .activate k => { s with fw := { s.fw with active := k } }
  | .lifecycle l => applyLifecycle s l
  | _ => s

/-- The command that asked for the transition succeeds. -/
def finishPlan (s : State) (m : ModePlan) : State :=
  match m.ref with
  | some f => finishEntry s f Status.success (if m.kind = .unlock then unlockReply s else [])
  | none => s

/-- Commands that lost to this transition, and those that await a press in a mode that forbids them (R49, 06 R198,
R199). -/
def settleLosers (s : State) (m : ModePlan) : State :=
  (mgmtEntries s).foldl (fun s x =>
    let e := x.2.head
    let ok := modeAllows (Entry.opcode e) (Entry.subop e) m.target (!s.mode.hard)
    if x.2.stage = .transition then
      if ok ∧ m.rank ≠ 60 ∧ m.rank ≠ 40 then setStage s x.1 .waiting else failEntry s x.1 Status.badMode
    else if x.2.stage = .confirm ∧ ¬ ok then failEntry s x.1 Status.modeAbort
    else s) s

/-- Rings that the new mode does not poll hold no known entry and no back-off (R44, 05 R144). -/
def stopPolls (s : State) : State :=
  let stop := fun (x : Ring) => { x with known := [], polling := none, k := 0 }
  let one := fun (q : PortSt) =>
    { q with rings := Vector.ofFn fun i : Fin 64 => if servesRing s i then q.rings[i] else stop q.rings[i] }
  if s.mode.mode = .drowse then s else { s with portA := one s.portA, portB := one s.portB }

/-- Volume keys are to be cleared, each after its volume's last order; rekey pauses (Table 2-3, 10 R330). -/
def lockKeys (s : State) (was : Mode) : State :=
  if isCondition was then s.modMode fun m => { m with keyClear := allVols.filter fun v => (volOf s v).isSome } else s

/-- Rekey leaves the modes that run it: B is persisted, now or when its step ends. -/
def pauseRekey (s : State) (was : Mode) : State :=
  let ran := was == .online || was == .degraded || was == .rebuild
  if ran ∧ ¬ rekeyMode s ∧ s.eng.rekey.running ∧ ¬ s.eng.rekey.inStep ∧ s.mode.mode ≠ .drowse then persistB s else s

/-- Service: rekey and scrub give their buffers back, and AMK is cleared (R65, 10 R310). -/
def enterService (s : State) : State :=
  let s := askEngines s
  { s with keys := { s.keys with amk := none, staged := none } }

/-- Salvage: rebuild and scrub stop at their boundaries; rekey is held at B (Table 2-3, 10 R332). -/
def enterSalvage (s : State) : State :=
  let stop := fun e : EngSt => { e with stop := e.running }
  engineBoundary { s with eng := { s.eng with rebuild := stop s.eng.rebuild, scrub := stop s.eng.scrub } }

/-- Drowse: slot power is removed; an entry found meanwhile wakes the device again (R46). -/
def enterDrowse (s : State) (was : Mode) : State :=
  let s := s.modMode fun m => { m with drowseFrom := was, drowseFrame := s.clock.frame }
  let s := allSlots.foldl (fun s m => if (s.slot m).rail ∧ (s.slot m).pd.isNone then powerDown s m false else s) s
  if bothPorts.any (fun p => allRings.any fun r => !(s.ring p r).known.isEmpty || !(s.ring p r).taken.isEmpty) then
    wakeDrowse s 0
  else s

/-- Wake: slot power comes back; a slot that held a position keeps it while it is brought up (09 R269). -/
def wakeSlot (s : State) (m : SlotN) : State :=
  let x := s.slot m
  if ¬ x.present ∨ slotBad s m then s
  else match x.state with
    | .member =>
      s.modSlot m fun x => { x with state := .bringup, step := 2, pd := none, rail := false, limit := 0, perst := true,
                                    refclk := false, retried := false, waiting := false, starting := some none }
    | .empty | .spare | .foreign | .unsuitable | .bringup => beginBringup s m
    | _ => s

/-- The entry actions of Table 2-3. -/
def entryActions (s : State) (m : ModePlan) (was : Mode) : State :=
  let s := { s with err := { s.err with arrOpen := false } }
  let s := [Engine.rebuild, .rekey, .scrub].foldl (fun s e => setEngPool s e 0 false) s
  let s := pauseRekey (stopPolls s) was
  match m.target with
  | .locked => if m.kind = .wake then s else lockKeys s was
  | .service => enterService (lockKeys s was)
  | .salvage => enterSalvage s
  | .drowse => enterDrowse s was
  | .start => beginTakedown s
  | _ => s

/-- A transition other than to Lockdown takes effect. -/
def takeEffect (s : State) (m : ModePlan) : State :=
  let was := s.mode.mode
  let s := finishPlan (kindBefore s m) m
  let s := settleLosers s m
  let s := { s with keys := { s.keys with staged := none } }
  let forbids := !modeAllows 0x3B 0 m.target true && m.target != .drowse
  let s := if forbids then abortSwap s else s
  let s := enterMode s m.target m.cause.toNat m.src.toNat m.slot.toNat
  let s := if m.kind = .startEnd then releaseDone s else s
  let s := if m.kind = .wake then allSlots.foldl wakeSlot s else s
  entryActions s m was

/-- Lockdown takes effect (R40, 11 R360, 13 R411): from Start, the log starts with it. -/
def takeLockdown (s : State) (m : ModePlan) : State :=
  let s := if s.mode.mode = .start then startLog s else s
  let s := s.modMode fun x => { x with keyClear := [] }
  stopPolls (reloadBoth (enterLockdown s m.cause.toNat m.src.toNat))

/-- MODE_TRANSITION. -/
def execModeTransition (s : State) : Result :=
  match s.mode.plan with
  | none => .next s
  | some m =>
    if ¬ planReady s m then .next s
    else .next (publish (
      if m.target = .lockdown then takeLockdown s m
      else match retarget s m with
        | some m => settleSlots (takeEffect s m)
        | none => dropPlan s m))

end Sys2Proof.Machine
end

