-- ==== Sys2Proof/Machine/Dispatch.lean ====
section
/-! DEFINITION. One arm per command of spec/opcode_table.json, in the table's order. -/
namespace Sys2Proof.Machine

def exec (i : Instr) (s : State) : Host.Outcome State Fault Refusal :=
  match i with
  | .vinValid => Sys2Proof.Machine.execVinValid s
  | .vinLost x0 x1 => Sys2Proof.Machine.execVinLost x0 x1 s
  | .powerOnEnd x0 => Sys2Proof.Machine.execPowerOnEnd x0 s
  | .startSlotTakedownEnd => Sys2Proof.Machine.execStartSlotTakedownEnd s
  | .windowsClose x0 => Sys2Proof.Machine.execWindowsClose x0 s
  | .logicSelfTestEnd x0 => Sys2Proof.Machine.execLogicSelfTestEnd x0 s
  | .memoryTestEnd x0 => Sys2Proof.Machine.execMemoryTestEnd x0 s
  | .secureBootEnd x0 x1 => Sys2Proof.Machine.execSecureBootEnd x0 x1 s
  | .bulkMemoryTestEnd x0 => Sys2Proof.Machine.execBulkMemoryTestEnd x0 s
  | .memberBringUpEnd x0 => Sys2Proof.Machine.execMemberBringUpEnd x0 s
  | .journalReplayEnd x0 => Sys2Proof.Machine.execJournalReplayEnd x0 s
  | .release x0 => Sys2Proof.Machine.execRelease x0 s
  | .stageTimeout x0 => Sys2Proof.Machine.execStageTimeout x0 s
  | .intakePhase => Sys2Proof.Machine.execIntakePhase s
  | .planPhase x0 x1 x2 => Sys2Proof.Machine.execPlanPhase x0 x1 x2 s
  | .dispatchPhase => Sys2Proof.Machine.execDispatchPhase s
  | .commitPoint x0 => Sys2Proof.Machine.execCommitPoint x0 s
  | .privilegedExec => Sys2Proof.Machine.execPrivilegedExec s
  | .modeTransition => Sys2Proof.Machine.execModeTransition s
  | .volumeKeyClear x0 => Sys2Proof.Machine.execVolumeKeyClear x0 s
  | .drowseIdleElapsed => Sys2Proof.Machine.execDrowseIdleElapsed s
  | .poll x0 x1 => Sys2Proof.Machine.execPoll x0 x1 s
  | .pollData x0 x1 x2 x3 => Sys2Proof.Machine.execPollData x0 x1 x2 x3 s
  | .drowsePoll x0 x1 x2 => Sys2Proof.Machine.execDrowsePoll x0 x1 x2 s
  | .read x0 x1 x2 x3 => Sys2Proof.Machine.execRead x0 x1 x2 x3 s
  | .write x0 x1 x2 x3 => Sys2Proof.Machine.execWrite x0 x1 x2 x3 s
  | .writeThrough x0 x1 x2 x3 => Sys2Proof.Machine.execWriteThrough x0 x1 x2 x3 s
  | .flush x0 x1 x2 => Sys2Proof.Machine.execFlush x0 x1 x2 s
  | .deallocate x0 x1 x2 => Sys2Proof.Machine.execDeallocate x0 x1 x2 s
  | .verify x0 x1 x2 => Sys2Proof.Machine.execVerify x0 x1 x2 s
  | .identify x0 x1 => Sys2Proof.Machine.execIdentify x0 x1 s
  | .status x0 x1 => Sys2Proof.Machine.execStatus x0 x1 s
  | .logRead x0 x1 => Sys2Proof.Machine.execLogRead x0 x1 s
  | .queueCtlCreate x0 x1 => Sys2Proof.Machine.execQueueCtlCreate x0 x1 s
  | .queueCtlModify x0 x1 => Sys2Proof.Machine.execQueueCtlModify x0 x1 s
  | .queueCtlDelete x0 x1 => Sys2Proof.Machine.execQueueCtlDelete x0 x1 s
  | .queueCtlResumeRetry x0 x1 => Sys2Proof.Machine.execQueueCtlResumeRetry x0 x1 s
  | .queueCtlResumeSkip x0 x1 => Sys2Proof.Machine.execQueueCtlResumeSkip x0 x1 s
  | .queueCtlReset x0 x1 => Sys2Proof.Machine.execQueueCtlReset x0 x1 s
  | .abort x0 x1 => Sys2Proof.Machine.execAbort x0 x1 s
  | .portRelease x0 x1 => Sys2Proof.Machine.execPortRelease x0 x1 s
  | .bufAlloc x0 x1 => Sys2Proof.Machine.execBufAlloc x0 x1 s
  | .bufFree x0 x1 => Sys2Proof.Machine.execBufFree x0 x1 s
  | .bufCopyHostToBuffer x0 x1 => Sys2Proof.Machine.execBufCopyHostToBuffer x0 x1 s
  | .bufCopyBufferToHost x0 x1 => Sys2Proof.Machine.execBufCopyBufferToHost x0 x1 s
  | .cacheMaintCleanRange x0 x1 => Sys2Proof.Machine.execCacheMaintCleanRange x0 x1 s
  | .cacheMaintInvalidateRange x0 x1 => Sys2Proof.Machine.execCacheMaintInvalidateRange x0 x1 s
  | .cacheMaintCleanInvalidateRange x0 x1 => Sys2Proof.Machine.execCacheMaintCleanInvalidateRange x0 x1 s
  | .cacheMaintCleanSetWay x0 x1 => Sys2Proof.Machine.execCacheMaintCleanSetWay x0 x1 s
  | .cacheMaintInvalidateSetWay x0 x1 => Sys2Proof.Machine.execCacheMaintInvalidateSetWay x0 x1 s
  | .cacheMaintInvalidatePrefetch x0 x1 => Sys2Proof.Machine.execCacheMaintInvalidatePrefetch x0 x1 s
  | .cacheMaintSetMask x0 x1 => Sys2Proof.Machine.execCacheMaintSetMask x0 x1 s
  | .unlock x0 x1 x2 => Sys2Proof.Machine.execUnlock x0 x1 x2 s
  | .lock x0 x1 => Sys2Proof.Machine.execLock x0 x1 s
  | .credSet x0 x1 => Sys2Proof.Machine.execCredSet x0 x1 s
  | .arrayCreate x0 x1 => Sys2Proof.Machine.execArrayCreate x0 x1 s
  | .arrayInitDone => Sys2Proof.Machine.execArrayInitDone s
  | .volumeCreate x0 x1 => Sys2Proof.Machine.execVolumeCreate x0 x1 s
  | .volumeDelete x0 x1 => Sys2Proof.Machine.execVolumeDelete x0 x1 s
  | .grantSet x0 x1 => Sys2Proof.Machine.execGrantSet x0 x1 s
  | .keyRotate x0 x1 => Sys2Proof.Machine.execKeyRotate x0 x1 s
  | .sharesSet x0 x1 => Sys2Proof.Machine.execSharesSet x0 x1 s
  | .vaultList x0 x1 => Sys2Proof.Machine.execVaultList x0 x1 s
  | .vaultGet x0 x1 x2 => Sys2Proof.Machine.execVaultGet x0 x1 x2 s
  | .vaultPut x0 x1 => Sys2Proof.Machine.execVaultPut x0 x1 s
  | .vaultDelete x0 x1 => Sys2Proof.Machine.execVaultDelete x0 x1 s
  | .vaultSetPolicy x0 x1 x2 => Sys2Proof.Machine.execVaultSetPolicy x0 x1 x2 s
  | .memberAttach x0 x1 => Sys2Proof.Machine.execMemberAttach x0 x1 s
  | .memberDetach x0 x1 => Sys2Proof.Machine.execMemberDetach x0 x1 s
  | .memberReplace x0 x1 => Sys2Proof.Machine.execMemberReplace x0 x1 s
  | .memberLocateOn x0 x1 => Sys2Proof.Machine.execMemberLocateOn x0 x1 s
  | .memberLocateOff x0 x1 => Sys2Proof.Machine.execMemberLocateOff x0 x1 s
  | .rebuildStart x0 x1 => Sys2Proof.Machine.execRebuildStart x0 x1 s
  | .rebuildStop x0 x1 => Sys2Proof.Machine.execRebuildStop x0 x1 s
  | .scrubStart x0 x1 => Sys2Proof.Machine.execScrubStart x0 x1 s
  | .scrubStop x0 x1 => Sys2Proof.Machine.execScrubStop x0 x1 s
  | .engineSplit x0 x1 => Sys2Proof.Machine.execEngineSplit x0 x1 s
  | .layoutLoad x0 x1 => Sys2Proof.Machine.execLayoutLoad x0 x1 s
  | .layoutValidationEnd => Sys2Proof.Machine.execLayoutValidationEnd s
  | .layoutSwap x0 x1 => Sys2Proof.Machine.execLayoutSwap x0 x1 s
  | .shadowVerificationEnd => Sys2Proof.Machine.execShadowVerificationEnd s
  | .swapDrainEnd => Sys2Proof.Machine.execSwapDrainEnd s
  | .selfTest x0 x1 => Sys2Proof.Machine.execSelfTest x0 x1 s
  | .selfTestDone x0 x1 => Sys2Proof.Machine.execSelfTestDone x0 x1 s
  | .fwLoad x0 x1 => Sys2Proof.Machine.execFwLoad x0 x1 s
  | .fwActivate x0 x1 => Sys2Proof.Machine.execFwActivate x0 x1 s
  | .modeSetLocked x0 x1 => Sys2Proof.Machine.execModeSetLocked x0 x1 s
  | .modeSetService x0 x1 => Sys2Proof.Machine.execModeSetService x0 x1 s
  | .reset x0 x1 x2 => Sys2Proof.Machine.execReset x0 x1 x2 s
  | .lifecycleGrey x0 x1 => Sys2Proof.Machine.execLifecycleGrey x0 x1 s
  | .lifecycleBlack x0 x1 => Sys2Proof.Machine.execLifecycleBlack x0 x1 s
  | .lifecycleRed x0 x1 => Sys2Proof.Machine.execLifecycleRed x0 x1 s
  | .freezeArm x0 x1 => Sys2Proof.Machine.execFreezeArm x0 x1 s
  | .freezeDisarm x0 x1 => Sys2Proof.Machine.execFreezeDisarm x0 x1 s
  | .identitySet x0 x1 => Sys2Proof.Machine.execIdentitySet x0 x1 s
  | .auxDriveGpioOut x0 x1 => Sys2Proof.Machine.execAuxDriveGpioOut x0 x1 s
  | .auxReadGpioIn x0 x1 x2 => Sys2Proof.Machine.execAuxReadGpioIn x0 x1 x2 s
  | .alarmSetHost x0 x1 => Sys2Proof.Machine.execAlarmSetHost x0 x1 s
  | .alarmCancelHost x0 x1 => Sys2Proof.Machine.execAlarmCancelHost x0 x1 s
  | .alarmSetWake x0 x1 => Sys2Proof.Machine.execAlarmSetWake x0 x1 s
  | .alarmCancelWake x0 x1 => Sys2Proof.Machine.execAlarmCancelWake x0 x1 s
  | .hostAlarm => Sys2Proof.Machine.execHostAlarm s
  | .wakeAlarm => Sys2Proof.Machine.execWakeAlarm s
  | .qctlResumeRetry x0 x1 x2 => Sys2Proof.Machine.execQctlResumeRetry x0 x1 x2 s
  | .qctlResumeSkip x0 x1 x2 => Sys2Proof.Machine.execQctlResumeSkip x0 x1 x2 s
  | .qctlReset x0 x1 x2 => Sys2Proof.Machine.execQctlReset x0 x1 x2 s
  | .ringReset x0 x1 => Sys2Proof.Machine.execRingReset x0 x1 s
  | .ring0Enable x0 x1 => Sys2Proof.Machine.execRing0Enable x0 x1 s
  | .evqEnable x0 x1 => Sys2Proof.Machine.execEvqEnable x0 x1 s
  | .evqDoneWrite x0 x1 => Sys2Proof.Machine.execEvqDoneWrite x0 x1 s
  | .pfinvWrite x0 x1 => Sys2Proof.Machine.execPfinvWrite x0 x1 s
  | .cmaskWrite x0 x1 x2 => Sys2Proof.Machine.execCmaskWrite x0 x1 x2 s
  | .modeReqWrite x0 x1 => Sys2Proof.Machine.execModeReqWrite x0 x1 s
  | .drowseIdleWrite x0 x1 => Sys2Proof.Machine.execDrowseIdleWrite x0 x1 s
  | .auxEnWrite x0 x1 => Sys2Proof.Machine.execAuxEnWrite x0 x1 s
  | .stgLimitWrite x0 x1 => Sys2Proof.Machine.execStgLimitWrite x0 x1 s
  | .portRelWrite x0 x1 => Sys2Proof.Machine.execPortRelWrite x0 x1 s
  | .portOrdWrite x0 x1 => Sys2Proof.Machine.execPortOrdWrite x0 x1 s
  | .portPwrWrite x0 x1 => Sys2Proof.Machine.execPortPwrWrite x0 x1 s
  | .intStatWrite x0 x1 => Sys2Proof.Machine.execIntStatWrite x0 x1 s
  | .intMaskWrite x0 x1 => Sys2Proof.Machine.execIntMaskWrite x0 x1 s
  | .intCoalWrite x0 x1 x2 => Sys2Proof.Machine.execIntCoalWrite x0 x1 x2 s
  | .msixVectorWrite x0 x1 x2 => Sys2Proof.Machine.execMsixVectorWrite x0 x1 x2 s
  | .tampCfgWrite x0 x1 => Sys2Proof.Machine.execTampCfgWrite x0 x1 s
  | .lidCfgWrite x0 x1 => Sys2Proof.Machine.execLidCfgWrite x0 x1 s
  | .confCfgWrite x0 x1 => Sys2Proof.Machine.execConfCfgWrite x0 x1 s
  | .hlthCfgWrite x0 x1 => Sys2Proof.Machine.execHlthCfgWrite x0 x1 s
  | .registerWrite x0 x1 x2 => Sys2Proof.Machine.execRegisterWrite x0 x1 x2 s
  | .bar0UnsupportedRequest x0 x1 x2 x3 x4 => Sys2Proof.Machine.execBar0UnsupportedRequest x0 x1 x2 x3 x4 s
  | .busMasterEnable x0 x1 => Sys2Proof.Machine.execBusMasterEnable x0 x1 s
  | .d3hotWrite x0 => Sys2Proof.Machine.execD3hotWrite x0 s
  | .d3hotEntry x0 => Sys2Proof.Machine.execD3hotEntry x0 s
  | .d0Return x0 => Sys2Proof.Machine.execD0Return x0 s
  | .flr x0 => Sys2Proof.Machine.execFlr x0 s
  | .flrComplete x0 => Sys2Proof.Machine.execFlrComplete x0 s
  | .perstAssert x0 => Sys2Proof.Machine.execPerstAssert x0 s
  | .perstDeassert x0 x1 => Sys2Proof.Machine.execPerstDeassert x0 x1 s
  | .hotReset x0 => Sys2Proof.Machine.execHotReset x0 s
  | .linkUp x0 => Sys2Proof.Machine.execLinkUp x0 s
  | .linkL12Exit x0 => Sys2Proof.Machine.execLinkL12Exit x0 s
  | .aspmL1Request x0 => Sys2Proof.Machine.execAspmL1Request x0 s
  | .ltrMessage x0 => Sys2Proof.Machine.execLtrMessage x0 s
  | .interruptMessage x0 x1 => Sys2Proof.Machine.execInterruptMessage x0 x1 s
  | .portError x0 x1 x2 => Sys2Proof.Machine.execPortError x0 x1 x2 s
  | .surpriseLinkDown x0 => Sys2Proof.Machine.execSurpriseLinkDown x0 s
  | .completionTimeout x0 => Sys2Proof.Machine.execCompletionTimeout x0 s
  | .containmentHold x0 => Sys2Proof.Machine.execContainmentHold x0 s
  | .containmentRelease x0 => Sys2Proof.Machine.execContainmentRelease x0 s
  | .presenceChange x0 x1 => Sys2Proof.Machine.execPresenceChange x0 x1 s
  | .bringupStepDone x0 x1 => Sys2Proof.Machine.execBringupStepDone x0 x1 s
  | .bringupStepOverrun x0 => Sys2Proof.Machine.execBringupStepOverrun x0 s
  | .formatNvmDone x0 x1 => Sys2Proof.Machine.execFormatNvmDone x0 x1 s
  | .slotPowerWaitEnd x0 => Sys2Proof.Machine.execSlotPowerWaitEnd x0 s
  | .slotPowerDownStep x0 => Sys2Proof.Machine.execSlotPowerDownStep x0 s
  | .memberReadCompletion x0 x1 x2 => Sys2Proof.Machine.execMemberReadCompletion x0 x1 x2 s
  | .memberWriteCompletion x0 x1 => Sys2Proof.Machine.execMemberWriteCompletion x0 x1 s
  | .memberCommandTimeout x0 => Sys2Proof.Machine.execMemberCommandTimeout x0 s
  | .memberLinkDown x0 => Sys2Proof.Machine.execMemberLinkDown x0 s
  | .ladderRungDone x0 x1 x2 => Sys2Proof.Machine.execLadderRungDone x0 x1 x2 s
  | .healthPoll x0 x1 => Sys2Proof.Machine.execHealthPoll x0 x1 s
  | .memberDmaRequest x0 x1 x2 => Sys2Proof.Machine.execMemberDmaRequest x0 x1 x2 s
  | .railFault x0 x1 => Sys2Proof.Machine.execRailFault x0 x1 s
  | .slotConverterOvercurrent => Sys2Proof.Machine.execSlotConverterOvercurrent s
  | .memberLost x0 x1 => Sys2Proof.Machine.execMemberLost x0 x1 s
  | .superblockWriteDone => Sys2Proof.Machine.execSuperblockWriteDone s
  | .destageShiftStart x0 => Sys2Proof.Machine.execDestageShiftStart x0 s
  | .rebuildShift x0 => Sys2Proof.Machine.execRebuildShift x0 s
  | .resyncShift x0 => Sys2Proof.Machine.execResyncShift x0 s
  | .checkShift x0 => Sys2Proof.Machine.execCheckShift x0 s
  | .shiftCompute x0 x1 => Sys2Proof.Machine.execShiftCompute x0 x1 s
  | .shiftEnd x0 => Sys2Proof.Machine.execShiftEnd x0 s
  | .engineBufferRelease x0 => Sys2Proof.Machine.execEngineBufferRelease x0 s
  | .bufferReclaimAlloc x0 x1 => Sys2Proof.Machine.execBufferReclaimAlloc x0 x1 s
  | .journalDurable => Sys2Proof.Machine.execJournalDurable s
  | .journalWriteFailed => Sys2Proof.Machine.execJournalWriteFailed s
  | .journalWaitEnd x0 x1 x2 => Sys2Proof.Machine.execJournalWaitEnd x0 x1 x2 s
  | .foldStart x0 x1 => Sys2Proof.Machine.execFoldStart x0 x1 s
  | .rekeyStep x0 => Sys2Proof.Machine.execRekeyStep x0 s
  | .stripeWayRetire x0 => Sys2Proof.Machine.execStripeWayRetire x0 s
  | .integrityAlarm x0 => Sys2Proof.Machine.execIntegrityAlarm x0 s
  | .tamperTrip x0 => Sys2Proof.Machine.execTamperTrip x0 s
  | .discrepancyFault x0 x1 x2 => Sys2Proof.Machine.execDiscrepancyFault x0 x1 x2 s
  | .discrepancyRunEnd x0 x1 x2 => Sys2Proof.Machine.execDiscrepancyRunEnd x0 x1 x2 s
  | .confirmPress => Sys2Proof.Machine.execConfirmPress s
  | .confirmTimeout => Sys2Proof.Machine.execConfirmTimeout s
  | .throttleExpiry => Sys2Proof.Machine.execThrottleExpiry s
  | .coolDownExpiry x0 => Sys2Proof.Machine.execCoolDownExpiry x0 s
  | .wakeIn => Sys2Proof.Machine.execWakeIn s
  | .resign x0 x1 => Sys2Proof.Machine.execResign x0 x1 s
  | .claim x0 => Sys2Proof.Machine.execClaim x0 s
  | .leaseExpiry => Sys2Proof.Machine.execLeaseExpiry s
  | .selfCheckEnd x0 x1 => Sys2Proof.Machine.execSelfCheckEnd x0 x1 s
  | .handover => Sys2Proof.Machine.execHandover s
  | .takeback => Sys2Proof.Machine.execTakeback s
  | .reloadEnd x0 x1 => Sys2Proof.Machine.execReloadEnd x0 x1 s
  | .stateCopyEnd x0 => Sys2Proof.Machine.execStateCopyEnd x0 s
  | .firmwareCopyEnd x0 => Sys2Proof.Machine.execFirmwareCopyEnd x0 s
  | .probationEnd x0 => Sys2Proof.Machine.execProbationEnd x0 s
  | .frameLimitWarning => Sys2Proof.Machine.execFrameLimitWarning s
  | .frameLimitStop => Sys2Proof.Machine.execFrameLimitStop s
  | .frameLimitHalt => Sys2Proof.Machine.execFrameLimitHalt s
  | .deviceLevelError x0 => Sys2Proof.Machine.execDeviceLevelError x0 s
  | .freezePinTrigger => Sys2Proof.Machine.execFreezePinTrigger s
  | .freezeFrameMatch => Sys2Proof.Machine.execFreezeFrameMatch s
  | .freezeEntry => Sys2Proof.Machine.execFreezeEntry s
  | .captureReady => Sys2Proof.Machine.execCaptureReady s
  | .captureRestart => Sys2Proof.Machine.execCaptureRestart s
  | .frzMisuse x0 => Sys2Proof.Machine.execFrzMisuse x0 s
  | .hostDmaReadCompletion x0 x1 x2 x3 => Sys2Proof.Machine.execHostDmaReadCompletion x0 x1 x2 x3 s
  | .linkL12Entry x0 => Sys2Proof.Machine.execLinkL12Entry x0 s
  | .randomBitGeneratorHealthFail => Sys2Proof.Machine.execRandomBitGeneratorHealthFail s
  | .vbatLost => Sys2Proof.Machine.execVbatLost s
  | .vbatRestored => Sys2Proof.Machine.execVbatRestored s
  | .capClkFallingEdge => Sys2Proof.Machine.execCapClkFallingEdge s
  | .boundaryScanInstruction x0 => Sys2Proof.Machine.execBoundaryScanInstruction x0 s
  | .testLogicReset => Sys2Proof.Machine.execTestLogicReset s

end Sys2Proof.Machine
end

