-- ==== Sys2Proof/Safety.lean ====
section
/-! DEFINITION. What a safe state and a safe run are: the memories stand in their canonical form, and every shift and member
order under way has a number no other has. -/
namespace Sys2Proof
open Sys2Proof.Machine

/-- The three memories of the block stand in their canonical form. -/
abbrev MemoriesWf (s : State) : Prop :=
  Memory.wf s.root = true ∧ Memory.wf s.jnl.mem = true ∧ Memory.wf s.staging.mem = true

/-- The ids of the member orders still planned for a commit point. -/
def plannedIds (s : State) : List Nat :=
  s.gate.orders.filterMap fun o => match o with
    | .member m => some m.id
    | _ => none

/-- The ids of shifts and of member orders, planned and under way, were all given out, and none twice. -/
abbrev IdsApart (s : State) : Prop :=
  (∀ x ∈ s.shifts, x.id < s.gate.nextId) ∧ (∀ o ∈ s.morders, o.id < s.gate.nextId) ∧
  (∀ n ∈ plannedIds s, n < s.gate.nextId) ∧ (s.shifts.map (·.id)).Nodup ∧ (s.morders.map (·.id) ++ plannedIds s).Nodup

/-- A safe state. -/
structure Safe (s : State) : Prop where
  memories : MemoriesWf s
  ids : IdsApart s

/-- A safe run of n steps: each step answers a next state, and every state it passes is safe. -/
def SafeRun : Nat → State → Prop
  | 0, s => Safe s
  | n + 1, s => Safe s ∧ ∃ t, step s = .next t ∧ SafeRun n t

end Sys2Proof
end

