-- ==== Sys2Proof/Certificates/Slice0/Obligations.lean ====
section
/-! DEFINITION. The statements for the provers: what the rules of spec/ say the commands do, where each command completes
with its own effect, what each leaves unchanged, and what every step keeps. -/
open Sys2Proof Sys2Proof.Machine

/-- The command `c` completes in state `s`: `exec` answers a next state, of which `P` holds. -/
abbrev Sys2Proof.Yields (c : Instr) (s : State) (P : State → Prop) : Prop := ∃ t, exec c s = .next t ∧ P t

/-! ## Supply and Start (03, 14) -/

/-- 03 R67, R66: a Start without loss of VIN begins F0 once the last slot is off; a stage's own end begins the next stage,
and the first good window of S1 ends it unless a tamper latch is set. 03 R73: where every fault of a memory is covered by its
spares, S3 ends with them as soft repairs and no way retired. -/
def Obligations.StagesOfStartFollowOneAnother : Prop :=
  (∀ s, s.mode.mode = .start → s.start.takedown = true → (∀ m, (s.slot m).rail = false ∧ (s.slot m).pd = none) →
    Yields .startSlotTakedownEnd s fun t =>
      t.start = StartSt.init ∧ t.clock.frame = 0 ∧ t.mode.mode = .start ∧ t.mode.prior = s.mode.prior ∧
      t.mode.cause = s.mode.cause ∧ (s.jnl.inflight = [] → t.root = s.root) ∧ t.keys = KeySt.init ∧ t.log.next = s.log.next ∧
      (∀ p, (t.port p).linkUp = (s.port p).linkUp ∧ (t.port p).refclk = (s.port p).refclk ∧ (t.port p).d3 = (s.port p).d3 ∧
        (t.port p).cfg.bme = (s.port p).cfg.bme ∧ (t.port p).cfg.bar0 = (s.port p).cfg.bar0 ∧
        (t.port p).ccount = PortSt.init.ccount ∧ (t.port p).ordLimit = PortSt.init.ordLimit ∧
        (∀ r, t.ring p r = Ring.init))) ∧
  (∀ s w, inStage s .s1 = true → windowOk s w = true → Yields (.windowsClose w) s fun t =>
    if (readLatch (handleWipe s)).sec.latch = true then t.mode.plan.isSome = true ∧ t.start.stage = .s1
    else t.start.stage = .s2 ∧ t.start.windows = s.start.windows + 1) ∧
  (∀ s w, inStage s .s1 = true → windowOk s w = false → Yields (.windowsClose w) s fun t =>
    t.start.windows = s.start.windows + 1 ∧
    (if s.start.windows + 1 < 16 then t.start.stage = .s1
     else t.start.stage = .halted ∧ t.start.halt = true ∧ t.cx.holder = none)) ∧
  (∀ s sigs, inStage s .s2 = true → s.start.failedUmber = false → s.start.failedPortA = false →
    (∀ id ∈ logicIds, sigFails s.fuse id (((sigs.find? fun x => x.1 == id).map (·.2)).getD 0) = false) →
    Yields (.logicSelfTestEnd sigs) s fun t =>
      t.start.stage = .s3 ∧ t.start.untested = logicIds.any (untestedBlock s.fuse) ∧ t.start.status = s.start.status) ∧
  (∀ s fs, inStage s .s3 = true → s.start.failedUmber = false → s.start.failedPortA = false →
    (∀ f ∈ (mergeFaults fs).filter (failing s), covered s f = true ∧ f.id ≠ 0x17) →
    Yields (.memoryTestEnd fs) s fun t =>
      t.start.stage = .s4 ∧ t.start.soft = (((mergeFaults fs).filter (failing s)).map (softOf s)).sum ∧
      (t.start.repaired = true ↔ t.start.soft ≠ 0) ∧ t.cache.wayRet = 0 ∧ t.cache.victRet = 0 ∧ (t.port .a).phy = true ∧
      t.start.status = s.start.status) ∧
  (∀ s bad, inStage s .s5 = true → s.start.s5 = false → bad.eraseDups.length ≤ 256 → Yields (.bulkMemoryTestEnd bad) s fun t =>
    t.start.s5 = true ∧ t.start.pages = bad.eraseDups.length ∧
    t.start.stage = (if s.start.s6 then (if s.array.isSome then .s7 else .s8) else .s6))

/-- 03 R79 to R82: where both complexes passed their self-test and accept slots of one digest at either attempt, S4 ends with
both TWIN and the preferred one the holder, the token's epoch untouched and its lease begun; where one alone accepts a slot
it runs SOLE; with no slot accepted on either, or with digests that differ twice, Start halts; White with no image runs the
test monitor on the complexes that passed. -/
def Obligations.SecureBootMakesTheHolder : Prop :=
  (∀ s u l, inStage s .s4 = true → testMonitor s = false → s.start.failedUmber = false → s.start.failedSlate = false →
    (∃ x, bootSlot s u = some x) → (∃ y, bootSlot s l = some y) → (u.digest1 = l.digest1 ∨ u.digest2 = l.digest2) →
    Yields (.secureBootEnd u l) s fun t =>
      t.cx.umber = .twin ∧ t.cx.slate = .twin ∧ t.cx.holder = some s.cx.pref ∧ t.start.simplex = false ∧
      t.cx.epoch = s.cx.epoch ∧ t.cx.expiry = s.clock.frame + s.cx.lease.toNat ∧ t.start.stage = .s5 ∧
      t.keys.jnk = true ∧ t.keys.buk.isSome = true) ∧
  (∀ s u l, inStage s .s4 = true → testMonitor s = false → s.start.failedUmber = false → s.start.failedSlate = false →
    bootSlot s u = none → bootSlot s l = none → Yields (.secureBootEnd u l) s fun t =>
      t.start.halt = true ∧ t.start.stage = .halted ∧ t.cx.umber = .off ∧ t.cx.slate = .off ∧ t.cx.holder = none ∧
      (s.start.status = 0 → t.start.blk = 0x1C)) ∧
  (∀ s u l x, inStage s .s4 = true → testMonitor s = false → s.start.failedUmber = false → bootSlot s u = some x →
    (s.start.failedSlate = true ∨ bootSlot s l = none) → Yields (.secureBootEnd u l) s fun t =>
      t.cx.umber = .sole ∧ t.cx.slate = .off ∧ t.cx.holder = some .umber ∧ t.start.simplex = true ∧ t.start.stage = .s5 ∧
      t.fw.booted = x ∧ t.cx.expiry = s.clock.frame + s.cx.lease.toNat) ∧
  (∀ s u l y, inStage s .s4 = true → testMonitor s = false → s.start.failedSlate = false → bootSlot s l = some y →
    (s.start.failedUmber = true ∨ bootSlot s u = none) → Yields (.secureBootEnd u l) s fun t =>
      t.cx.umber = .off ∧ t.cx.slate = .sole ∧ t.cx.holder = some .slate ∧ t.start.simplex = true ∧ t.start.stage = .s5 ∧
      t.fw.booted = y ∧ t.cx.expiry = s.clock.frame + s.cx.lease.toNat) ∧
  (∀ s u l, inStage s .s4 = true → testMonitor s = false → s.start.failedUmber = false → s.start.failedSlate = false →
    (bootSlot s u).isSome = true → (bootSlot s l).isSome = true → u.digest1 ≠ l.digest1 → u.digest2 ≠ l.digest2 →
    Yields (.secureBootEnd u l) s fun t =>
      t.start.halt = true ∧ t.start.stage = .halted ∧ t.cx.holder = none ∧
      (s.start.status = 0 → t.start.status = Status.bootDiverge)) ∧
  (∀ s u l, inStage s .s4 = true → testMonitor s = true → s.start.failedUmber = false → s.start.failedSlate = false →
    Yields (.secureBootEnd u l) s fun t =>
      t.cx.umber = .twin ∧ t.cx.slate = .twin ∧ t.cx.holder = some s.cx.pref ∧ t.start.stage = .s5)

/-- 03 R83 to R88, 08 R241: bring-up's end ends S6, replay or its failure leads to S8, once the writes of the windows it
redoes have ended, and RELEASE plans the closing transition of
Table 2-2, but not while a rekey that the replay found complete is still being finished (10 R335). An S2 in which block
0x0D overran goes on to S3, for Service; an S7 that overran goes on to S8, for Service, with the journal kept (03 R66). -/
def Obligations.StartEndsInItsReleaseTransition : Prop :=
  (∀ s m, runsS6 s = true → s.mode.plan = none → s.start.halt = false → s.cx.holder.isSome = true →
    (bringupsDone s = true ∨ m = true) → Yields (.memberBringUpEnd m) s fun t => t.start.s6 = true) ∧
  (∀ s v, inStage s .s7 = true → s.start.redo = false →
    (replay s v = none → Yields (.journalReplayEnd v) s fun t =>
      t.start.replayed = true ∧ t.start.stage = .s8 ∧ t.start.service = true ∧ t.start.jpend = true ∧
      (s.start.status = 0 → t.start.status = Status.journalRoot)) ∧
    (∀ r, replay s v = some r → redoing r = false → Yields (.journalReplayEnd v) s fun t =>
      t.start.replayed = true ∧ t.start.stage = .s8 ∧ t.start.rows = r.start.rows) ∧
    (∀ r, replay s v = some r → redoing r = true → Yields (.journalReplayEnd v) s fun t => t = r)) ∧
  (∀ s v, inStage s .s7 = true → s.start.redo = true → redoing s = false → Yields (.journalReplayEnd v) s fun t =>
    t.start.replayed = true ∧ t.start.stage = .s8 ∧ t.start.redo = false) ∧
  (∀ s, inStage s .s8 = true → s.clock.phase = .plan → s.cx.holder.isSome = true → anyPlanning s.cx = true →
    rekeyFinishing s = false → ∀ rev, Yields (.release rev) s fun t => t.supply.vbatReversed = rev ∧
      (t.mode.plan.map fun m => (m.target, m.kind, m.frame)) =
        some ((if openLifecycle s then Mode.factory else if s.array.isNone || s.start.service then .service else .locked),
          .startEnd, s.clock.frame) ∧ t.mode.mode = .start) ∧
  (∀ s, inStage s .s2 = true → s.start.failedPortA = false → s.start.failedUmber = false →
    s.start.parityOut0 = false → s.start.parityOut1 = false →
    Yields (.stageTimeout 0x0D) s fun t =>
      t.start.stage = .s3 ∧ t.start.service = true ∧
      (s.start.status = 0 → t.start.status = Status.stageTimeout ∧ t.start.blk = 0x0D)) ∧
  (∀ s b, inStage s .s7 = true → (blocksFail s Status.stageTimeout [b.toNat]).2 = true →
    Yields (.stageTimeout b) s fun t =>
      t.start.stage = .s8 ∧ t.start.service = true ∧ t.start.jpend = true ∧ t.start.replayed = true ∧
      (s.start.status = 0 → t.start.status = Status.stageTimeout ∧ t.start.blk = b))

/-! ## The frame (01, 02) -/

/-- An action whose PREP belongs to an earlier frame, whose entry still waits and which no other entry holds up. -/
abbrev Sys2Proof.ExecDue (s : State) (a : Priv) : Prop :=
  s.clock.phase = .commit ∧ a.frame < s.clock.frame ∧ privLive s a = true ∧ privWaits s a.act = false ∧ isHandover a = false

/-- 12 R384, R385, 01 R30, 09 R285, 04 R104: PRIVILEGED_EXEC carries out, within the lease and at an uncancelled commit point,
each action whose PREP belongs to an earlier frame of the present holder and epoch, in the order of their PREPs; the shares,
the engine split and the subsystem IDs reach the root store, the lease and the preference the HLTH block. An action of an
earlier holder or epoch is not carried out: it is planned again. Before the frame after its PREP nothing is carried out. -/
def Obligations.PrivilegedActionIsCarriedOutOnce : Prop :=
  (∀ s a rest, s.gate.priv = a :: rest → (∀ b ∈ rest, s.clock.frame ≤ b.frame) → ExecDue s a → gateOpen s = true →
    s.clock.cancelled = false → a.epoch = s.cx.epoch → a.cx = s.cx.holder → Yields .privilegedExec s fun t =>
      (rest = [] → t = publish (settleSlots (privExec { s with gate := { s.gate with priv := [] } } a.act))) ∧
      (∀ f w, a.act = .shares f w → t.gate.priv = rest ∧ t.root = Memory.write s.root 0x16 (leBytes 2 w.toNat) ∧
        t.clock = s.clock ∧ t.mode.mode = s.mode.mode) ∧
      (∀ f w, a.act = .split f w → t.gate.priv = rest ∧ t.root = Memory.write s.root 0x14 (leBytes 2 w.toNat)) ∧
      (∀ f w, a.act = .identity f w → t.gate.priv = rest ∧ t.root = Memory.write s.root 0x18 (dwBytes w)) ∧
      (∀ v, a.act = .hlthCfg v → t.gate.priv = rest ∧ t.cx.lease = v.extractLsb' 0 8 ∧
        t.cx.pref = (if v.getLsbD 8 then .slate else .umber) ∧ t.root = s.root)) ∧
  (∀ s due, s.gate.priv = due → due ≠ [] → gateOpen s = true → s.clock.cancelled = false →
    (∀ a ∈ due, ExecDue s a ∧ a.epoch = s.cx.epoch ∧ a.cx = s.cx.holder ∧ ∃ v, a.act = .hlthCfg v) →
    Yields .privilegedExec s fun t =>
      t = publish (settleSlots (due.foldl (fun u a => privExec u a.act) { s with gate := { s.gate with priv := [] } }))) ∧
  (∀ s a rest, s.gate.priv = a :: rest → (∀ b ∈ rest, s.clock.frame ≤ b.frame) → ExecDue s a → (gateOpen s = false ∨ s.clock.cancelled = true ∨ a.epoch ≠ s.cx.epoch ∨
      a.cx ≠ s.cx.holder) → Yields .privilegedExec s fun t =>
      t.gate.priv = { a with frame := s.clock.frame + 1, epoch := s.cx.epoch, cx := s.cx.holder } :: rest ∧
      t.root = s.root ∧
      t.cx = s.cx ∧ t.keys = s.keys ∧ t.array = s.array) ∧
  (∀ s, (∀ a ∈ s.gate.priv, s.clock.frame ≤ a.frame) → Yields .privilegedExec s fun t => t = s)

/-- 02 R40, R42: a planned transition takes effect as its EXEC, with the mode, the prior mode, the cause and the frame
written and chg set; a change of condition enters the mode that MODE_STAT.cond names at that moment (02 R39), and one that
the condition leaves nowhere to go ends; Lockdown takes effect by hardware at the commit point of its frame. Nothing happens
before. 02 R43, R47: a volume's key leaves the key table at the commit point after its last order; Drowse is planned once its
conditions have held for DROWSE_IDLE times 1024 frames or every enabled port votes for it. -/
def Obligations.TransitionsTakeEffectAsPlanned : Prop :=
  ((∀ s m0 m, s.mode.plan = some m0 → planReady s m0 = true → m0.target ≠ .lockdown → retarget s m0 = some m →
      Yields .modeTransition s fun t =>
        t.mode.mode = m.target ∧ t.mode.prior = s.mode.mode ∧ t.mode.cause = m.cause ∧ t.mode.entry = s.clock.frame ∧
        t.mode.chg = true ∧ t.mode.pend = false ∧ t.clock.frame = s.clock.frame ∧ t.clock.phase = .commit) ∧
    (∀ s m, (m.kind = .lock ∨ m.kind = .service ∨ m.kind = .leaveService ∨ m.kind = .reset ∨ m.kind = .startEnd ∨
        (m.kind = .plain ∧ isCondition m.target = false)) → retarget s m = some m) ∧
    (∀ s m, m.kind = .unlock → s.mode.cond ≠ .none →
      (retarget s m).map (fun x => x.target) = some (condMode s.mode.cond)) ∧
    (∀ s m, s.mode.plan = some m → planReady s m = true → m.target ≠ .lockdown → retarget s m = none →
      Yields .modeTransition s fun t =>
        t.mode.mode = s.mode.mode ∧ t.mode.plan = none ∧ t.mode.pend = false ∧ t.keys.staged = none ∧ t.root = s.root) ∧
    (∀ s m, s.mode.plan = some m → planReady s m = true → m.target = .lockdown → Yields .modeTransition s fun t =>
      t.mode.mode = .lockdown ∧ t.mode.prior = s.mode.mode ∧ t.mode.cause = m.cause ∧ t.frz.armed = false ∧
      t.sec.cwin = none) ∧
    (∀ s m, s.mode.plan = some m → planReady s m = false → Yields .modeTransition s fun t => t = s)) ∧
  ((∀ s v x, s.clock.phase = .commit → s.mode.keyClear.contains v = true → volumeBusy s v = false → volOf s v = some x →
      Yields (.volumeKeyClear v) s fun t =>
        t.keys.prim[x.key.val] = none ∧ t.keys.shadow[x.key.val] = none ∧ t.mode.keyClear.contains v = false ∧
        (∀ k : Fin 64, k ≠ x.key → t.keys.prim[k.val] = s.keys.prim[k.val]) ∧ t.keys.amk = s.keys.amk) ∧
    (∀ s, s.clock.phase = .intake → drowseReady s = true → s.mode.plan = none →
      (∀ p, portEnabled s p = true → (s.port p).vote = true) → Yields .drowseIdleElapsed s fun t =>
        (t.mode.plan.map fun m => m.target) = some .drowse ∧ t.mode.mode = s.mode.mode) ∧
    (∀ s f, s.clock.phase = .intake → drowseReady s = true → s.mode.plan = none → s.mode.idleSince = some f →
      s.mode.drowseIdle ≠ 0 → f + 1024 * s.mode.drowseIdle.toNat ≤ s.clock.frame → Yields .drowseIdleElapsed s fun t =>
        (t.mode.plan.map fun m => (m.target, m.cause)) = some (.drowse, 0x0B) ∧ t.mode.mode = s.mode.mode))

/-! ## The control complexes (12) -/

/-- 12 R386 to R388, Tables 12-1 and 12-5: the holder that resigns leaves the token vacant; a claim of the planning
complex takes it with the next epoch and a fresh lease, but the last holder's stands back while its twin plans; a lease that ran out leaves the token vacant too. 12 R390,
R396: with the preferred complex TWIN and not the holder, TAKEBACK plans the handover; its EXEC makes the twin the
holder in the next epoch. -/
def Obligations.TokenPassesByResignationClaimAndHandover : Prop :=
  ((∀ s c f, s.cx.umber = .twin → s.cx.slate = .twin → Yields (.resign c f) s fun t =>
      t.cx.of c = .off ∧ t.cx.of (otherCx c) = .twin ∧ t.cx.leave = satInc s.cx.leave ∧
      t.cx.holder = (if s.cx.holder = some c then none else s.cx.holder) ∧ t.cx.epoch = s.cx.epoch) ∧
    (∀ s c, s.cx.holder = none → claimYields s.cx c = true → Yields (.claim c) s fun t => t = s) ∧
    (∀ s c, s.clock.phase = .commit → plans (s.cx.of c) = true → s.cx.holder = none → s.cx.vacant ≤ s.clock.frame →
      claimYields s.cx c = false → Yields (.claim c) s fun t =>
        t.cx.holder = some c ∧ t.cx.epoch = nextEpoch s.cx.epoch ∧ t.cx.epoch ≠ 0 ∧
        t.cx.expiry = s.clock.frame + s.cx.lease.toNat ∧ t.cx.take = satInc s.cx.take) ∧
    (∀ s, s.clock.phase = .intake → s.cx.holder.isSome = true → s.cx.expiry < s.clock.frame → Yields .leaseExpiry s fun t =>
      t.cx.holder = none ∧ t.cx.epoch = s.cx.epoch ∧ t.cx.umber = s.cx.umber ∧ t.cx.slate = s.cx.slate)) ∧
  ((∀ s, s.clock.phase = .plan → s.cx.of s.cx.pref = .twin → s.cx.holder = some (otherCx s.cx.pref) →
      handingOver s = false → s.cx.susp = none → Yields .takeback s fun t =>
        t.gate.priv = s.gate.priv ++ [{ act := .handover, frame := s.clock.frame, epoch := s.cx.epoch, cx := s.cx.holder,
                                        orphan := false }] ∧
        t.cx = s.cx) ∧
    (∀ s h a, s.cx.holder = some h → s.cx.of (otherCx h) = .twin → s.mode.plan = none → gateOpen s = true →
      s.clock.cancelled = false → s.gate.priv = [a] → a.act = .handover → a.frame < s.clock.frame →
      a.epoch = s.cx.epoch → a.cx = s.cx.holder → Yields .handover s fun t =>
        t.cx.holder = some (otherCx h) ∧ t.cx.epoch = nextEpoch s.cx.epoch ∧ t.cx.hand = satInc s.cx.hand ∧
        t.cx.handing = false ∧ t.gate.priv = [] ∧ t.cx.expiry = s.clock.frame + s.cx.lease.toNat))

/-- 12 R392, R393: a commit point at which both complexes' markers are there but their orders, their inputs or their changed
state words differ cancels the frame: no order of it is released, the gate enters the suspect state for 32 frames, and the divergence is counted. 12 R394
(Table 12-8): the self-check of both complexes ends the suspect state; in every outcome but two failures exactly one
complex is left planning, the one in control where it passed. -/
def Obligations.DivergenceIsSettledByTheSelfCheck : Prop :=
  (∀ s g, s.clock.phase = .dispatch → s.cx.umber = .twin → s.cx.slate = .twin → s.cx.susp = none → s.test = none →
      g.umber = true → g.slate = true → (g.agree && recordOk g) = false → Yields (.commitPoint g) s fun t =>
        t.clock.cancelled = true ∧ t.cx.susp = some (s.clock.frame + 32) ∧ t.cx.div = satInc s.cx.div ∧
        t.gate.orders = s.gate.orders ∧ t.morders = s.morders ∧ t.jnl = s.jnl ∧ t.cx.umber = .twin ∧ t.cx.slate = .twin ∧
        t.cx.holder = s.cx.holder ∧ t.mode.mode = s.mode.mode) ∧
  (∀ s e a b, s.cx.susp = some e → e ≤ s.clock.frame → s.clock.phase = .commit → s.cx.umber = .twin → s.cx.slate = .twin →
      s.cx.holder = some s.cx.last → s.test = none → Yields (.selfCheckEnd a b) s fun t =>
        t.cx.susp = none ∧
        (let passHolder := match s.cx.last with | .umber => a | .slate => b
         let passOther := match s.cx.last with | .umber => b | .slate => a
         (passHolder = true → t.cx.of s.cx.last = .sole ∧ plans (t.cx.of (otherCx s.cx.last)) = false ∧
           t.cx.holder = some s.cx.last) ∧
         (passHolder = false → passOther = true → t.cx.of (otherCx s.cx.last) = .sole ∧ t.cx.of s.cx.last = .off ∧
           t.cx.holder = none)))

/-- 12 R395 (Table 12-1), 03 R79: a recovering complex goes from RELOAD, with the image of the active slot checked and loaded, through both copies and
probation to TWIN; the copy of its state has ended once its 32,768 words, 1952 in a frame, have been sent; a refused image
leaves it OFF. -/
def Obligations.RecoveryGoesThroughCopyAndProbation : Prop :=
  (∀ s c x, s.cx.of c = .reload → s.mode.mode ≠ .start → anyPlanning s.cx = true → slotVerdict s s.fw.active none = Status.success →
    imageOf s.fw s.fw.active = some x → Yields (.reloadEnd c true) s fun t =>
      t.cx.of c = .copy ∧ t.cx.copied = false ∧ t.cx.copyAt = 0 ∧ tcmOf t.cx c = x.data ∧
      t.cx.of (otherCx c) = s.cx.of (otherCx c)) ∧
  (∀ s c ok, s.cx.of c = .reload → s.mode.mode ≠ .start → anyPlanning s.cx = true → reloadTakes s ok = false →
    Yields (.reloadEnd c ok) s fun t => t.cx.of c = .off ∧ leftOf t.cx c = 4 ∧ t.cx.holder = s.cx.holder) ∧
  (∀ s c, s.cx.of c = .copy → s.cx.copied = false → anyPlanning s.cx = true →
    (stateWords ≤ s.cx.copyAt → Yields (.stateCopyEnd c) s fun t =>
      t.cx = { setTcm s.cx c (tcmOf s.cx (otherCx c)) with copied := true }) ∧
    (s.cx.copyAt < stateWords → Yields (.stateCopyEnd c) s fun t => t = s)) ∧
  (∀ s ws, (s.cx.umber = .copy ∨ s.cx.slate = .copy) → s.cx.copied = false → s.cx.holder.isSome = true →
    (sendRecord s ws).cx.copyAt = min 32768 (s.cx.copyAt + 1952)) ∧
  (∀ s c, s.clock.phase = .commit → s.cx.of c = .copy → s.cx.copied = true → anyPlanning s.cx = true →
    Yields (.firmwareCopyEnd c) s fun t => t.cx.of c = .probation ∧ t.cx.clean = 0) ∧
  (∀ s c, s.cx.of c = .probation → 1024 ≤ s.cx.clean → s.clock.phase = .commit → Yields (.probationEnd c) s fun t =>
    t.cx.umber = .twin ∧ t.cx.slate = .twin ∧ t.cx.holder = s.cx.holder)

/-- 01 R17: the four phases of a frame follow one another, and INTAKE_PHASE begins the next frame. 12 R378, R379, R391, R392: a
commit point makes the marker of the orders issued in the frame and sends the holder's changed words, at most 1022 of them
with those that waited first; the others wait; a planned order takes the next index, and no frame issues more than 256. 12
R400: near its end the frame counter is warned of, then rings take no entry, then both complexes are held. -/
def Obligations.FramesFollowOneAnotherUpToTheLimit : Prop :=
  ((∀ s, s.clock.phase = .commit → frameRuns s = true → Yields .intakePhase s fun t =>
      t.clock.phase = .intake ∧ t.clock.frame = s.clock.frame + 1 ∧ t.clock.cancelled = false) ∧
    (∀ s n corr near, s.clock.phase = .intake → Yields (.planPhase n corr near) s fun t =>
      t.clock.phase = .plan ∧ t.clock.frame = s.clock.frame ∧ t.gate.spentA = 0 ∧ t.gate.spentB = 0 ∧
      (anyPlanning s.cx = true → t.cx.rptStep = (s.cx.rptStep + n) % 256 ∧
        t.cx.rptCorr.toNat = min (s.cx.rptCorr.toNat + corr) 255 ∧ t.cx.rptOvr.toNat = min (s.cx.rptOvr.toNat + near) 255)) ∧
    (∀ s, s.clock.phase = .plan → Yields .dispatchPhase s fun t =>
      t.clock.phase = .dispatch ∧ t.clock.frame = s.clock.frame) ∧
    (∀ s g, s.clock.phase = .dispatch → Yields (.commitPoint g) s fun t =>
      t.clock.phase = .commit ∧ t.clock.frame = s.clock.frame ∧
      t.gate.marker = some { frame := BitVec.ofNat 20 s.clock.frame, count := s.gate.tags.length,
                             digest := crc32c (s.gate.tags.flatMap fun x => leBytes 4 x.digest.toNat) } ∧
      t.gate.delta = (s.gate.delta ++ g.words).drop 1022 ∧
      t.gate.record = (if sendsRecord s.cx = true then
          some { frame := s.clock.frame, epoch := s.cx.epoch, holder := s.cx.holder.getD s.cx.last,
                 inputs := s.gate.inputs, pairs := (s.gate.delta ++ g.words).take 1022 }
        else none)) ∧
    (∀ s o, o.counted = true → s.gate.tags.length < 256 →
      (addOrder s o).gate.tags = s.gate.tags ++ [tagFor s s.gate true false (.order o)] ∧
      (addOrder s o).gate.orders = s.gate.orders ++ [o]) ∧
    (∀ s o, s.gate.tags.length ≤ 256 → (addOrder s o).gate.tags.length ≤ 256) ∧
    (∀ s, (issuedOrders s ++ deferredOrders s).length = s.gate.orders.length ∧
      ((issuedOrders s).filter Order.counted).length ≤ 256)) ∧
  ((∀ s, 0xFF0000000 ≤ s.clock.frame → s.cx.flim = false → Yields .frameLimitWarning s fun t =>
      t.cx = { s.cx with flim := true } ∧ t.log.raised.length = s.log.raised.length + 1) ∧
    (∀ s, 0xFFFF00000 ≤ s.clock.frame → Yields .frameLimitStop s fun t => t = { s with cx := { s.cx with ftake := true } }) ∧
    (∀ s, 0xFFFFFFFFF ≤ s.clock.frame → s.cx.fstop = false → Yields .frameLimitHalt s fun t =>
      t.cx.fstop = true ∧ t.cx.umber = .off ∧ t.cx.slate = .off ∧ t.cx.holder = none ∧ t.clock.phase = .stopped ∧
      frameRuns t = false))

/-! ## Register writes (00 R8; 02, 04, 05, 08, 11, 12) -/

/-- Nothing changes but the two ports' state. -/
abbrev Sys2Proof.OnlyPorts (s t : State) : Prop := t = { s with portA := t.portA, portB := t.portB }

/-- Everything but one port's state is as before. -/
abbrev Sys2Proof.OnlyPort (s t : State) (p : Port) : Prop :=
  OnlyPorts s t ∧ t.port (otherPort p) = s.port (otherPort p)

/-- A register write the block answers with the order `o`: in the Intake phase and after a commit point exactly that order
joins the orders of the frame; in the Plan and Dispatch phases the write waits for the next Intake phase (00 R8). The write
is a TLP of the port, and nothing else changes. -/
abbrev Sys2Proof.QueuesOrder (c : Instr) (s : State) (p : Port) (off : Nat) (v : W32) (o : Order) : Prop :=
  Yields c s fun t => t = { s.modPort p (sawTlp s.clock.frame) with gate :=
    if s.clock.phase = .plan ∨ s.clock.phase = .dispatch then { s.gate with late := s.gate.late ++ [.reg p off v] }
    else { s.gate with orders := s.gate.orders ++ [o] } }

/-- An accepted register write: the register order. -/
abbrev Sys2Proof.QueuesWrite (c : Instr) (s : State) (p : Port) (off : Nat) (v : W32) : Prop :=
  QueuesOrder c s p off v (.reg p off v)

/-- A refused register write: the order that sets the block's write-rejection flag. -/
abbrev Sys2Proof.QueuesReject (c : Instr) (s : State) (p : Port) (off : Nat) (v : W32) (b : RegBlock) : Prop :=
  QueuesOrder c s p off v (.wrej p b)

/-- 00 R8, 02 R50 to R52, 04 R109, R113 to R115, R131, 05 R133, R158, 08 R253: a register write that its block accepts
becomes a register order of the frame whose Intake phase observes it; one whose guard, range or mode is wrong only sets the
block's wrej; where no write is accepted nothing changes. -/
def Obligations.RegisterWriteIsAnOrderOfItsFrame : Prop :=
  ∀ (s : State) (p : Port) (v : W32),
    (regOpen s p 0x0110 = true → field v 8 8 = 0x5A → QueuesWrite (.modeReqWrite p v) s p 0x0110 v) ∧
    (regOpen s p 0x0110 = true → field v 8 8 ≠ 0x5A → QueuesReject (.modeReqWrite p v) s p 0x0110 v .mode) ∧
    (regOpen s p 0x0114 = true → s.mode.mode ≠ .start → QueuesWrite (.drowseIdleWrite p v) s p 0x0114 v) ∧
    (regOpen s p 0x0114 = true → s.mode.mode = .start → QueuesReject (.drowseIdleWrite p v) s p 0x0114 v .mode) ∧
    (regOpen s p 0x0118 = true → cfgOpen s = true → QueuesWrite (.auxEnWrite p v) s p 0x0118 v) ∧
    (regOpen s p 0x0118 = true → cfgOpen s = false → QueuesReject (.auxEnWrite p v) s p 0x0118 v .mode) ∧
    (regOpen s p 0x012C = true → cfgOpen s = true → stgLimitOk s v = true → QueuesWrite (.stgLimitWrite p v) s p 0x012C v) ∧
    (regOpen s p 0x012C = true → cfgOpen s = true → stgLimitOk s v = false → QueuesReject (.stgLimitWrite p v) s p 0x012C v .mode) ∧
    (regOpen s p 0x000C = true → 8 ≤ field v 0 8 → field v 0 8 ≤ 128 → QueuesWrite (.portOrdWrite p v) s p 0x000C v) ∧
    (regOpen s p 0x0020 = true → 1 ≤ field v 0 8 → QueuesWrite (.portPwrWrite p v) s p 0x0020 v) ∧
    (regOpen s p 0x0020 = true → field v 0 8 = 0 → QueuesReject (.portPwrWrite p v) s p 0x0020 v .port) ∧
    (regOpen s p 0x2000 = true → QueuesWrite (.intStatWrite p v) s p 0x2000 v) ∧
    (regOpen s p 0x2004 = true → QueuesWrite (.intMaskWrite p v) s p 0x2004 v) ∧
    (∀ vec : VecN, regOpen s p (0x2040 + 4 * vec.val) = true →
      QueuesWrite (.intCoalWrite p vec v) s p (0x2040 + 4 * vec.val) v) ∧
    (∀ vec : VecN, regOpen s p (0x3000 + 16 * vec.val + 8) = true →
      QueuesWrite (.msixVectorWrite p vec (.data v)) s p (0x3000 + 16 * vec.val + 8) v) ∧
    (∀ vec : VecN, regOpen s p (0x3000 + 16 * vec.val) = true →
      QueuesWrite (.msixVectorWrite p vec (.addrLo v)) s p (0x3000 + 16 * vec.val) v) ∧
    (∀ vec : VecN, regOpen s p (0x3000 + 16 * vec.val + 4) = true →
      QueuesWrite (.msixVectorWrite p vec (.addrHi v)) s p (0x3000 + 16 * vec.val + 4) v) ∧
    (∀ (vec : VecN) (b : Bool), regOpen s p (0x3000 + 16 * vec.val + 12) = true →
      QueuesWrite (.msixVectorWrite p vec (.ctrl b)) s p (0x3000 + 16 * vec.val + 12) (if b then 1 else 0)) ∧
    (∀ (vec : VecN) (b : Bool), configOpen s p = true →
      (Yields (.msixVectorWrite p vec (.functionMask b)) s fun t =>
        t = s.modPort p fun q => let q := sawTlp s.clock.frame q; { q with cfg := { q.cfg with funcMask := b } }) ∧
      (Yields (.msixVectorWrite p vec (.enable b)) s fun t =>
        t = s.modPort p fun q => let q := sawTlp s.clock.frame q; { q with cfg := { q.cfg with msixEn := b } })) ∧
    (∀ c : ClassN, regOpen s p (0x5010 + 4 * c.val) = true → cfgOpen s = true →
      QueuesWrite (.cmaskWrite p c v) s p (0x5010 + 4 * c.val) v) ∧
    (regOpen s p 0x102C = true → QueuesWrite (.evqDoneWrite p v) s p 0x102C v) ∧
    (regOpen s p 0x1028 = true → evEnabled (s.port p) = false → field v 1 4 ≤ 8 →
      QueuesWrite (.evqEnable p v) s p 0x1028 v) ∧
    (regOpen s p 0x1108 = true → (s.ring p 0).cfg.getLsbD 0 = false → field v 1 4 ≤ 8 →
      QueuesWrite (.ring0Enable p v) s p 0x1108 v) ∧
    (regOpen s p 0x1108 = true → (s.ring p 0).cfg.getLsbD 0 = true → QueuesReject (.ring0Enable p v) s p 0x1108 v .qreg) ∧
    (regOpen s p 0x1014 = true → QueuesWrite (.registerWrite p (.bar0 0x1014) v) s p 0x1014 v) ∧
    (∀ off, regOpen s p off = false → Yields (.registerWrite p (.bar0 off) v) s fun t => t = s)

/-- 11 R368, Table 11-10: TAMP_CFG, LID_CFG and CONF_CFG are writable in Service in lifecycle Grey only, in their
ranges; elsewhere the write only sets SEC's wrej. 04 R108, R124, 08 R252, 12 R384, R401: PORT_REL, PFINV and HLTH_CFG
act as their rules say when they are observed, and a request BAR0 does not accept is answered with Unsupported
Request. -/
def Obligations.GuardedRegistersActUnderTheirGuards : Prop :=
  (∀ (s : State) (p : Port) (v : W32),
      (regOpen s p 0x6010 = true → s.mode.mode = .service → lifecycle s.fuse = .grey →
        QueuesWrite (.tampCfgWrite p v) s p 0x6010 v) ∧
      (regOpen s p 0x6014 = true → s.mode.mode = .service → lifecycle s.fuse = .grey → lidCfgOk v = true →
        QueuesWrite (.lidCfgWrite p v) s p 0x6014 v) ∧
      (regOpen s p 0x6018 = true → s.mode.mode = .service → lifecycle s.fuse = .grey → confCfgOk v = true →
        QueuesWrite (.confCfgWrite p v) s p 0x6018 v) ∧
      ((s.mode.mode ≠ .service ∨ lifecycle s.fuse ≠ .grey) →
        (regOpen s p 0x6010 = true → QueuesReject (.tampCfgWrite p v) s p 0x6010 v .sec) ∧
        (regOpen s p 0x6014 = true → QueuesReject (.lidCfgWrite p v) s p 0x6014 v .sec) ∧
        (regOpen s p 0x6018 = true → QueuesReject (.confCfgWrite p v) s p 0x6018 v .sec)) ∧
      (releaseOrder s (.reg p 0x6014 v)).sec.lidCfg = v.extractLsb' 0 8 ∧
      (releaseOrder s (.reg p 0x6014 v)).root = Memory.write s.root 0x1484 (leBytes 4 (v.extractLsb' 0 8).toNat) ∧
      (releaseOrder s (.wrej p .sec)).sec = { s.sec with wrej := true }) ∧
  (∀ (s : State) (p : Port) (v : W32),
      (regOpen s p 0x0008 = true → field v 0 16 = 0xA55A → v.getLsbD 16 = true → relOk s p = true → intakePast s = false →
        Yields (.portRelWrite p v) s fun t => t = (s.modPort p (sawTlp s.clock.frame)).modPort p fun q =>
          { q with relReq := some (obsFrame s, none) }) ∧
      (regOpen s p 0x0008 = true → field v 0 16 ≠ 0xA55A → QueuesReject (.portRelWrite p v) s p 0x0008 v .port) ∧
      (regOpen s p 0x5040 = true → field v 8 8 = 0x96 → v.getLsbD 0 = true → intakePast s = false → Yields (.pfinvWrite p v) s fun t =>
        (∀ r, (t.ring p r).known = [] ∧ (t.ring p r).polling = none ∧ (t.ring p r).taken = (s.ring p r).taken ∧
          (t.ring p r).passed = (s.ring p r).passed) ∧ (∀ q, q ≠ p → t.port q = s.port q) ∧ t.gate = s.gate) ∧
      (regOpen s p 0x700C = true → cfgOpen s = true → 8 ≤ field v 0 8 → intakePast s = false →
        Yields (.hlthCfgWrite p v) s fun t =>
          t.gate.priv = s.gate.priv ++ [{ act := .hlthCfg v, frame := obsFrame s, epoch := s.cx.epoch, cx := s.cx.holder,
                                          orphan := false }] ∧
          t.cx = s.cx ∧ t.gate.orders = s.gate.orders) ∧
      (∀ off c, (off = 0x0008 ∧ c = .portRelWrite p v ∨ off = 0x5040 ∧ c = .pfinvWrite p v ∨
          off = 0x700C ∧ c = .hlthCfgWrite p v) → regOpen s p off = true → intakePast s = true → Yields c s fun t =>
          t = { s.modPort p (sawTlp s.clock.frame) with gate := { s.gate with late := s.gate.late ++ [.reg p off v] } }) ∧
      (regOpen s p 0x700C = true → field v 0 8 < 8 → QueuesReject (.hlthCfgWrite p v) s p 0x700C v .hlth) ∧
      (∀ off n all wr, linkLive s p = true → (barAccepts off n all = false ∨ (s.port p).d3 = true ∨ (s.port p).cfg.mse = false) →
        Yields (.bar0UnsupportedRequest p off n all wr) s fun t =>
          (∃ os, t.out = s.out ++ .unsupported p :: os ∧ os.length ≤ 1 ∧ ∀ o ∈ os, ∃ m, o = .errMsg p m) ∧
          (t.port p).aerUnc.getLsbD 20 = true ∧ t.gate = s.gate ∧ t.mode = s.mode ∧ OnlyPort { s with out := t.out } t p))

/-- 02 Table 2-6, 04 Table 4-6, 05 Table 5-9: at the commit point a register order gives its register the value written,
and a wrej order sets the flag; no other port and no memory of the block changes. -/
def Obligations.RegisterTakesItsValueAtTheCommitPoint : Prop :=
  ∀ (s : State) (p : Port) (v : W32),
    ((releaseOrder s (.reg p 0x0110 v)).port p).vote = v.getLsbD 0 ∧
    (releaseOrder s (.reg p 0x0114 v)).mode.drowseIdle = v.extractLsb' 0 16 ∧
    (releaseOrder s (.reg p 0x012C v)).mode.lima = v.extractLsb' 0 9 ∧
    (s.supply.strap = true → (releaseOrder s (.reg p 0x012C v)).mode.limb = v.extractLsb' 16 9) ∧
    ((releaseOrder s (.reg p 0x000C v)).port p).ordLimit = v.extractLsb' 0 8 ∧
    ((releaseOrder s (.reg p 0x0020 v)).port p).pwrIdle = v.extractLsb' 0 8 ∧
    ((releaseOrder s (.reg p 0x2000 v)).port p).intStat = (s.port p).intStat &&& ~~~v ∧
    ((releaseOrder s (.reg p 0x2004 v)).port p).intMask = v ∧
    (∀ vec : VecN, ((releaseOrder s (.reg p (0x2040 + 4 * vec.val) v)).port p).coal[vec.val] =
      { count := v.extractLsb' 0 8, time := v.extractLsb' 8 12 }) ∧
    (∀ vec : VecN, ((releaseOrder s (.reg p (0x3000 + 16 * vec.val + 8) v)).port p).msix[vec.val].data = v) ∧
    (∀ c : ClassN, (releaseOrder s (.reg p (0x5010 + 4 * c.val) v)).cache.cmaskNext =
      s.cache.cmaskNext ++ [(c, v.extractLsb' 0 16)]) ∧
    (v.getLsbD 0 = true → ((releaseOrder s (.reg p 0x1108 v)).ring p 0).state = .run ∧
      ((releaseOrder s (.reg p 0x1108 v)).ring p 0).passed = 0) ∧
    ((releaseOrder s (.wrej p .mode)).mode = { s.mode with wrej := true }) ∧
    ((releaseOrder s (.wrej p .qreg)).port p = { s.port p with qwrej := true }) ∧
    (∀ q off, q ≠ p → off < 0x6000 → (releaseOrder s (.reg p off v)).port q = s.port q ∧
      (releaseOrder s (.reg p off v)).root = s.root ∧ (releaseOrder s (.reg p off v)).jnl = s.jnl)

/-- 05 R153, R154: a QCTL write with the guard and an operation the ring's state allows is an order; a resume returns a
frozen ring to RUN with its failed entry fetched again or counted as done, a reset stops the ring from taking entries. -/
def Obligations.RingOperationsFollowTheRingState : Prop :=
  ∀ (s : State) (p : Port) (r : RingN) (v : W32), regOpen s p (qctlOff r) = true → field v 8 8 = 0xC3 →
    (field v 0 2 = 1 → (s.ring p r).state = .frozen → QueuesWrite (.qctlResumeRetry p r v) s p (qctlOff r) v ∧
      ((releaseOrder s (.reg p (qctlOff r) v)).ring p r).state = .run ∧
      ((releaseOrder s (.reg p (qctlOff r) v)).ring p r).known = []) ∧
    (field v 0 2 = 2 → (s.ring p r).state = .frozen → QueuesWrite (.qctlResumeSkip p r v) s p (qctlOff r) v ∧
      ((releaseOrder s (.reg p (qctlOff r) v)).ring p r).state = .run ∧
      (∀ t ∈ ((releaseOrder s (.reg p (qctlOff r) v)).ring p r).taken, t.i = (s.ring p r).errIndex.toNat → t.done = true)) ∧
    (field v 0 2 = 3 → ((s.ring p r).state = .run ∨ (s.ring p r).state = .frozen) →
      QueuesWrite (.qctlReset p r v) s p (qctlOff r) v ∧
      ((releaseOrder s (.reg p (qctlOff r) v)).ring p r).state = .resetting) ∧
    (field v 0 2 = 1 → (s.ring p r).state = .run → QueuesReject (.qctlResumeRetry p r v) s p (qctlOff r) v .qreg)

/-! ## Rings (05) -/

/-- 05 R138, R141: a poll that is due reads W slots, and the link leaves L1; with no prefetch room it is put off by a
frame. 05 R138, R139, R143, 01 R19: of the window a poll of an earlier frame returned, the run of slots with the expected
phase and a correct check byte becomes known; an empty poll is counted and puts the next one off by the interval of R139; a
slot with the phase but not the check is fetched once more. 04 Table 4-10: a poisoned window is fetched once more, and the
second time its slot counts as an entry that fails; 05 R144: a ring that no longer runs takes nothing of a window, and of
one it has dropped only the requests end; a parity error on a known entry discards it and those known after it (log entry
60), and no entry already taken. -/
def Obligations.PollsMakeEntriesKnown : Prop :=
  ((∀ s p r, s.clock.phase = .intake → pollDue s p r = true → pollWidth s p r ≠ 0 → Yields (.poll p r) s fun t =>
      (t.ring p r).polling = some (pollWidth s p r, s.clock.frame) ∧ (t.port p).l1 = false ∧ (t.port p).l12 = false ∧
      (t.ring p r).known = (s.ring p r).known ∧ (t.ring p r).taken = (s.ring p r).taken ∧
      (∃ os, t.out = s.out ++ os ∧ os ≠ [] ∧ ∀ o ∈ os, ∃ a n g x, o = .hostRead p a n g x ∧
        ((∀ q ∈ (s.port p).reads, q.tag.isSome = true) → n ≤ 512)) ∧
      (∀ q, q ≠ p → t.port q = s.port q) ∧ t.gate = s.gate ∧ t.root = s.root) ∧
    (∀ s p r, s.clock.phase = .intake → pollDue s p r = true → pollWidth s p r = 0 → Yields (.poll p r) s fun t =>
      t = s.modRing p r fun x => { x with nextPoll := s.clock.frame + 1 }) ∧
    (∀ s p r, pollDue s p r = false → Yields (.poll p r) s fun t => t = s)) ∧
  (∀ s p r w issued es, (s.ring p r).polling = some (w, issued) → observes s = true → issued < obsFrame s →
      readsWait (s.port p) (.poll r) = false →
      ((s.ring p r).state = .run → refetchAt (s.ring p r).taken (s.ring p r).passed = none →
        (goodRun (Ring.depth (s.ring p r)) (Ring.fetchAt (s.ring p r)) (es.take w)).2 = false →
        Yields (.pollData p r es false) s fun t =>
          (t.ring p r).polling = none ∧ (t.ring p r).badCheck = none ∧ (t.ring p r).taken = (s.ring p r).taken ∧
          (t.ring p r).known.map (·.e) = (s.ring p r).known.map (·.e) ++
            (goodRun (Ring.depth (s.ring p r)) (Ring.fetchAt (s.ring p r)) (es.take w)).1 ∧
          ((goodRun (Ring.depth (s.ring p r)) (Ring.fetchAt (s.ring p r)) (es.take w)).1 = [] →
            (t.ring p r).k = (s.ring p r).k + 1 ∧
            (t.ring p r).nextPoll =
              obsFrame s + pollInterval (s.port p) { s.ring p r with k := (s.ring p r).k + 1 }) ∧
          ((goodRun (Ring.depth (s.ring p r)) (Ring.fetchAt (s.ring p r)) (es.take w)).1 ≠ [] →
            (t.ring p r).k = 0 ∧ (t.ring p r).nextPoll = obsFrame s + 1) ∧
          (∀ r', r' ≠ r → t.ring p r' = s.ring p r') ∧ t.gate = s.gate ∧
          ((∀ q ∈ (s.port p).reads, q.tag.isSome = true) → t.out = s.out)) ∧
      ((s.ring p r).state = .run → refetchAt (s.ring p r).taken (s.ring p r).passed = none →
        (goodRun (Ring.depth (s.ring p r)) (Ring.fetchAt (s.ring p r)) (es.take w)).2 = true →
        (goodRun (Ring.depth (s.ring p r)) (Ring.fetchAt (s.ring p r)) (es.take w)).1 = [] →
        (s.ring p r).badCheck ≠ some (Ring.fetchAt (s.ring p r)) →
        Yields (.pollData p r es false) s fun t =>
          (t.ring p r).polling = none ∧ (t.ring p r).known = (s.ring p r).known ∧
          (t.ring p r).badCheck = some (Ring.fetchAt (s.ring p r)) ∧ (t.ring p r).nextPoll = obsFrame s + 1 ∧
          t.gate = s.gate) ∧
      ((s.ring p r).state = .run → (s.ring p r).poisonOnce = false → Yields (.pollData p r es true) s fun t =>
          (t.ring p r).polling = none ∧ (t.ring p r).known = (s.ring p r).known ∧
          (t.ring p r).taken = (s.ring p r).taken ∧ (t.ring p r).poisonOnce = true ∧
          (t.ring p r).nextPoll = obsFrame s + 1 ∧ t.gate = s.gate) ∧
      ((s.ring p r).state = .run → (s.ring p r).poisonOnce = true →
        refetchAt (s.ring p r).taken (s.ring p r).passed = none → Yields (.pollData p r es true) s fun t =>
          (t.ring p r).polling = none ∧ (t.ring p r).poisonOnce = false ∧ (t.ring p r).taken = (s.ring p r).taken ∧
          (t.ring p r).known = (s.ring p r).known ++ [{ e := { dw := [] }, bad := true, aborted := false }] ∧
          t.gate = s.gate) ∧
      ((s.ring p r).state ≠ .run → ∀ poisoned, Yields (.pollData p r es poisoned) s fun t =>
          t.ring p r = { s.ring p r with polling := none } ∧ t.gate = s.gate)) ∧
  (∀ s p r es poisoned, (s.ring p r).polling = none → Yields (.pollData p r es poisoned) s fun t =>
      (strayPoll (s.port p) r = false → t = s) ∧ (∀ r', t.ring p r' = s.ring p r') ∧ t.gate = s.gate ∧
      (∀ q, q ≠ p → t.port q = s.port q) ∧
      (observes s = true → (∀ x ∈ (s.port p).reads, x.tag.isSome = true) → strayPoll (t.port p) r = false)) ∧
  (∀ s p r n h, observes s = true → n < (s.ring p r).known.length → Yields (.portError p (.prefetchParity r n) h) s fun t =>
      (t.ring p r).known = (s.ring p r).known.take n ∧ (t.ring p r).polling = none ∧
      (t.ring p r).taken = (s.ring p r).taken ∧ (t.ring p r).passed = (s.ring p r).passed ∧
      (∀ r', r' ≠ r → t.ring p r' = s.ring p r') ∧ (∀ q, q ≠ p → t.port q = s.port q) ∧ t.out = s.out ∧
      (t.port p).cstate = (s.port p).cstate ∧ t.gate = s.gate)

/-- 05 R140, 02 R46, R48: an entry found by a poll in Drowse becomes known and the wake is planned; 05 R155: a ring's
reset, once its taken entries ended in an earlier frame, returns it to RUN at slot 0 with nothing known or taken, and a
deleted ring to DISABLED. -/
def Obligations.DrowsePollWakesAndResetEmptiesTheRing : Prop :=
  (∀ s p r e, s.clock.phase = .intake → drowsePollDue s p r = true → s.mode.plan = none →
    (goodRun (Ring.depth (s.ring p r)) (Ring.fetchAt (s.ring p r)) [e]).1 = [e] → Ring.held (s.ring p r) < 8 →
    Ring.fetchAt (s.ring p r) - (s.ring p r).passed < Ring.depth (s.ring p r) → Yields (.drowsePoll p r e) s fun t =>
      (t.ring p r).known.map (·.e) = (s.ring p r).known.map (·.e) ++ [e] ∧
      (t.mode.plan.map fun m => (m.kind, m.frame)) = some (.wake, obsFrame s) ∧ t.mode.mode = .drowse) ∧
  (∀ s p r, s.clock.phase = .commit → resetReady (s.ring p r) s.clock.frame = true → (s.ring p r).deleting = false →
    Yields (.ringReset p r) s fun t =>
      (t.ring p r).state = .run ∧ (t.ring p r).passed = 0 ∧ (t.ring p r).known = [] ∧ (t.ring p r).taken = [] ∧
      (t.ring p r).base = (s.ring p r).base ∧ (t.ring p r).cfg = (s.ring p r).cfg) ∧
  (∀ s p r, s.clock.phase = .commit → resetReady (s.ring p r) s.clock.frame = true → (s.ring p r).deleting = true →
    Yields (.ringReset p r) s fun t =>
      (t.ring p r).state = .disabled ∧ (t.ring p r).known = [] ∧ (t.ring p r).taken = [] ∧ (t.ring p r).passed = 0)

/-! ## I/O commands (06 R176 to R181, 01 R20, 08 R236, R237, R254) -/

/-- An I/O command of opcode `op` stands in its Plan-phase visit: its entry `k` waits or reads, its volume `x` is there,
and no rekey step holds a block of it. -/
abbrev Sys2Proof.IoVisit (s : State) (f : Ref) (op : Nat) (k : Taken) (x : Volume) : Prop :=
  s.taken? f = some k ∧ Entry.opcode k.head = op ∧ (k.stage = .waiting ∨ k.stage = .reads) ∧ s.clock.phase = .plan ∧
  anyPlanning s.cx = true ∧ volOf s (Entry.vol k.head) = some x ∧ heldByRekey s k = false

/-- ... and its volume is not stale. -/
abbrev Sys2Proof.IoReady (s : State) (f : Ref) (op : Nat) (k : Taken) (x : Volume) : Prop :=
  IoVisit s f op k x ∧ x.stale = false

/-- The entry's member read of the block at `lbn` has brought `bs`; `fresh` says that no solve made it. -/
abbrev Sys2Proof.Brought (s : State) (k : Taken) (v : VolN) (lbn : Nat) (bs : Bytes) (fresh : Bool) : Prop :=
  newestRec s v lbn = none ∧
  (let q := blockPlace s v lbn
   ∃ it, k.items.find? (fun y => some y.pos == rolePos s q.row (.data q.j) && y.d == areaBlock s q.row q.b && y.data.isSome) =
     some it ∧ it.data = some bs ∧ it.solved = !fresh)

/-- Of the entries taken from any ring only the one `f` names changes. -/
abbrev Sys2Proof.OthersStay (s t : State) (f : Ref) : Prop := ∀ g, g ≠ f → t.taken? g = s.taken? g

/-- 06 R176, 01 R19, 10 R312, R315: a READ whose member reads have brought its blocks decrypts block by block (an
all-zero block stays zero) and waits for its charges; on a sealed volume with its tags in the tag log each block is
checked first, one with counter 0 is zeros, a failed tag of a fresh block is logged and solved around, of a solved one
it fails the READ. 01 R19, 06 R176: a block a READ has nowhere is read from the position that holds it: one member
read is planned and the entry waits for it, and the Dispatch phase sends what its frame has room for. 10 R325 (Table 10-5), 07 R221: a READ or a write whose data in staging fails
its line MAC fails with ECC_UNCORRECTABLE and sends nothing to the journal; a READ whose journal slot fails marks the
unit lost and fails likewise; where the descriptor table fails, the bank is loaded again from its own source, the
table is rebuilt and no order is issued. -/
def Obligations.ReadsGatherAndDecryptTheirBlocks : Prop :=
  ((∀ s p r i k x (g : Nat → Bytes) (ks : Nat → VolKeys) (e : Nat → TagEnt), IoReady s { p := p, r := r, i := i } 1 k x →
      earlierWrite s (Entry.vol k.head) (Entry.lbn k.head) (Entry.nblk k.head) k.ord = false →
      (∀ j, j < Entry.nblk k.head →
        blockKeys s (Entry.vol k.head) (Entry.lbn k.head + j) = some (ks j) ∧
        (x.isSealed = true → tagEntry s (Entry.vol k.head) (Entry.lbn k.head + j) = some (e j)) ∧
        ((x.isSealed = true ∧ (e j).ctr = 0) ∨
         ((∃ fresh, Brought s k (Entry.vol k.head) (Entry.lbn k.head + j) (g j) fresh) ∧
          (x.isSealed = true → blockTag (ks j) (Entry.lbn k.head + j) (e j).ctr (g j) = (e j).tag)))) →
      Yields (.read p r i .clean) s fun t =>
        t.taken? { p := p, r := r, i := i } = some { k with
          stage := .engine (Entry.nblk k.head),
          data := ((List.range (Entry.nblk k.head)).map fun j =>
            if (x.isSealed && (e j).ctr == 0) || (g j).all (· == 0) then zeros blockBytes
            else xtsDec (ks j) (Entry.lbn k.head + j) (g j)).flatten } ∧
        OthersStay s t { p := p, r := r, i := i } ∧ OnlyPorts s t) ∧
    (∀ s p r i k x bs ks e fresh, IoReady s { p := p, r := r, i := i } 1 k x → x.isSealed = true → Entry.nblk k.head = 1 →
      earlierWrite s (Entry.vol k.head) (Entry.lbn k.head) 1 k.ord = false →
      blockKeys s (Entry.vol k.head) (Entry.lbn k.head) = some ks →
      tagEntry s (Entry.vol k.head) (Entry.lbn k.head) = some e → e.ctr ≠ 0 →
      Brought s k (Entry.vol k.head) (Entry.lbn k.head) bs fresh → blockTag ks (Entry.lbn k.head) e.ctr bs ≠ e.tag →
      (∃ y ∈ k.items, y.vol = Entry.vol k.head ∧ y.lbn = Entry.lbn k.head) → Yields (.read p r i .clean) s fun t =>
        t.log.raised.length = s.log.raised.length + 1 ∧ t.jnl = s.jnl ∧
        (fresh = false → t.taken? { p := p, r := r, i := i } = some { k with
          stage := .finished, status := Status.tagMismatch, reply := container (Entry.lbn k.head) }) ∧
        (fresh = true → (t.taken? { p := p, r := r, i := i }).map (·.stage) = some .reads)) ∧
    (∀ s p r i k x op c, IoVisit s { p := p, r := r, i := i } op k x → x.stale = true →
      ((op = 1 ∧ c = .read p r i .clean) ∨ (op = 2 ∧ c = .write p r i false) ∨ (op = 3 ∧ c = .writeThrough p r i false) ∨
        (op = 5 ∧ c = .deallocate p r i ∧ (partOf k x).1 = Entry.lbn k.head) ∨ (op = 6 ∧ c = .verify p r i)) → Yields c s fun t =>
        t.taken? { p := p, r := r, i := i } = some { k with
          stage := .finished, status := Status.treeMismatch, reply := container (Entry.lbn k.head) } ∧
        OthersStay s t { p := p, r := r, i := i } ∧ OnlyPorts s t)) ∧
  (∀ s p r i k x ks pos m, IoReady s { p := p, r := r, i := i } 1 k x → x.isSealed = false → Entry.nblk k.head = 1 →
      earlierWrite s (Entry.vol k.head) (Entry.lbn k.head) 1 k.ord = false →
      newestRec s (Entry.vol k.head) (Entry.lbn k.head) = none → k.items = [] →
      blockKeys s (Entry.vol k.head) (Entry.lbn k.head) = some ks →
      (let q := blockPlace s (Entry.vol k.head) (Entry.lbn k.head)
       rolePos s q.row (.data q.j) = some pos ∧ heldBlock s pos (areaBlock s q.row q.b) = none ∧
       posOut s pos q.row q.b = false ∧ blockLost s q.row pos q.b = false) →
      slotOf s pos = some m → Yields (.read p r i .clean) s fun t =>
        (t.taken? { p := p, r := r, i := i }).map (·.stage) = some .reads ∧ t.out = s.out ∧
        (∃ o, t.morders = s.morders ++ [o] ∧ o.slot = m ∧ o.sent = none ∧ o.held = slotHolds s m ∧
          o.cmd = .read (64 + (areaBlock s (blockPlace s (Entry.vol k.head) (Entry.lbn k.head)).row
            (blockPlace s (Entry.vol k.head) (Entry.lbn k.head)).b)) 1) ∧
        t.gate.orders = s.gate.orders ∧ t.jnl = s.jnl ∧ t.cache = s.cache ∧
        OthersStay s t { p := p, r := r, i := i }) ∧
  (∀ s o, o ∈ s.morders → o.sent = none → o.held = false → slotHolds s o.slot = false →
      (s.morders.filter fun q => q.sent.isNone && !q.held && !slotHolds s q.slot).length ≤ orderRoom s.gate →
      Out.member o.slot o.cmd ∈ (dispatchMembers s).out.drop s.out.length ∧
      { o with sent := some s.clock.frame } ∈ (dispatchMembers s).morders) ∧
  ((∀ s p r i k n c op, s.taken? { p := p, r := r, i := i } = some k → k.stage = .engine n → Entry.opcode k.head = op →
      ((op = 1 ∧ c = .read p r i { ReadView.clean with mac := .staging }) ∨ (op = 2 ∧ c = .write p r i true) ∨
        (op = 3 ∧ c = .writeThrough p r i true)) → Yields c s fun t =>
        t.taken? { p := p, r := r, i := i } = some { k with
          stage := .finished, status := Status.eccUncorrectable, reply := container (Entry.lbn k.head) } ∧
        OthersStay s t { p := p, r := r, i := i } ∧ t.log.raised.length = s.log.raised.length + 1 ∧
        t = { s with portA := t.portA, portB := t.portB, log := t.log }) ∧
    (∀ s p r i k x l rec_ pos, IoReady s { p := p, r := r, i := i } 1 k x →
      earlierWrite s (Entry.vol k.head) (Entry.lbn k.head) (Entry.nblk k.head) k.ord = false →
      Entry.lbn k.head ≤ l → l < Entry.lbn k.head + Entry.nblk k.head →
      newestRec s (Entry.vol k.head) l = some rec_ → rec_.type = .write → s.jnl.lost = [] →
      (∀ e ∈ (s.ring p r).taken, e.i = i → e = k) →
      (let q := blockPlace s (Entry.vol k.head) l
       rolePos s q.row (.data q.j) = some pos →
       Yields (.read p r i { ReadView.clean with mac := .journal l }) s fun t =>
         t.taken? { p := p, r := r, i := i } = some { k with
           stage := .finished, status := Status.eccUncorrectable, reply := container l } ∧
         t.jnl.lost = [{ row := q.row, pos := pos, good := (List.range (arrayU s)).filter (fun b => b != q.b) }] ∧
         t.jnl.mem = s.jnl.mem)) ∧
    (∀ s p r i k x a bank, IoReady s { p := p, r := r, i := i } 1 k x →
      earlierWrite s (Entry.vol k.head) (Entry.lbn k.head) (Entry.nblk k.head) k.ord = false →
      s.array = some a → s.seq.active = some bank →
      Yields (.read p r i { ReadView.clean with tableBad := true }) s fun t =>
        (let prog := if a.layout ≤ 4 then romProgram a.layout else a.prog
         (if bank = true then t.seq.bank1 else t.seq.bank0) = prog ∧
         (if bank = true then t.seq.bank0 = s.seq.bank0 else t.seq.bank1 = s.seq.bank1) ∧
         t.seq.table = buildTable prog a.n) ∧
        t.log.raised.length = s.log.raised.length + 1 ∧ t = { s with seq := t.seq, log := t.log }))

/-- A sealed volume's counters of the blocks an entry covers stand in the tag log. -/
abbrev Sys2Proof.CountersKnown (s : State) (k : Taken) (x : Volume) : Prop :=
  x.isSealed = true → ∀ j, j < (partOf k x).2 → (tagEntry s (Entry.vol k.head) ((partOf k x).1 + j)).isSome = true

/-- Nothing changes but the two ports' state and what the block sends. -/
abbrev Sys2Proof.OnlySends (s t : State) : Prop := t = { s with portA := t.portA, portB := t.portB, out := t.out }

/-- 06 R176, 01 R20, 06 R174: WRITE and WRITE_THROUGH (on a sealed volume once the counters are known) wait for their host data; the data's arrival in
a later frame than its requests (01 R19) sends them to the engine, a parameter block's back to its planning, and poison fails
the command with HOST_POISON; while requests still wait for a tag (04 R110) the entry waits for the rest. -/
def Obligations.WritesTakeTheirDataFromTheHost : Prop :=
  (∀ s p r i k x, IoReady s { p := p, r := r, i := i } 2 k x → CountersKnown s k x → Yields (.write p r i false) s fun t =>
    t.taken? { p := p, r := r, i := i } = some { k with stage := .hostData } ∧
    OthersStay s t { p := p, r := r, i := i } ∧ OnlyPorts s t) ∧
  (∀ s p r i k x, IoReady s { p := p, r := r, i := i } 3 k x → CountersKnown s k x → Yields (.writeThrough p r i false) s fun t =>
    t.taken? { p := p, r := r, i := i } = some { k with stage := .hostData } ∧
    OthersStay s t { p := p, r := r, i := i } ∧ OnlyPorts s t) ∧
  (∀ s p r i k, s.taken? { p := p, r := r, i := i } = some k → readBegun s k = true → (s.port p).cstate = .run →
    (∀ bs, k.stage = .hostData → readsWait (s.port p) (.entry { p := p, r := r, i := i }) = false →
      Yields (.hostDmaReadCompletion p r i (some bs)) s fun t =>
        t.taken? { p := p, r := r, i := i } = some { k with
          data := k.data ++ bs, issued := none,
          stage := if isIoOp (Entry.opcode k.head) then .engine (Entry.nblk k.head) else .exec } ∧
        OthersStay s t { p := p, r := r, i := i } ∧ OnlySends s t) ∧
    (∀ bs, k.stage = .param → readsWait (s.port p) (.entry { p := p, r := r, i := i }) = false →
      Yields (.hostDmaReadCompletion p r i (some bs)) s fun t =>
        t.taken? { p := p, r := r, i := i } = some { k with
          param := some (k.data ++ bs), data := [], issued := none, stage := .waiting } ∧
        OthersStay s t { p := p, r := r, i := i } ∧ OnlySends s t) ∧
    (∀ bs, k.stage = .hostData ∨ k.stage = .param → readsWait (s.port p) (.entry { p := p, r := r, i := i }) = true →
      Yields (.hostDmaReadCompletion p r i (some bs)) s fun t =>
        t.taken? { p := p, r := r, i := i } = some { k with data := k.data ++ bs, issued := some (obsFrame s) } ∧
        OthersStay s t { p := p, r := r, i := i } ∧ OnlySends s t) ∧
    (k.stage = .hostData ∨ k.stage = .param → Yields (.hostDmaReadCompletion p r i none) s fun t =>
        t.taken? { p := p, r := r, i := i } = some { k with
          stage := .finished, status := Status.hostPoison,
          reply := if isIoOp (Entry.opcode k.head) then container (Entry.lbn k.head) else [] } ∧
        OthersStay s t { p := p, r := r, i := i } ∧ OnlySends s t))

/-- 06 R178, 08 R233, R236, R237: an unsealed DEALLOCATE, which needs no charge, and an entry whose wait for room ends go on
to the Dispatch phase of their frame; there a DEALLOCATE with room is one DEALLOC record, planned as a journal commit;
without room it waits, and JNL.full is set. A write's commit
takes the next slots with the ciphertext of its blocks. A sealed DEALLOCATE waits for the engine with the blocks of
its part, once their counters are known. 08 R236, 10 R322, 01 R19, R20: the oldest commit in flight, released in an earlier
frame, becomes durable: its
lines stand in the journal, the next commit number's root is checkpointed, and a WRITE whose records are all durable
succeeds while a WRITE_THROUGH waits for its destage. A failed one leaves the journal's content, spends its number and
fails its command with JOURNAL_MEDIA. -/
def Obligations.JournalTakesRecordsAndLandsCommits : Prop :=
  ((∀ s p r i k x, IoReady s { p := p, r := r, i := i } 5 k x → x.isSealed = false → Yields (.deallocate p r i) s fun t =>
        t.taken? { p := p, r := r, i := i } = some { k with stage := .engine 0 } ∧
        OthersStay s t { p := p, r := r, i := i } ∧ OnlyPorts s t) ∧
    (∀ s p r i k, s.taken? { p := p, r := r, i := i } = some k → k.stage = .room → s.clock.phase = .plan →
      anyPlanning s.cx = true → heldByRekey s k = false → Yields (.journalWaitEnd p r i) s fun t =>
        t.taken? { p := p, r := r, i := i } = some { k with stage := .engine 0 } ∧
        OthersStay s t { p := p, r := r, i := i } ∧ OnlyPorts s t) ∧
    (∀ s f k x, s.taken? f = some k → Entry.opcode k.head = 5 → volOf s (Entry.vol k.head) = some x → x.isSealed = false →
      (writeRoom s 0 0 = true → roomAhead s f k.ord = false → ∃ t, t = engineDone s f ∧
        t.taken? f = some { k with stage := .journal, committed := true, seqs := k.seqs ++ [s.jnl.nextSeq] } ∧
        (∃ c, t.jnl.recs = s.jnl.recs ++ [c] ∧ c.seq = s.jnl.nextSeq ∧ c.type = .dealloc ∧ c.vol = Entry.vol k.head ∧
          c.at_ = Entry.lbn k.head ∧ c.count = Entry.count k.head ∧ c.isSealed = false ∧ c.durable = false ∧
          c.frame = s.clock.frame ∧
          t.gate.orders = s.gate.orders ++
            [.journal { writes := intentWrites c, owner := .entry f, frame := s.clock.frame }]) ∧
        t.jnl.nextSeq = s.jnl.nextSeq + 1 ∧ t.jnl.mem = s.jnl.mem ∧ t.jnl.wcUsed = s.jnl.wcUsed ∧ t.root = s.root ∧
        OthersStay s t f) ∧
      (writeRoom s 0 0 = false ∨ roomAhead s f k.ord = true → ∃ t, t = engineDone s f ∧
        t.taken? f = some { k with stage := .room } ∧ t.jnl.full = true ∧
        t.jnl.recs = s.jnl.recs ∧ t.gate.orders = s.gate.orders)) ∧
    (∀ s f k x op (ks : Nat → VolKeys), s.taken? f = some k → Entry.opcode k.head = op → (op = 2 ∨ op = 3) →
      volOf s (Entry.vol k.head) = some x → x.isSealed = false →
      writeRoom s (ioCount k.head) 0 = true → roomAhead s f k.ord = false →
      (∀ j, j < ioCount k.head → blockKeys s (Entry.vol k.head) (Entry.lbn k.head + j) = some (ks j)) →
      ∃ t, t = engineDone s f ∧
        t.taken? f = some { k with stage := .journal, committed := true, seqs := k.seqs ++ [s.jnl.nextSeq] } ∧
        t.jnl.wcUsed = s.jnl.wcUsed + ioCount k.head ∧ t.jnl.mem = s.jnl.mem ∧ t.root = s.root ∧
        (∃ c, t.jnl.recs = s.jnl.recs ++ [c] ∧ c.seq = s.jnl.nextSeq ∧ c.type = .write ∧ c.vol = Entry.vol k.head ∧
          c.at_ = Entry.lbn k.head ∧ c.count = ioCount k.head ∧ c.slot = s.jnl.wcHead ∧ c.through = (op == 3) ∧
          c.durable = false ∧
          t.gate.orders = s.gate.orders ++ [.journal {
            writes := slotWrites s.jnl.wcHead ((List.range (ioCount k.head)).map fun j =>
                xtsEnc (ks j) (Entry.lbn k.head + j) ((chunks blockBytes (ioCount k.head + 1) k.data).getD j [])) ++
              intentWrites c,
            owner := .entry f, frame := s.clock.frame }])) ∧
    (∀ s p r i k x, IoReady s { p := p, r := r, i := i } 5 k x → x.isSealed = true → CountersKnown s k x →
      0 < (partOf k x).2 → Yields (.deallocate p r i) s fun t =>
        t.taken? { p := p, r := r, i := i } = some { k with stage := .engine (partOf k x).2 } ∧
        OthersStay s t { p := p, r := r, i := i } ∧ OnlyPorts s t)) ∧
  ((∀ s c rest, s.jnl.inflight = c :: rest → c.answered s = true → Yields .journalDurable s fun t =>
      t.jnl.inflight = rest ∧ t.jnl.mem = c.writes.foldl (fun m w => Memory.write m w.1 w.2) s.jnl.mem ∧
      t.jnl.commitNo = s.jnl.commitNo + 1) ∧
    (∀ s c rest, s.jnl.inflight = c :: rest → c.answered s = true → c.owner = .none → Yields .journalDurable s fun t =>
      t.jnl.inflight = rest ∧ t.jnl.mem = c.writes.foldl (fun m w => Memory.write m w.1 w.2) s.jnl.mem ∧
      t.jnl.commitNo = s.jnl.commitNo + 1 ∧
      t.root = Memory.write s.root (0x40 + 16 * ((s.jnl.commitNo + 1) % 64))
        (leBytes 8 (s.jnl.commitNo + 1) ++ journalRoot s.fuse t.jnl.rootCtr.toList (s.jnl.commitNo + 1) ++ [0]) ∧
      t = { s with jnl := t.jnl, root := t.root }) ∧
    (∀ s c rest f k op, s.jnl.inflight = c :: rest → c.answered s = true → c.owner = .entry f → s.taken? f = some k → k.stage = .journal →
      Entry.opcode k.head = op → (op = 2 ∨ op = 3) →
      (∀ q ∈ s.jnl.recs, q.seq ∈ k.seqs → q.durable = true ∨
        c.writes.any (fun w => w.1 == intentA + 64 * (q.seq % recCount)) = true) →
      Yields .journalDurable s fun t =>
        t.taken? f = some (if op = 2 then { k with stage := .finished, status := Status.success, reply := [] }
          else { k with stage := .destage }) ∧
        t.jnl.inflight = rest ∧ t.jnl.mem = c.writes.foldl (fun m w => Memory.write m w.1 w.2) s.jnl.mem) ∧
    (∀ s c rest f k, s.jnl.inflight = c :: rest → c.answered s = true → c.owner = .entry f → s.taken? f = some k →
      k.stage = .journal → isIoOp (Entry.opcode k.head) = true → Yields .journalWriteFailed s fun t =>
        t.taken? f = some { k with
          stage := .finished, status := Status.journalMedia, reply := container (Entry.lbn k.head) } ∧
        t.jnl.inflight = rest ∧ t.jnl.mem = s.jnl.mem ∧ t.root = s.root ∧ t.jnl.commitNo = s.jnl.commitNo + 1 ∧
        t.log.raised.length = s.log.raised.length + 1))

/-- 06 R177, 08 R254: a FLUSH waits while a write to one of its volumes, taken before it, is still to be committed; then it
covers the unretired records its volumes have from entries taken before it; with none of them it succeeds at once where no
block of its volumes is lost, and fails with LOST_UNIT and that block where one is, else it waits for their retirement. -/
def Obligations.FlushWaitsForTheRecordsItCovers : Prop :=
  ∀ s p r i k, s.taken? { p := p, r := r, i := i } = some k → Entry.opcode k.head = 4 → planned s k = true →
    (flushAhead s k = true → Yields (.flush p r i) s fun t => t = s) ∧
    ((Entry.all k.head = false → ∀ x, volOf s (Entry.vol k.head) = some x → x.stale = false) → flushAhead s k = false →
     (let seqs := (s.jnl.recs.filter fun q => q.names && k.vols.contains q.vol &&
         !(laterSeqs s k.ord).contains q.seq).map (·.seq)
      (seqs = [] → flushLost s k = none → Yields (.flush p r i) s fun t =>
         t.taken? { p := p, r := r, i := i } = some { k with
           stage := .finished, status := Status.success, reply := [], seqs := [] } ∧
         OthersStay s t { p := p, r := r, i := i } ∧
         (s.eng.rekey.running = false ∨ k.vols.contains s.eng.rekey.vol = false → OnlyPorts s t)) ∧
      (∀ l, seqs = [] → flushLost s k = some l → Yields (.flush p r i) s fun t =>
         t.taken? { p := p, r := r, i := i } = some { k with
           stage := .finished, status := Status.lostUnit, reply := container l, seqs := [] } ∧
         OthersStay s t { p := p, r := r, i := i } ∧ OnlyPorts s t) ∧
      (seqs ≠ [] → Yields (.flush p r i) s fun t =>
         t.taken? { p := p, r := r, i := i } = some { k with stage := .destage, seqs := seqs } ∧
         OthersStay s t { p := p, r := r, i := i } ∧ OnlyPorts s t)))

/-- 06 R179: a VERIFY that has read every position of its rows at every block position (it has nothing more to ask for), and on a sealed volume found the tags right, goes to the
engine where the parity agrees, and fails with PARITY_MISMATCH at the first block where it differs; a block whose tag is
wrong fails it with TAG_MISMATCH; nothing is repaired or transferred. -/
def Obligations.VerifyComparesTheParityOfItsRows : Prop :=
  (∀ s p r i k x, IoReady s { p := p, r := r, i := i } 6 k x →
    (x.isSealed = true → ∀ j, j < Entry.nblk k.head →
      ∃ e, tagEntry s (Entry.vol k.head) (Entry.lbn k.head + j) = some e ∧ (e.ctr = 0 ∨ ∃ bs ks fresh,
        Brought s k (Entry.vol k.head) (Entry.lbn k.head + j) bs fresh ∧
        blockKeys s (Entry.vol k.head) (Entry.lbn k.head + j) = some ks ∧
        blockTag ks (Entry.lbn k.head + j) e.ctr bs = e.tag)) →
    earlierWrite s (Entry.vol k.head) (Entry.lbn k.head) (Entry.nblk k.head) k.ord = false →
    (∀ it ∈ k.items, it.data.isSome = true) →
    (∀ j, j < Entry.nblk k.head →
      let q := blockPlace s (Entry.vol k.head) (Entry.lbn k.head + j)
      ∀ pos, rolePos s q.row (.data q.j) = some pos → blockLost s q.row pos q.b = false) →
    (k.items ≠ [] ∨ rowsShift s (Entry.vol k.head) ((List.range (Entry.nblk k.head)).map (Entry.lbn k.head + ·)) = false) →
    verifyAsk s { p := p, r := r, i := i } (Entry.vol k.head) ((List.range (Entry.nblk k.head)).map (Entry.lbn k.head + ·)) = s →
    Yields (.verify p r i) s fun t =>
      t.taken? { p := p, r := r, i := i } = some (
        match ((List.range (Entry.nblk k.head)).map (Entry.lbn k.head + ·)).find? fun l =>
            parityDiffers s k (Entry.vol k.head) l with
        | some l => { k with stage := .finished, status := Status.parityMismatch, reply := container l }
        | none => { k with stage := .engine (Entry.nblk k.head) }) ∧
      OthersStay s t { p := p, r := r, i := i } ∧ OnlyPorts s t) ∧
  (∀ s p r i k x e bs ks fresh, IoReady s { p := p, r := r, i := i } 6 k x → x.isSealed = true → Entry.nblk k.head = 1 →
    earlierWrite s (Entry.vol k.head) (Entry.lbn k.head) 1 k.ord = false →
    (let q := blockPlace s (Entry.vol k.head) (Entry.lbn k.head)
     ∀ pos, rolePos s q.row (.data q.j) = some pos → blockLost s q.row pos q.b = false) →
    verifyAsk s { p := p, r := r, i := i } (Entry.vol k.head) [Entry.lbn k.head] = s →
    tagEntry s (Entry.vol k.head) (Entry.lbn k.head) = some e → e.ctr ≠ 0 →
    Brought s k (Entry.vol k.head) (Entry.lbn k.head) bs fresh → blockKeys s (Entry.vol k.head) (Entry.lbn k.head) = some ks →
    blockTag ks (Entry.lbn k.head) e.ctr bs ≠ e.tag → Yields (.verify p r i) s fun t =>
      t.taken? { p := p, r := r, i := i } = some { k with
        stage := .finished, status := Status.tagMismatch, reply := container (Entry.lbn k.head) } ∧
      t.log.raised.length = s.log.raised.length + 1 ∧ t.jnl = s.jnl)

/-! ## Management commands (06 R182 to R194, 05 R153 to R157, 04 R124) -/

/-- A management command of opcode `op` stands in its Plan-phase visit: its entry `k` waits at slot `i` of ring 0, and none
taken before it in its frame contends with it (01 R26). -/
abbrev Sys2Proof.AtVisit (s : State) (p : Port) (i op : Nat) (k : Taken) : Prop :=
  s.taken? { p := p, r := 0, i := i } = some k ∧ Entry.opcode k.head = op ∧ k.stage = .waiting ∧ s.clock.phase = .plan ∧
  anyPlanning s.cx = true ∧ inTurn s k = true

/-- The entry has ended with a status and reply data. -/
abbrev Sys2Proof.EndsWith (t : State) (p : Port) (i : Nat) (k : Taken) (st : Status) (reply : Bytes) : Prop :=
  t.taken? { p := p, r := 0, i := i } = some { k with stage := .finished, status := st, reply := reply }

/-- The command ends with a status and reply data, and changes nothing but its entry. -/
abbrev Sys2Proof.Answers (c : Instr) (s : State) (p : Port) (i : Nat) (k : Taken) (st : Status) (reply : Bytes) : Prop :=
  Yields c s fun t => EndsWith t p i k st reply ∧ OthersStay s t { p := p, r := 0, i := i } ∧ OnlyPorts s t

/-- The command's effect is planned: its entry waits for the commit point of the frame, where the order `a` acts (01 R18);
until then nothing else changes. -/
abbrev Sys2Proof.PlansAct (c : Instr) (s : State) (p : Port) (i : Nat) (k : Taken) (a : CommitAct) : Prop :=
  Yields c s fun t => t.taken? { p := p, r := 0, i := i } = some { k with stage := .commit } ∧
    OthersStay s t { p := p, r := 0, i := i } ∧
    t = { s with portA := t.portA, portB := t.portB,
                 gate := { s.gate with tags := t.gate.tags, orders := s.gate.orders ++ [.act { p := p, r := 0, i := i } a] } }

/-- A planned effect meets its commit point: its entry `k` waits for it, and `t` is the state after the order's release. -/
abbrev Sys2Proof.ActsOn (s t : State) (p : Port) (i : Nat) (k : Taken) (a : CommitAct) : Prop :=
  s.taken? { p := p, r := 0, i := i } = some k ∧ k.stage = .commit ∧ t = releaseOrder s (.act { p := p, r := 0, i := i } a)

/-- 06 Tables 6-5 and 6-6, R183: IDENTIFY, STATUS and LOG_READ reply from the state and change nothing else; IDENTIFY's
data is 256 bytes and STATUS's 32, and LOG_READ refuses a count of 0 or above 32. -/
def Obligations.QueriesReplyFromTheState : Prop :=
  (∀ s p i k, AtVisit s p i 0x10 k → Answers (.identify p i) s p i k Status.success (identifyData s p)) ∧
  (∀ s p, (identifyData s p).length = 256 ∧ slice (identifyData s p) 0 4 = leBytes 2 0x1D9B ++ leBytes 2 0x0636 ∧
    slice (identifyData s p) 12 4 = leBytes 4 (rollback s) ∧
    slice (identifyData s p) 24 8 = container (match s.array with | some _ => arrayCapacity s | none => 0)) ∧
  (∀ s p i k, AtVisit s p i 0x11 k → Answers (.status p i) s p i k Status.success (statusData s p)) ∧
  (∀ s p, (statusData s p).length = 32 ∧ slice (statusData s p) 0 4 = dwBytes (modeStat s.mode s.fuse) ∧
    slice (statusData s p) 8 8 = container s.clock.frame) ∧
  (∀ s p i k, AtVisit s p i 0x12 k →
    (field (Entry.arg k.head) 0 6 = 0 ∨ 32 < field (Entry.arg k.head) 0 6) →
    Answers (.logRead p i) s p i k Status.badField []) ∧
  (∀ s p i k, AtVisit s p i 0x12 k → 1 ≤ field (Entry.arg k.head) 0 6 → field (Entry.arg k.head) 0 6 ≤ 32 →
    (Entry.a k.head 2).getLsbD 0 = false →
    1 ≤ s.log.next → s.log.next ≤ (Entry.a k.head 0).toNat + field (Entry.a k.head 1) 0 4 * 2 ^ 32 →
    Answers (.logRead p i) s p i k Status.success
      (leBytes 4 0 ++ leBytes 4 0 ++ container ((Entry.a k.head 0).toNat + field (Entry.a k.head 1) 0 4 * 2 ^ 32)))

/-- 06 R182, 05 R132, R133, 01 R18: QUEUE_CTL creates a ring in state RUN on a disabled ring of its port, or changes the
configuration of an enabled one, at the commit point of the frame that plans it; ring 0 is BAD_FIELD and the wrong state
BAD_RING. 06 R182, 05 R153 to R155: delete, resume-retry, resume-skip and reset act there on a ring whose state allows them,
and fail with RING_STATE on one whose state does not. -/
def Obligations.QueueControlActsOnTheNamedRing : Prop :=
  ((∀ s p i k, AtVisit s p i 0x13 k → Entry.subop k.head = 1 →
      let r := ringArg k.head
      let base := (Entry.a k.head 0).toNat + (Entry.a k.head 1).toNat * 2 ^ 32
      let cfg := Entry.a k.head 2
      (r = 0 → Answers (.queueCtlCreate p i) s p i k Status.badField []) ∧
      (r ≠ 0 → (s.ring p r).state ≠ .disabled → Answers (.queueCtlCreate p i) s p i k Status.badRing []) ∧
      (r ≠ 0 → (s.ring p r).state = .disabled → qcfgOk cfg = true → baseOk base cfg = true →
        PlansAct (.queueCtlCreate p i) s p i k (.queueCreate r base cfg (Entry.a k.head 3)))) ∧
    (∀ s p i k, AtVisit s p i 0x13 k → Entry.subop k.head = 2 →
      let r := ringArg k.head
      let cfg := Entry.a k.head 2
      (r ≠ 0 → (s.ring p r).state = .disabled → Answers (.queueCtlModify p i) s p i k Status.badRing []) ∧
      (r ≠ 0 → (s.ring p r).state ≠ .disabled → qcfgOk cfg = true → field cfg 1 4 = Ring.dcode (s.ring p r) →
        PlansAct (.queueCtlModify p i) s p i k (.queueModify r cfg (Entry.a k.head 3))))) ∧
  (∀ s p i k, AtVisit s p i 0x13 k → ringArg k.head ≠ 0 →
      let r := ringArg k.head
      (Entry.subop k.head = 3 → ((s.ring p r).state = .run ∨ (s.ring p r).state = .frozen) →
        PlansAct (.queueCtlDelete p i) s p i k (.queueOp r 3 true)) ∧
      (Entry.subop k.head = 6 → ((s.ring p r).state = .run ∨ (s.ring p r).state = .frozen) →
        PlansAct (.queueCtlReset p i) s p i k (.queueOp r 3 false)) ∧
      (Entry.subop k.head = 4 → (s.ring p r).state = .frozen →
        PlansAct (.queueCtlResumeRetry p i) s p i k (.queueOp r 1 false)) ∧
      (Entry.subop k.head = 5 → (s.ring p r).state = .frozen →
        PlansAct (.queueCtlResumeSkip p i) s p i k (.queueOp r 2 false)) ∧
      (Entry.subop k.head = 5 → (s.ring p r).state = .run → Answers (.queueCtlResumeSkip p i) s p i k Status.ringState []) ∧
      (Entry.subop k.head = 3 → (s.ring p r).state = .resetting →
        Answers (.queueCtlDelete p i) s p i k Status.ringState [])) ∧
  (∀ s t p i k (r : RingN) (base : Nat) (cfg poll : W32), r ≠ 0 → ActsOn s t p i k (.queueCreate r base cfg poll) →
      ((s.ring p r).state = .disabled → EndsWith t p i k Status.success [] ∧
        t.ring p r = { Ring.init with state := .run, base := BitVec.ofNat 64 base, cfg := cfg ||| 1, poll := poll,
                                      nextPoll := s.clock.frame + 1 } ∧
        (∀ r', r' ≠ r → r' ≠ 0 → t.ring p r' = s.ring p r') ∧ OnlyPorts s t) ∧
      ((s.ring p r).state ≠ .disabled → EndsWith t p i k Status.badRing [] ∧ OnlyPorts s t)) ∧
  (∀ s t p i k (r : RingN) (cfg poll : W32), r ≠ 0 → ActsOn s t p i k (.queueModify r cfg poll) →
      (s.ring p r).state ≠ .disabled → EndsWith t p i k Status.success [] ∧
        t.ring p r = { s.ring p r with cfg := cfg ||| 1, poll := poll } ∧
        (∀ r', r' ≠ r → r' ≠ 0 → t.ring p r' = s.ring p r') ∧ OnlyPorts s t) ∧
  (∀ s t p i k (r : RingN) (op : Nat) (delete : Bool), r ≠ 0 → ActsOn s t p i k (.queueOp r op delete) →
      (op = 3 → ((s.ring p r).state = .run ∨ (s.ring p r).state = .frozen) →
        EndsWith t p i k Status.success [] ∧ OnlyPorts s t ∧
        t.ring p r = { s.ring p r with state := .resetting, known := [], polling := none, deleting := delete,
                                       taken := (s.ring p r).taken.map (resetTaken (s.ring p r)) }) ∧
      ((op = 1 ∨ op = 2) → (s.ring p r).state = .frozen →
        EndsWith t p i k Status.success [] ∧ OnlyPorts s t ∧
        (t.ring p r).state = .run ∧ (t.ring p r).known = [] ∧ (t.ring p r).passed = (s.ring p r).passed ∧
        (t.ring p r).taken = (s.ring p r).taken.filterMap (resumeTaken (s.ring p r) op)) ∧
      ((op = 1 ∨ op = 2) → (s.ring p r).state = .run →
        EndsWith t p i k Status.ringState [] ∧ t.ring p r = s.ring p r ∧ OnlyPorts s t))

/-- 05 R156, R157, 01 R18: ABORT ends with ABORTED, at the commit point of the frame that plans it, the entries it names
that have no order committed, and counts the others as late; an aborted known command is done and its slots are kept so that
no later fetch runs it; the reply counts both and says whether no entry had the tag. -/
def Obligations.AbortEndsEntriesWithoutCommittedOrders : Prop :=
  (∀ s p i k, AtVisit s p i 0x14 k →
    let r := sixtyFour (field (Entry.arg k.head) 0 6)
    (r = 0 → Answers (.abort p i) s p i k Status.badField []) ∧
    (r ≠ 0 → (s.ring p r).state = .disabled → Answers (.abort p i) s p i k Status.badRing []) ∧
    (r ≠ 0 → (s.ring p r).state ≠ .disabled → PlansAct (.abort p i) s p i k
      (.abort r ((Entry.arg k.head).getLsbD 8) ((Entry.a k.head 0).extractLsb' 0 16)))) ∧
  (∀ s t p i k (r : RingN) (all : Bool) (tag : BitVec 16), r ≠ 0 → ActsOn s t p i k (.abort r all tag) →
      (t.ring p r).taken = (s.ring p r).taken.map (abortTaken (s.ring p r) tag all) ∧
      (t.ring p r).known.map (·.e) = (s.ring p r).known.map (·.e) ∧
      (∀ c ∈ abortsKnown (s.ring p r) tag all, c.1 ∈ (t.ring p r).gone) ∧
      (∀ e ∈ (s.ring p r).taken, e.committed = true → (abortTaken (s.ring p r) tag all e) = e) ∧
      (∀ e ∈ (s.ring p r).taken, e.committed = false → e.done = false → e.stage ≠ .finished →
        (all = true ∨ Entry.tag e.head = tag) → (s.ring p r).state = .run →
        (abortTaken (s.ring p r) tag all e).stage = .finished ∧
        (abortTaken (s.ring p r) tag all e).status = Status.aborted) ∧
      (let count := fun f : AbortFate => (((s.ring p r).taken.map (abortFate (s.ring p r) tag all)).filter (· == f)).length
       let ended := count .aborted + (abortsKnown (s.ring p r) tag all).length
       EndsWith t p i k Status.success (leBytes 4 ended ++ leBytes 4 (count .late) ++
         leBytes 4 (bit (!all && ended + count .late == 0)) ++ zeros 4)) ∧
      (∀ r', r' ≠ r → r' ≠ 0 → t.ring p r' = s.ring p r') ∧ t.gate = s.gate ∧ t.jnl = s.jnl ∧
      (abortsKnown (s.ring p r) tag all = [] → t.out = s.out))

/-- 06 R192 to R194, 12 R384, 02 R57: BUF_ALLOC and BUF_FREE take effect through a PREP that reserves the lowest free
buffer or marks the caller's own as pending, and an EXEC that hands it over or frees it with the next generation; an allocation with no free buffer waits
where engines of lower rank can give theirs (02 R57, R62), and is planned again when one is free. 06
R193: a handle is checked in order: its reserved bits and index, its port, its generation; a failure past the first
step is counted in the caller's misuse count and logged. 06 R194: BUF_COPY moves bytes between a buffer the port holds
and host memory: to the host at the commit point, from the host once its data has arrived; no other byte of the
staging region changes. -/
def Obligations.BuffersPassThroughTheGateToTheirHolder : Prop :=
  ((∀ s p i k n l, AtVisit s p i 0x18 k → portBufs s.staging p < stgLimit s p → freeIdx s = n :: l →
      hostWaits s < (freeIdx s).length → Yields (.bufAlloc p i) s fun t =>
        (t.taken? { p := p, r := 0, i := i }).map (·.stage) = some .exec ∧
        (bufOf t n).map (·.owner) = some (.taken p) ∧
        t.gate.priv = s.gate.priv ++ [{ act := .bufAlloc { p := p, r := 0, i := i } n, frame := s.clock.frame,
                                        epoch := s.cx.epoch, cx := s.cx.holder, orphan := false }] ∧
        (∀ m, m ≠ n → bufOf t m = bufOf s m) ∧ t.staging.mem = s.staging.mem) ∧
    (∀ s p i k, AtVisit s p i 0x18 k → stgLimit s p ≤ portBufs s.staging p →
      Answers (.bufAlloc p i) s p i k Status.noBuffer []) ∧
    (∀ s p i k, AtVisit s p i 0x18 k → portBufs s.staging p < stgLimit s p → (freeIdx s).length ≤ hostWaits s →
      (hostReach s ≤ hostWaits s → Answers (.bufAlloc p i) s p i k Status.noBuffer []) ∧
      (hostWaits s < hostReach s → Yields (.bufAlloc p i) s fun t =>
        t.taken? { p := p, r := 0, i := i } = some { k with stage := .reclaim } ∧ t.staging = s.staging ∧
        t.gate = s.gate)) ∧
    (∀ s p i k n l, s.taken? { p := p, r := 0, i := i } = some k → k.stage = .reclaim → s.clock.phase = .plan →
      anyPlanning s.cx = true → portBufs s.staging p < stgLimit s p → freeIdx s = n :: l →
      ring0At s (fun u => u.stage == .reclaim && decide (u.ord < k.ord)) < (freeIdx s).length →
      Yields (.bufferReclaimAlloc p i) s fun t =>
        (t.taken? { p := p, r := 0, i := i }).map (·.stage) = some .exec ∧ (bufOf t n).map (·.owner) = some (.taken p) ∧
        t.gate.priv.length = s.gate.priv.length + 1) ∧
    (∀ s p i k b, AtVisit s p i 0x19 k → handleCheck s p (Entry.a k.head 0) = Status.success →
      bufInUse s p (Entry.a k.head 0) k.ord = false → bufOf s (handleIndex (Entry.a k.head 0)) = some b →
      Yields (.bufFree p i) s fun t =>
        (t.taken? { p := p, r := 0, i := i }).map (·.stage) = some .exec ∧
        bufOf t (handleIndex (Entry.a k.head 0)) = some { b with owner := .freeing p } ∧
        t.gate.priv.length = s.gate.priv.length + 1) ∧
    (∀ s n b, bufOf s n = some b → bufOf (privExec s (.engineFree .scrub [n])) n = some { owner := .free, gen := b.gen + 1 }) ∧
    (∀ s p i k n b, bufOf s n = some b → s.taken? { p := p, r := 0, i := i } = some k → k.stage = .exec →
      bufOf (privExec s (.bufFree { p := p, r := 0, i := i } n)) n = some { owner := .free, gen := b.gen + 1 } ∧
      EndsWith (privExec s (.bufFree { p := p, r := 0, i := i } n)) p i k Status.success [] ∧
      bufOf (privExec s (.bufAlloc { p := p, r := 0, i := i } n)) n = some { b with owner := .held p } ∧
      EndsWith (privExec s (.bufAlloc { p := p, r := 0, i := i } n)) p i k Status.success
        (dwBytes (handleOf n b.gen p) ++ zeros 4))) ∧
  ((∀ s p (h : W32), (handleRest h ≠ 0 ∨ handleIndex h < 128) → handleCheck s p h = Status.badField) ∧
    (∀ s p (h : W32), handleRest h = 0 → 128 ≤ handleIndex h → handlePort h ≠ p → handleCheck s p h = Status.bufNotOwner) ∧
    (∀ s p (h : W32) b, handleRest h = 0 → 128 ≤ handleIndex h → handlePort h = p → bufOf s (handleIndex h) = some b →
      (b.gen ≠ handleGen h → handleCheck s p h = Status.bufStale) ∧
      (b.gen = handleGen h → b.owner = .held p → handleCheck s p h = Status.success) ∧
      (b.gen = handleGen h → b.owner = .free → handleCheck s p h = Status.bufStale)) ∧
    (∀ s p i k, AtVisit s p i 0x19 k →
      (let st := handleCheck s p (Entry.a k.head 0)
       (st = Status.bufStale ∨ st = Status.bufNotOwner) → Yields (.bufFree p i) s fun t =>
          EndsWith t p i k st [] ∧ (t.port p).misuse = satInc (s.port p).misuse ∧
          t.log.raised.length = s.log.raised.length + 1 ∧ t.staging = s.staging ∧ t.gate = s.gate))) ∧
  ((∀ s p i k, AtVisit s p i 0x1A k → (Entry.arg k.head).getLsbD 0 = true → copyCheck k.head = Status.success →
      handleCheck s p (Entry.a k.head 0) = Status.success → Yields (.bufCopyBufferToHost p i) s fun t =>
        EndsWith t p i k Status.success [] ∧
        t.gate.orders = s.gate.orders ++ [.host p {
          kind := .data, addr := copyAddr k.head, data := Memory.read s.staging.mem
            (bufAddr (handleIndex (Entry.a k.head 0)) (Entry.a k.head 1).toNat) (Entry.a k.head 2).toNat }] ∧
        t.staging = s.staging) ∧
    (∀ s p i k, AtVisit s p i 0x1A k → (Entry.arg k.head).getLsbD 0 = false → copyCheck k.head = Status.success →
      handleCheck s p (Entry.a k.head 0) = Status.success → Yields (.bufCopyHostToBuffer p i) s fun t =>
        t.taken? { p := p, r := 0, i := i } = some { k with stage := .hostData } ∧ OnlyPorts s t) ∧
    (∀ s p i k, s.taken? { p := p, r := 0, i := i } = some k → Entry.opcode k.head = 0x1A → k.stage = .exec →
      s.clock.phase = .plan → (Entry.arg k.head).getLsbD 0 = false → k.data.length = (Entry.a k.head 2).toNat →
      Yields (.bufCopyHostToBuffer p i) s fun t =>
        EndsWith t p i k Status.success [] ∧ t.staging.bufs = s.staging.bufs ∧
        (let at_ := bufAddr (handleIndex (Entry.a k.head 0)) (Entry.a k.head 1).toNat
         t.staging.mem = Memory.write s.staging.mem at_ k.data ∧
         (Memory.wf s.staging.mem = true → Memory.read t.staging.mem at_ k.data.length = k.data ∧
           ∀ a, (a < at_ ∨ at_ + k.data.length ≤ a) → Memory.get t.staging.mem a = Memory.get s.staging.mem a)) ∧
        t.gate = s.gate))

/-- 08 R250 to R253, 01 R18: the CACHE_MAINT subops clean by waiting for the retirement of records, drop unlocked lines at
a commit point and wait for locked ones, discard prefetched entries at the next Intake, and set a class mask at a commit
point for the frames after it. 08 R248: a way's fourth uncorrectable error since Start retires it, at a commit point, unless
more than 8 are retired in the session already. 08 R247, Table 8-4: a corrected error of the stripe cache is counted; a sector beyond correction is taken from the
journal where it holds the block and else leaves its line, is counted, and counts against its way; a line whose tag fails is
dropped and counted (log 62). A lookup meets them: here a READ's. -/
def Obligations.CacheMaintenanceAndErrors : Prop :=
  ((∀ s p i k, AtVisit s p i 0x1B k →
      (let e := k.head
       let lo := volBase s (maintVol e) + maintLbn e
       (Entry.subop e = 1 → rangeCheck s e = Status.success → recsIn s lo (lo + maintCount e) = [] →
         Yields (.cacheMaintCleanRange p i) s fun t =>
           (t.taken? { p := p, r := 0, i := i }).map (fun x => (x.stage, x.status)) = some (.finished, Status.success) ∧
           t.cache = s.cache) ∧
       (Entry.subop e = 1 → rangeCheck s e = Status.success → recsIn s lo (lo + maintCount e) ≠ [] →
         Yields (.cacheMaintCleanRange p i) s fun t =>
           t.taken? { p := p, r := 0, i := i } = some { k with stage := .destage, seqs := recsIn s lo (lo + maintCount e) } ∧
           OnlyPorts s t) ∧
       (Entry.subop e = 2 → rangeCheck s e = Status.success → PlansAct (.cacheMaintInvalidateRange p i) s p i k .invalidate) ∧
       (Entry.subop e = 3 → rangeCheck s e = Status.success → recsIn s lo (lo + maintCount e) = [] →
         Yields (.cacheMaintCleanInvalidateRange p i) s fun t =>
           t.taken? { p := p, r := 0, i := i } = some { k with stage := .commit, seqs := [] } ∧
           t.gate.orders = s.gate.orders ++ [.act { p := p, r := 0, i := i } .invalidate] ∧ t.cache = s.cache) ∧
       (Entry.subop e = 3 → rangeCheck s e = Status.success → recsIn s lo (lo + maintCount e) ≠ [] →
         Yields (.cacheMaintCleanInvalidateRange p i) s fun t =>
           t.taken? { p := p, r := 0, i := i } = some { k with stage := .destage, seqs := recsIn s lo (lo + maintCount e) } ∧
           OnlyPorts s t) ∧
       (Entry.subop e = 4 → (∀ x ∈ s.cache.lines, x.sd = 0) → Yields (.cacheMaintCleanSetWay p i) s fun t =>
           (t.taken? { p := p, r := 0, i := i }).map (fun x => (x.stage, x.status)) = some (.finished, Status.success) ∧
           t.cache = s.cache) ∧
       (Entry.subop e = 5 → PlansAct (.cacheMaintInvalidateSetWay p i) s p i k .invalidate) ∧
       (Entry.subop e = 6 → Yields (.cacheMaintInvalidatePrefetch p i) s fun t =>
           t.taken? { p := p, r := 0, i := i } = some { k with stage := .exec, frame := s.clock.frame } ∧ OnlyPorts s t) ∧
       (∀ c : ClassN, Entry.subop e = 7 → field (Entry.a e 0) 0 3 = c.val →
         PlansAct (.cacheMaintSetMask p i) s p i k (.setMask c ((Entry.a e 1).extractLsb' 0 16))) ∧
       (Entry.subop e = 7 → 6 ≤ field (Entry.a e 0) 0 3 →
         Answers (.cacheMaintSetMask p i) s p i k Status.badField []))) ∧
    (∀ s (w : Fin 16), s.clock.phase = .commit → s.clock.cancelled = false → s.cache.wayRet.getLsbD w.val = false →
      sessionWays s ≤ 8 → 4 ≤ s.cache.wayErr[w.val] →
      Yields (.stripeWayRetire w) s fun t =>
        t.cache.wayRet = s.cache.wayRet ||| BitVec.ofNat 16 (2 ^ w.val) ∧ (∀ x ∈ t.cache.lines, x.way ≠ w.val) ∧
        (∀ c : ClassN, (classMask t.cache c).getLsbD w.val = false)) ∧
    (∀ s (w : Fin 16), s.cache.wayErr[w.val] < 4 ∨ 8 < sessionWays s ∨ s.clock.phase ≠ .commit →
      Yields (.stripeWayRetire w) s fun t => t = s)) ∧
  (∀ s t p i k c m, ActsOn s t p i k (.setMask c m) → EndsWith t p i k Status.success [] ∧ OthersStay s t { p := p, r := 0, i := i } ∧
      t.cache = { s.cache with cmaskNext := s.cache.cmaskNext ++ [(c, m)] } ∧
      t = { s with portA := t.portA, portB := t.portB, cache := t.cache }) ∧
  (∀ s t p i k, ActsOn s t p i k .invalidate →
      (lockedLine s (invalNames s k.head) = false → EndsWith t p i k Status.success []) ∧
      (lockedLine s (invalNames s k.head) = true → t.taken? { p := p, r := 0, i := i } = some { k with stage := .drain }) ∧
      t.cache.lines = s.cache.lines.filter (fun x => x.lock || !invalNames s k.head x) ∧
      t.cache.victim = s.cache.victim.filter (fun x => x.lock || !invalNames s k.head x) ∧ t.jnl = s.jnl ∧
      (Entry.subop k.head = 5 → (∀ x ∈ s.cache.lines, x.lock = false) →
        (∀ x ∈ t.cache.lines, ¬ (x.set = field (Entry.a k.head 0) 0 10 ∧ x.way = field (Entry.a k.head 0) 16 4)) ∧
        (∀ x ∈ s.cache.lines, ¬ (x.set = field (Entry.a k.head 0) 0 10 ∧ x.way = field (Entry.a k.head 0) 16 4) →
          x ∈ t.cache.lines))) ∧
  (∀ s y, (y ∈ s.cache.lines ∧ ∀ z ∈ s.cache.lines, z.set = y.set → z.way = y.way → z = y) →
      cacheFault s (.single y.set y.way) = { s with cache := { s.cache with corr := satInc s.cache.corr } } ∧
      (∀ n, y.sv.getLsbD n = true → journalBlock s y.pos y.d = none → ∃ t, t = cacheFault s (.double y.set y.way n) ∧
          t.cache.lines = s.cache.lines.map (fun z => if z = y then { y with sv := y.sv &&& ~~~BitVec.ofNat 4 (2 ^ n) } else z) ∧
          t.cache.unc = satInc s.cache.unc ∧
          (∀ h : y.way < 16, t.cache.wayErr[y.way] = s.cache.wayErr[y.way] + 1) ∧
          t = { s with cache := t.cache }) ∧
      (∀ n bs, n < 4 → y.index < 16 → y.sv.getLsbD n = true → journalBlock s y.pos y.d = some bs → bs.length = blockBytes →
        y.data.length = 256 → ∃ t, t = cacheFault s (.double y.set y.way n) ∧
          (∃ z ∈ t.cache.lines, z.set = y.set ∧ z.way = y.way ∧ z.sv = y.sv ∧ z.sd = y.sd ∧ z.lock = y.lock ∧
            slice z.data (64 * n) 64 = slice bs (256 * y.index + 64 * n) 64 ∧
            (∀ m, m < 4 → m ≠ n → slice z.data (64 * m) 64 = slice y.data (64 * m) 64)) ∧
          t.cache.unc = satInc s.cache.unc ∧ t.jnl = s.jnl) ∧
      (∃ t, t = cacheFault s (.tag y.set y.way) ∧
        t.cache.lines = s.cache.lines.filter (fun z => !(z.set == y.set && z.way == y.way)) ∧
        t.cache.tpar = satInc s.cache.tpar ∧ t = { s with cache := t.cache })) ∧
  (∀ s p r i k x u, IoReady s { p := p, r := r, i := i } 1 k x → u.mac = .none → u.tableBad = false →
      earlierWrite s (Entry.vol k.head) (Entry.lbn k.head) (Entry.nblk k.head) k.ord = false →
      Yields (.read p r i u) s fun t => t.cache.corr = (cacheFaults s u.cache).cache.corr ∧
        t.cache.unc = (cacheFaults s u.cache).cache.unc ∧ t.cache.tpar = (cacheFaults s u.cache).cache.tpar)

/-! ## Credentials and modes (11 R340 to R343, 10 R305 to R307, 02 R40, 06 R184) -/

/-- The command's entry waits for the mode transition it planned. -/
abbrev Sys2Proof.Plans (c : Instr) (s : State) (p : Port) (i : Nat) (target : Mode) (kind : PlanKind) (cause : Nat) : Prop :=
  Yields c s fun t =>
    (t.taken? { p := p, r := 0, i := i }).map (·.stage) = some .transition ∧
    (t.mode.plan.map fun m => (m.target, m.kind, m.cause, m.frame)) =
      some (target, kind, BitVec.ofNat 8 cause, s.clock.frame) ∧
    t.mode.mode = s.mode.mode ∧ t.gate.orders = s.gate.orders ∧ t.jnl = s.jnl ∧ t.fuse = s.fuse

/-- 11 R340 to R342, 10 R306, R322, 06 R184, 01 R18: a credential attempt is counted at a commit point, before it is compared
(log 63); then the right credential plans the transition and clears nothing yet, and a wrong one is BAD_CREDENTIAL with the
count and the seconds left at the commit point of its frame, where the throttle begins; while the throttle runs nothing is
counted, and while another attempt is open this one waits (log 63). -/
def Obligations.UnlockCountsTheAttemptBeforeItCompares : Prop :=
  (∀ s p i k a media, AtVisit s p i 0x20 k → s.mode.cond ≠ .none → s.mode.plan = none → s.array = some a →
    (k.counted = false → throttled s = true → Answers (.unlock p i media) s p i k Status.throttled (unlockReply s)) ∧
    (k.counted = false → throttled s = false → attemptOpen s { p := p, r := 0, i := i } = false →
      PlansAct (.unlock p i media) s p i k .countAttempt) ∧
    (k.counted = false → throttled s = false → attemptOpen s { p := p, r := 0, i := i } = true →
      Yields (.unlock p i media) s fun t => t = s) ∧
    (k.counted = true → openWraps s.fuse a (Taken.block k) = none → PlansAct (.unlock p i media) s p i k .failedAttempt) ∧
    (∀ amk, k.counted = true → openWraps s.fuse a (Taken.block k) = some (amk, false) →
      Yields (.unlock p i media) s fun t =>
        (t.taken? { p := p, r := 0, i := i }).map (·.stage) = some .transition ∧
        (t.mode.plan.map fun m => (m.target, m.kind)) = some (condMode s.mode.cond, .unlock) ∧
        t.root = s.root ∧ t.keys.staged = some amk ∧
        t.keys.prim = s.keys.prim ∧ t.keys.shadow = s.keys.shadow ∧ t.mode.mode = s.mode.mode)) ∧
  (∀ s t p i k, ActsOn s t p i k .countAttempt →
    unlockCount t.root = min 0xFFFF (unlockCount s.root + 1) ∧
    t.taken? { p := p, r := 0, i := i } = some { k with counted := true, stage := .waiting } ∧
    OthersStay s t { p := p, r := 0, i := i } ∧ t = { s with portA := t.portA, portB := t.portB, root := t.root } ∧
    (∀ a, a < 0x1490 ∨ 0x1494 ≤ a → Memory.get t.root a = Memory.get s.root a)) ∧
  (∀ s t p i k, ActsOn s t p i k .failedAttempt →
    (throttleDelay (unlockCount s.root) = 0 →
      EndsWith t p i k Status.badCredential (if Entry.opcode k.head = 0x20 then unlockReply s else []) ∧ OnlyPorts s t) ∧
    (throttleDelay (unlockCount s.root) ≠ 0 → s.mode.acmp = Vector.replicate 4 none → throttled t = true) ∧
    (s.sec.tampCfg.getLsbD 17 = false →
      (t.taken? { p := p, r := 0, i := i }).map (fun x => (x.stage, x.status, x.reply.length)) =
        some (.finished, Status.badCredential, if Entry.opcode k.head = 0x20 then 8 else 0) ∧
      t.keys = s.keys ∧ t.root = s.root))

/-- 02 Table 2-2: LOCK, MODE_SET Locked and Service, RESET and FW_ACTIVATE plan their transitions where their mode and
their conditions allow, and change nothing else yet; from Locked, MODE_SET Service is a credential attempt (11 R340). 11 R364:
RESET clears the latch and its mirror at the commit point of its frame. 11 R338, R339, 06 R189: LIFECYCLE advances one step from the
right state in the right mode, under its guard, through a transition to Start; Red needs a confirm press first, and
every other request is refused. -/
def Obligations.ModeAndLifecycleCommandsPlanTransitions : Prop :=
  (∀ s p i k, s.mode.plan = none →
      (AtVisit s p i 0x21 k → Plans (.lock p i) s p i .locked .lock 0x05) ∧
      (AtVisit s p i 0x48 k → Entry.subop k.head = 2 → Entry.plen k.head = 0 → s.mode.mode = .service → s.mode.cond ≠ .none →
        Plans (.modeSetLocked p i) s p i .locked .leaveService 0x0F) ∧
      (AtVisit s p i 0x48 k → Entry.subop k.head = 2 → Entry.plen k.head = 0 → s.mode.mode ≠ .service →
        Answers (.modeSetLocked p i) s p i k Status.badMode []) ∧
      (AtVisit s p i 0x48 k → Entry.subop k.head = 8 → isCondition s.mode.mode = true → Entry.plen k.head = 0 →
        3 ≤ k.grant0 → Plans (.modeSetService p i) s p i .service .service 0x0E) ∧
      (AtVisit s p i 0x48 k → Entry.subop k.head = 8 → isCondition s.mode.mode = true → Entry.plen k.head = 0 →
        k.grant0 < 3 → Answers (.modeSetService p i) s p i k Status.badMode []) ∧
      (∀ a amk, AtVisit s p i 0x48 k → Entry.subop k.head = 8 → s.mode.mode = .locked → Entry.plen k.head ≠ 0 →
        s.array = some a → k.counted = true → openWraps s.fuse a (Taken.block k) = some amk →
        Plans (.modeSetService p i) s p i .service .service 0x0E) ∧
      (∀ a, AtVisit s p i 0x48 k → Entry.subop k.head = 8 → s.mode.mode = .locked → Entry.plen k.head ≠ 0 →
        s.array = some a → k.counted = true → openWraps s.fuse a (Taken.block k) = none →
        PlansAct (.modeSetService p i) s p i k .failedAttempt) ∧
      (∀ a, AtVisit s p i 0x48 k → Entry.subop k.head = 8 → s.mode.mode = .locked → Entry.plen k.head ≠ 0 →
        s.array = some a → k.counted = false → throttled s = false → attemptOpen s { p := p, r := 0, i := i } = false →
        PlansAct (.modeSetService p i) s p i k .countAttempt) ∧
      (∀ st, AtVisit s p i 0x49 k → (s.mode.mode ≠ .lockdown ∨ sourceStands s st = false) →
        Yields (.reset p i st) s fun t =>
          (t.taken? { p := p, r := 0, i := i }).map (·.stage) = some .transition ∧
          (t.mode.plan.map fun m => (m.target, m.kind, m.cause, m.frame)) = some (.start, .reset, 0x10, s.clock.frame) ∧
          t.gate.orders = s.gate.orders ++ [.act { p := p, r := 0, i := i } .clearLatch] ∧
          t.mode.mode = s.mode.mode ∧ t.sec = s.sec ∧ t.root = s.root ∧ t.jnl = s.jnl ∧ t.fuse = s.fuse) ∧
      (∀ st, AtVisit s p i 0x49 k → s.mode.mode = .lockdown → sourceStands s st = true →
        Answers (.reset p i st) s p i k Status.conflict []) ∧
      (AtVisit s p i 0x42 k → (imageOf s.fw (if (Entry.arg k.head).getLsbD 0 then .b else .a)).isSome = true →
        Plans (.fwActivate p i) s p i .start (.activate (if (Entry.arg k.head).getLsbD 0 then .b else .a)) 0x10) ∧
      (AtVisit s p i 0x42 k → imageOf s.fw (if (Entry.arg k.head).getLsbD 0 then .b else .a) = none →
        Answers (.fwActivate p i) s p i k Status.noImage [])) ∧
  ((∀ s p i k, AtVisit s p i 0x4A k → s.mode.plan = none → Entry.a k.head 0 = 0x1FCA →
      (field (Entry.arg k.head) 0 2 = 1 → lifecycle s.fuse = .white → s.mode.mode = .factory → greyReady s.fuse = true →
        Plans (.lifecycleGrey p i) s p i .start (.lifecycle .grey) 0x11) ∧
      (field (Entry.arg k.head) 0 2 = 1 → lifecycle s.fuse ≠ .white →
        Answers (.lifecycleGrey p i) s p i k Status.lifecycle []) ∧
      (field (Entry.arg k.head) 0 2 = 2 → lifecycle s.fuse = .grey → s.mode.mode = .service →
        Plans (.lifecycleBlack p i) s p i .start (.lifecycle .black) 0x11) ∧
      (field (Entry.arg k.head) 0 2 = 2 → lifecycle s.fuse ≠ .grey →
        Answers (.lifecycleBlack p i) s p i k Status.lifecycle []) ∧
      (field (Entry.arg k.head) 0 2 = 3 → lifecycle s.fuse = .black → s.mode.mode = .service → k.pressed = true →
        Plans (.lifecycleRed p i) s p i .start (.lifecycle .red) 0x11) ∧
      (field (Entry.arg k.head) 0 2 = 3 → lifecycle s.fuse = .black → s.mode.mode = .service → k.pressed = false →
        Yields (.lifecycleRed p i) s fun t =>
          t.taken? { p := p, r := 0, i := i } = some { k with stage := .confirm } ∧ OnlyPorts s t)) ∧
    (∀ s p i k, AtVisit s p i 0x4A k → Entry.a k.head 0 ≠ 0x1FCA → field (Entry.arg k.head) 0 2 = 2 →
      Answers (.lifecycleBlack p i) s p i k Status.badField []) ∧
    (∀ s l, wipeTarget (applyLifecycle s l).root = lcCode l)) ∧
  (∀ s t f k, s.taken? f = some k → t = releaseOrder s (.act f .clearLatch) →
    (resetPlanned s = true → t.sec.latch = false ∧ t.sec.first = 0 ∧ t.sec.seen = 0 ∧ t.sec.latchRtc = 0 ∧
      Memory.read t.root 0x14A0 12 = zeros 12 ∧ t = { s with sec := t.sec, root := t.root }) ∧
    (resetPlanned s = false → t = s))

/-! ## Array, volumes, keys and shares (06 R185 to R190, 10 R307 to R327, 01 R30, 09 R285, 04 R104) -/

/-- A superblock update with this effect is under way, and the command waits for it. -/
abbrev Sys2Proof.Updates (s t : State) (f : Ref) (e : SbEffect) : Prop :=
  t.sbq = s.sbq ++ [{ effect := e }] ∧ (t.taken? f).map (·.stage) = some .superblock

/-- 10 R307, 01 R25, R30, 09 R285, 04 R104, 12 R384: CRED_SET, GRANT_SET, SHARES_SET, the engine split and IDENTITY_SET
are privileged actions: their visit plans exactly one PREP and waits for its EXEC. 11 R340: the old credential of a CRED_SET
is an attempt, counted before it is compared. -/
def Obligations.PrivilegedCommandsPlanOnePrep : Prop :=
  ∀ s p i k, (let preps := fun (c : Instr) (a : PrivAct) => Yields c s fun t =>
      t.taken? { p := p, r := 0, i := i } = some { k with stage := .exec } ∧
      t.gate = { s.gate with tags := t.gate.tags, priv := s.gate.priv ++
        [{ act := a, frame := s.clock.frame, epoch := s.cx.epoch, cx := s.cx.holder, orphan := false }] } ∧
      t.array = s.array ∧ t.jnl = s.jnl ∧ t.mode = s.mode
   (∀ a old new amk b, AtVisit s p i 0x22 k → s.array = some a → credPair (Taken.block k) = some (old, new) →
      k.counted = true → openWraps s.fuse a old = some (amk, b) →
      preps (.credSet p i) (.credSet { p := p, r := 0, i := i } (homeWrap s.fuse a.uuid new amk)
        (fleetWrap s.fuse a.uuid new amk))) ∧
   (∀ a old new, AtVisit s p i 0x22 k → s.array = some a → credPair (Taken.block k) = some (old, new) →
      k.counted = true → openWraps s.fuse a old = none → PlansAct (.credSet p i) s p i k .failedAttempt) ∧
   (∀ a old new, AtVisit s p i 0x22 k → s.array = some a → credPair (Taken.block k) = some (old, new) →
      k.counted = false → throttled s = false → attemptOpen s { p := p, r := 0, i := i } = false →
      PlansAct (.credSet p i) s p i k .countAttempt) ∧
   (AtVisit s p i 0x26 k → (volOf s (sixtyFour (field (Entry.arg k.head) 0 6))).isSome = true →
      adminLeft s (sixtyFour (field (Entry.arg k.head) 0 6)) (if (Entry.arg k.head).getLsbD 8 then .b else .a)
        ((Entry.arg k.head).extractLsb' 16 2) = true →
      preps (.grantSet p i) (.grant { p := p, r := 0, i := i } (sixtyFour (field (Entry.arg k.head) 0 6))
        (if (Entry.arg k.head).getLsbD 8 then .b else .a) ((Entry.arg k.head).extractLsb' 16 2))) ∧
   (AtVisit s p i 0x26 k → (volOf s (sixtyFour (field (Entry.arg k.head) 0 6))).isSome = true →
      adminLeft s (sixtyFour (field (Entry.arg k.head) 0 6)) (if (Entry.arg k.head).getLsbD 8 then .b else .a)
        ((Entry.arg k.head).extractLsb' 16 2) = false → Answers (.grantSet p i) s p i k Status.lastAdmin []) ∧
   (let w := Entry.a k.head 0
    (AtVisit s p i 0x28 k → field w 0 4 + field w 4 4 + field w 8 4 = 16 →
      preps (.sharesSet p i) (.shares { p := p, r := 0, i := i } w)) ∧
    (AtVisit s p i 0x28 k → field w 0 4 + field w 4 4 + field w 8 4 ≠ 16 →
      Answers (.sharesSet p i) s p i k Status.badShares []) ∧
    (AtVisit s p i 0x39 k → Entry.subop k.head = 5 → field w 0 4 + field w 4 4 + field w 8 4 = 8 →
      preps (.engineSplit p i) (.split { p := p, r := 0, i := i } w)) ∧
    (AtVisit s p i 0x39 k → Entry.subop k.head = 5 → field w 0 4 + field w 4 4 + field w 8 4 ≠ 8 →
      Answers (.engineSplit p i) s p i k Status.badField []) ∧
    (AtVisit s p i 0x4C k → preps (.identitySet p i) (.identity { p := p, r := 0, i := i } w))))

/-- 06 R190, 09 R459, 10 R305: ARRAY_CREATE that passes its checks clears the members' data areas; when they read as zeros
the superblocks of the new array are written, volume 0 sealed and granted in full to the caller's port alone. -/
def Obligations.ArrayCreationClearsThenWritesSuperblocks : Prop :=
  (∀ s p i k, AtVisit s p i 0x23 k → createCheck s { p := p, r := 0, i := i } k.head = Status.success →
    (createSlots k.head).all (fun m => !needsFormat s m) = true → Yields (.arrayCreate p i) s fun t =>
      t.taken? { p := p, r := 0, i := i } = some { k with stage := .init } ∧
      t.gate.orders.length = s.gate.orders.length + (createSlots k.head).length ∧ t.array = s.array ∧ t.sbq = s.sbq ∧
      t.jnl = s.jnl) ∧
  (∀ s p i k, AtVisit s p i 0x23 k → createCheck s { p := p, r := 0, i := i } k.head ≠ Status.success →
    Answers (.arrayCreate p i) s p i k (createCheck s { p := p, r := 0, i := i } k.head) []) ∧
  (∀ s p i k, (s.ring p 0).taken.find? (fun e => e.stage == .init) = some k → (p = .b → ∀ e ∈ (s.ring .a 0).taken, e.stage ≠ .init) →
    k.i = i → s.taken? { p := p, r := 0, i := i } = some k → (createSlots k.head).all (readyMember s) = true →
    Yields .arrayInitDone s fun t => ∃ v,
      Updates s t { p := p, r := 0, i := i } (.arrayCreate { p := p, r := 0, i := i } v) ∧ t.array = s.array ∧
      v.n = (createSlots k.head).length ∧ v.layout = createLayout k.head ∧ v.su = createSu k.head ∧ v.ag = 1 ∧
      v.vtab[0].present = true ∧ v.vtab[0].isSealed = true ∧ v.vtab[0].base = 0 ∧ v.vtab[0].grantA = 3 ∧
      v.vtab[0].grantB = 0 ∧ (∀ w : VolN, w ≠ 0 → v.vtab[w.val].present = false) ∧
      t.jnl.recs.map (·.seq) = [1] ∧ t.jnl.lost = [] ∧ t.jnl.nextSeq = 2) ∧
  (∀ s p i k, (s.ring p 0).taken.find? (fun e => e.stage == .init) = some k → (p = .b → ∀ e ∈ (s.ring .a 0).taken, e.stage ≠ .init) →
    k.i = i → s.taken? { p := p, r := 0, i := i } = some k → (createSlots k.head).all (readyMember s) = false →
    Yields .arrayInitDone s fun t => EndsWith t p i k Status.slotState [] ∧ t.sbq = s.sbq ∧ t.array = s.array)

/-- 06 R185, 10 R313, R327, 07 R204: VOLUME_CREATE places the volume in the lowest free rows under a key index no
volume has or is about to have, VOLUME_DELETE waits for the volume's last order, KEY_ROTATE starts with a fresh secret and
the eight buffers of its engine (02 R58); each goes on when
its superblock update is complete. 09 R271, 06 R174, 12 R384: when the last superblock write is observed an update that
loads or clears keys has its PREP (log 73), and its EXEC makes the change: a volume created is there with its key, one deleted
is gone with its key and its roots; an adopted array (10 R306) is named in the root store, and its UNLOCK goes on to its
transition. New credentials clear the unlock count at the commit point. -/
def Obligations.VolumeCommandsTakeEffectWithTheSuperblocks : Prop :=
  ((∀ s p i k a amk base, AtVisit s p i 0x24 k → s.array = some a → s.keys.amk = some amk → createVol k.head ≠ 0 →
      createKey k.head ≠ 0 → (claimedVols s).any (fun x => x.1 == createVol k.head) = false →
      (claimedVols s).any (fun x => x.2.key == createKey k.head) = false →
      freeRange s (volRows s (createSize k.head + 1) ((Entry.arg k.head).getLsbD 8)) = some base →
      Yields (.volumeCreate p i) s fun t => ∃ vol keys,
        Updates s t { p := p, r := 0, i := i } (.volumeCreate { p := p, r := 0, i := i } (createVol k.head) vol keys) ∧
        vol.present = true ∧ vol.base = base ∧ vol.size = createSize k.head + 1 ∧ vol.key = createKey k.head ∧
        vol.isSealed = (Entry.arg k.head).getLsbD 8 ∧ vol.stale = false ∧ t.keys = s.keys ∧ t.array = s.array) ∧
    (∀ s p i k a amk w, AtVisit s p i 0x24 k → s.array = some a → s.keys.amk = some amk → createVol k.head ≠ 0 →
      createKey k.head ≠ 0 → (claimedVols s).any (fun x => x.1 == createVol k.head) = false →
      a.vtab[(w : VolN).val].present = true → a.vtab[w.val].key = createKey k.head → Answers (.volumeCreate p i) s p i k Status.keyInUse []) ∧
    (∀ s p i k x, AtVisit s p i 0x25 k → createVol k.head ≠ 0 → volOf s (createVol k.head) = some x →
      (volBusy s (createVol k.head) = false → Yields (.volumeDelete p i) s fun t =>
        Updates s t { p := p, r := 0, i := i } (.volumeDelete { p := p, r := 0, i := i } (createVol k.head)) ∧
        (t.array.map fun b => b.vtab[(createVol k.head).val].deleting) = some true ∧ t.jnl = s.jnl ∧ t.keys = s.keys) ∧
      (volBusy s (createVol k.head) = true → Yields (.volumeDelete p i) s fun t =>
        t.taken? { p := p, r := 0, i := i } = some { k with stage := .drain } ∧ t.sbq = s.sbq ∧
        (t.array.map fun b => b.vtab[(createVol k.head).val].deleting) = some true)) ∧
    (∀ s p i k a amk, AtVisit s p i 0x27 k → s.array = some a → s.keys.amk = some amk →
      (volOf s (sixtyFour (field (Entry.arg k.head) 0 6))).isSome = true →
      (a.rekey.state ≠ 0 → Answers (.keyRotate p i) s p i k Status.rekeyActive []) ∧
      (a.rekey.state = 0 → rekeyStarting s = false → spareBufs s + releasing s + engOwn s .scrub < 8 →
        Answers (.keyRotate p i) s p i k Status.conflict []) ∧
      (a.rekey.state = 0 → rekeyStarting s = false → 8 ≤ spareBufs s + releasing s + engOwn s .scrub →
        spareBufs s < 8 - engOwn s .rekey → Yields (.keyRotate p i) s fun t =>
          t.taken? { p := p, r := 0, i := i } = some k ∧ t.staging = s.staging ∧ t.gate = s.gate ∧ t.sbq = s.sbq) ∧
      (a.rekey.state = 0 → rekeyStarting s = false → 8 ≤ spareBufs s → Yields (.keyRotate p i) s fun t => ∃ keys w,
        Updates s t { p := p, r := 0, i := i } (.rekeyStart { p := p, r := 0, i := i }
          (sixtyFour (field (Entry.arg k.head) 0 6)) keys w) ∧ s.free < t.free ∧ t.keys = s.keys ∧ t.eng = s.eng))) ∧
  ((∀ s f k e, s.sbq = [{ effect := e }] → sbOutstanding s = false → s.taken? f = some k → k.stage = .superblock →
      ((∃ v vol keys, e = .volumeCreate f v vol keys) ∨ (∃ v, e = .volumeDelete f v) ∨ ∃ v keys w, e = .rekeyStart f v keys w) →
      Yields .superblockWriteDone s fun t =>
        t.sbq = [] ∧ t.taken? f = some { k with stage := .exec } ∧ t.array = s.array ∧ t.keys = s.keys ∧ t.root = s.root ∧
        t.gate.priv = s.gate.priv ++
          [{ act := .superblock e, frame := obsFrame s, epoch := s.cx.epoch, cx := s.cx.holder, orphan := false }]) ∧
    (∀ s f k v vol keys a, s.array = some a → s.taken? f = some k → k.stage = .exec → vol.present = true →
      vol.isSealed = false → ∃ t, t = privExec s (.superblock (.volumeCreate f v vol keys)) ∧
        volOf t v = some vol ∧ t.keys.prim[vol.key.val] = some keys ∧
        t.taken? f = some { k with stage := .finished, status := Status.success, reply := [] } ∧
        (∀ w, w ≠ v → volOf t w = volOf s w)) ∧
    (∀ s f k v a, s.array = some a → s.taken? f = some k → k.stage = .exec →
      ∃ t, t = privExec s (.superblock (.volumeDelete f v)) ∧
        volOf t v = none ∧ t.keys.prim[a.vtab[v.val].key.val] = none ∧ t.keys.shadow[a.vtab[v.val].key.val] = none ∧
        Memory.read t.root (rootBank v false) 32 = zeros 32 ∧ Memory.read t.root (rootBank v true) 32 = zeros 32 ∧
        t.taken? f = some { k with stage := .finished, status := Status.success, reply := [] }) ∧
    (∀ s f k h fl a, s.sbq = [{ effect := .creds f h fl }] → sbOutstanding s = false → s.array = some a →
      s.taken? f = some k → k.stage = .superblock → Yields .superblockWriteDone s fun t =>
        (t.array.map fun b => (b.home, b.fleet, b.uuid)) = some (h, fl, a.uuid) ∧ t.root = s.root ∧
        t.taken? f = some { k with stage := .commit } ∧ t.gate.orders = s.gate.orders ++ [.act f .credsDone]) ∧
    (∀ s t p i k, ActsOn s t p i k .credsDone → EndsWith t p i k Status.success [] ∧ unlockCount t.root = 0 ∧
      t = { s with portA := t.portA, portB := t.portB, root := t.root }) ∧
    (∀ s f k h roots, s.sbq = [{ effect := .adopt f h roots }] → sbOutstanding s = false → s.taken? f = some k →
      k.stage = .superblock → Yields .superblockWriteDone s fun t =>
        t.sbq = [] ∧ t.taken? f = some { k with stage := .exec } ∧ t.root = s.root ∧ t.mode = s.mode ∧
        t.gate.priv = s.gate.priv ++ [{
          act := .superblock (.adopt f h roots), frame := obsFrame s, epoch := s.cx.epoch, cx := s.cx.holder, orphan := false }]) ∧
    (∀ s f k h a, s.array = some a → s.taken? f = some k → k.stage = .exec → s.mode.plan = none →
      ∃ t, t = privExec s (.superblock (.adopt f h [])) ∧
        (t.array.map fun b => b.home) = some h ∧ rootUuid t = uuidBytes a.uuid ∧
        t.taken? f = some { k with stage := .transition } ∧
        (t.mode.plan.map fun m => (m.target, m.kind)) = some (condMode s.mode.cond, .unlock)))

/-! ## Vault (06 R187, 11 R344 to R348) -/

/-- A VAULT command of subop `sub` stands in its visit; the system volume `x` is there and no rekey step holds the block
of its object. -/
abbrev Sys2Proof.VaultReady (s : State) (p : Port) (i sub : Nat) (k : Taken) (x : Volume) : Prop :=
  AtVisit s p i 0x30 k ∧ Entry.subop k.head = sub ∧ volOf s 0 = some x ∧ rekeyHolds s 0 (vaultId k.head) 1 = false

/-- The object's change is one record of the journal whose commit the command waits for; the index is not changed yet. -/
abbrev Sys2Proof.ObjectChanges (s t : State) (p : Port) (i : Nat) (k : Taken) (type : RecType) (words : Bytes) : Prop :=
  t.taken? { p := p, r := 0, i := i } = some { k with
    stage := .journal, committed := true, seqs := [s.jnl.nextSeq], data := words } ∧
  (∃ c, t.jnl.recs = s.jnl.recs ++ [c] ∧ c.seq = s.jnl.nextSeq ∧ c.type = type ∧ c.vol = 0 ∧ c.at_ = vaultId k.head ∧
    c.count = 1 ∧ c.isSealed = true ∧ c.durable = false) ∧
  t.vault = s.vault ∧ t.root = s.root ∧ t.jnl.mem = s.jnl.mem

/-- 06 R187, 11 R344 to R347: VAULT list replies from the index, and get delivers an object's length, policy and data
where its policy lets the port, once it has its charge (01 R28), and refuses it elsewhere. 06 R187, 11 R344, R345, R348: put, delete and set policy
write or deallocate the object's block through one journal record; an existing object keeps its policy on a put, and a
fixed one refuses the change. -/
def Obligations.VaultObjectsAreDeliveredAndChanged : Prop :=
  ((∀ s p i k x, VaultReady s p i 1 k x → Yields (.vaultList p i) s fun t =>
      let os := s.vault.index.filter fun o => decide ((Entry.a k.head 1).toNat ≤ o.id)
      let n := min os.length ((Entry.rmax k.head - 16) / 8)
      OnlyPorts s t ∧ OthersStay s t { p := p, r := 0, i := i } ∧
      ∃ reply, EndsWith t p i k Status.success reply ∧ reply.length = 16 + 8 * n ∧ slice reply 0 4 = leBytes 4 n ∧
        (os.length ≤ n → slice reply 4 4 = leBytes 4 0x1000) ∧
        (∀ j o, j < n → os[j]? = some o →
          slice reply (16 + 8 * j) 8 = leBytes 2 o.id ++ leBytes 2 o.len ++ dwBytes o.policy)) ∧
    (∀ s p i k x media, VaultReady s p i 2 k x → vaultObj s (vaultId k.head) = none →
      Answers (.vaultGet p i media) s p i k Status.noObject []) ∧
    (∀ s p i k x o media, VaultReady s p i 2 k x → vaultObj s (vaultId k.head) = some o → polGet o.policy p = false →
      Answers (.vaultGet p i media) s p i k Status.policyDenied []) ∧
    (∀ s p i k x o media, VaultReady s p i 2 k x → vaultObj s (vaultId k.head) = some o → polGet o.policy p = true →
      cooling s (vaultId k.head) = false → polOnce o.policy = false →
      (Entry.reply k.head = 0 ∨ 16 + o.len ≤ Entry.rmax k.head) → x.stale = false →
      polCool o.policy = 0 → polCget o.policy = true → k.pressed = false → Yields (.vaultGet p i media) s fun t =>
        t.taken? { p := p, r := 0, i := i } = some { k with stage := .confirm } ∧ OnlyPorts s t) ∧
    (∀ s p i k x o media c bs s0 s', VaultReady s p i 2 k x → vaultObj s (vaultId k.head) = some o →
      polGet o.policy p = true → cooling s (vaultId k.head) = false → (polOnce o.policy = true → s.mode.mode ≠ .salvage) →
      (Entry.reply k.head = 0 ∨ 16 + o.len ≤ Entry.rmax k.head) → x.stale = false →
      coolPlanned s { p := p, r := 0, i := i } o = some s0 →
      (polCget o.policy = false ∨ k.pressed = true) → k.charged = true →
      (polOnce o.policy = true → writeRoom s0 0 1 = true) →
      vaultBlock s0 media x o.id = (.ok (c, bs), s') → Yields (.vaultGet p i media) s fun t =>
        EndsWith t p i k Status.success (leBytes 4 o.len ++ dwBytes o.policy ++ zeros 8 ++ slice bs 16 o.len) ∧
        (polOnce o.policy = false → t.vault = s.vault ∧ t.jnl.recs = s.jnl.recs) ∧
        (polOnce o.policy = true → vaultObj t (vaultId k.head) = none ∧ t.jnl.recs.length = s.jnl.recs.length + 1)) ∧
    (∀ s p i k x o media, VaultReady s p i 2 k x → vaultObj s (vaultId k.head) = some o → polGet o.policy p = true →
      cooling s (vaultId k.head) = false → polOnce o.policy = false →
      (Entry.reply k.head = 0 ∨ 16 + o.len ≤ Entry.rmax k.head) → x.stale = false → polCool o.policy = 0 →
      (polCget o.policy = false ∨ k.pressed = true) → k.charged = false → Yields (.vaultGet p i media) s fun t =>
        t.taken? { p := p, r := 0, i := i } = some { k with stage := .engine 1 } ∧ OnlyPorts s t) ∧
    (∀ s f k, s.taken? f = some k → Entry.opcode k.head = 0x30 →
      (engineDone s f).taken? f = some { k with charged := true, stage := .waiting })) ∧
  ((∀ s p i k x ks c tag ns pol, VaultReady s p i 3 k x → x.stale = false →
      (vaultObj s (vaultId k.head) = none ∧ polOk (Entry.a k.head 0) = true ∧ s.vault.index.length < 4096 ∧
          vaultId k.head < x.size ∧ pol = Entry.a k.head 0 ∨
        ∃ o, vaultObj s (vaultId k.head) = some o ∧ polFixed o.policy = false ∧ pol = o.policy) →
      (polCmod pol = false ∨ k.pressed = true) → blockKeys s 0 (vaultId k.head) = some ks →
      sealedInfo s 0 x.size (metaHere s k 0) (vaultId k.head) = (.counter c tag, ns) → c + 1 < 2 ^ 56 →
      k.charged = true → writeRoom s 1 1 = true → Yields (.vaultPut p i) s fun t =>
        ObjectChanges s t p i k .write (objectWords (Entry.plen k.head) pol)) ∧
    (∀ s p i k x o, VaultReady s p i 3 k x → vaultObj s (vaultId k.head) = some o → polFixed o.policy = true →
      Answers (.vaultPut p i) s p i k Status.policyDenied []) ∧
    (∀ s p i k x o ks c tag ns, VaultReady s p i 4 k x → x.stale = false → vaultObj s (vaultId k.head) = some o →
      ((polCmod o.policy || polFixed o.policy) = false ∨ k.pressed = true) → blockKeys s 0 (vaultId k.head) = some ks →
      sealedInfo s 0 x.size (metaHere s k 0) (vaultId k.head) = (.counter c tag, ns) → c + 1 < 2 ^ 56 →
      k.charged = true → writeRoom s 0 1 = true → Yields (.vaultDelete p i) s fun t =>
        ObjectChanges s t p i k .dealloc (objectWords 0 0)) ∧
    (∀ s p i k x, VaultReady s p i 4 k x → vaultObj s (vaultId k.head) = none →
      Answers (.vaultDelete p i) s p i k Status.noObject []) ∧
    (∀ s p i k x o media ks c bs s', VaultReady s p i 5 k x → x.stale = false → vaultObj s (vaultId k.head) = some o →
      polOk (Entry.a k.head 0) = true → polFixed o.policy = false →
      ((polCmod o.policy || polCmod (Entry.a k.head 0)) = false ∨ k.pressed = true) →
      blockKeys s 0 (vaultId k.head) = some ks → vaultBlock s media x (vaultId k.head) = (.ok (c, bs), s') →
      c + 1 < 2 ^ 56 → k.charged = true → writeRoom s 1 1 = true →
      Yields (.vaultSetPolicy p i media) s fun t =>
        ObjectChanges s t p i k .write (objectWords o.len (Entry.a k.head 0))) ∧
    (∀ s p i k x o media, VaultReady s p i 5 k x → vaultObj s (vaultId k.head) = some o → polOk (Entry.a k.head 0) = true →
      polFixed o.policy = true → Answers (.vaultSetPolicy p i media) s p i k Status.policyDenied []))

/-! ## Members, rebuild and scrub (09 R282 to R293) -/

/-- 09 R282, R293, Table 9-8, 12 R384: attach, detach and replace are privileged actions on slots in the right state; the
EXEC of an attach begins the slot's bring-up, for which an attach to a slot that still powers down waits; that of a detach
makes its position missing and begins the power-down (09 R269); that of a replace makes the spare the rebuild target of the
position the failed slot left; locate only lights its slot's
pattern, at the commit point (01 R18). -/
def Obligations.MemberCommandsActOnTheNamedSlot : Prop :=
  (∀ s p i k m, AtVisit s p i 0x38 k → argSlot (Entry.arg k.head) 8 = some m →
    (Entry.subop k.head = 1 → (s.slot m).present = true → slotBad s m = false → (s.slot m).pd = none →
      ((s.slot m).state = .empty ∨ (s.slot m).state = .failed ∨ (s.slot m).state = .detached ∨
        (s.slot m).state = .powerFault) → Yields (.memberAttach p i) s fun t =>
        t.taken? { p := p, r := 0, i := i } = some { k with stage := .exec } ∧ t.slots = s.slots ∧
        (t.gate.priv.map (·.act)) = (s.gate.priv.map (·.act)) ++ [.attach { p := p, r := 0, i := i } m]) ∧
    (Entry.subop k.head = 1 → (s.slot m).present = true → slotBad s m = false → (s.slot m).pd ≠ none →
      ((s.slot m).state = .empty ∨ (s.slot m).state = .failed ∨ (s.slot m).state = .detached ∨
        (s.slot m).state = .powerFault) → Yields (.memberAttach p i) s fun t => t = s) ∧
    (Entry.subop k.head = 1 → (s.slot m).state = .member →
      Answers (.memberAttach p i) s p i k Status.slotState []) ∧
    (∀ q, Entry.subop k.head = 2 → posOfSlot s m = some q → (s.slot m).state = .member → detachExceeds s q = false →
      Yields (.memberDetach p i) s fun t =>
        t.taken? { p := p, r := 0, i := i } = some { k with stage := .exec } ∧ t.slots = s.slots ∧
        (t.gate.priv.map (·.act)) = (s.gate.priv.map (·.act)) ++ [.detach { p := p, r := 0, i := i } m]) ∧
    (∀ q, Entry.subop k.head = 2 → posOfSlot s m = some q → (s.slot m).state = .member → detachExceeds s q = true →
      Answers (.memberDetach p i) s p i k Status.redundancy []) ∧
    (Entry.subop k.head = 4 → PlansAct (.memberLocateOn p i) s p i k (.locate m true)) ∧
    (Entry.subop k.head = 5 → PlansAct (.memberLocateOff p i) s p i k (.locate m false))) ∧
  (∀ s t p i k m on, ActsOn s t p i k (.locate m on) → EndsWith t p i k Status.success [] ∧ t.slots = s.slots ∧
      t.mode = { s.mode with locate := if on then s.mode.locate ||| BitVec.ofNat 6 (2 ^ m.val)
        else s.mode.locate &&& ~~~(BitVec.ofNat 6 (2 ^ m.val)) }) ∧
  (∀ s p i k m old q, AtVisit s p i 0x38 k → Entry.subop k.head = 3 → argSlot (Entry.arg k.head) 8 = some m →
    argSlot (Entry.arg k.head) 12 = some old → missingOf s old = some q →
    ((s.slot old).state = .failed ∨ (s.slot old).state = .detached ∨ (s.slot old).state = .empty) →
    (s.slot m).state = .spare → (s.slot m).step = 8 → (s.slot m).drive.isSome = true → (s.slot m).pd = none →
    (s.slot m).format = false → bigEnough s m = true → needsFormat s m = false → Yields (.memberReplace p i) s fun t =>
      t.taken? { p := p, r := 0, i := i } = some { k with stage := .exec } ∧ t.slots = s.slots ∧ t.array = s.array ∧
      (t.gate.priv.map (·.act)) = (s.gate.priv.map (·.act)) ++ [.replace { p := p, r := 0, i := i } m q]) ∧
  (∀ s p i k a m q, s.array = some a → s.taken? { p := p, r := 0, i := i } = some k → k.stage = .exec →
    (s.slot m).state = .spare → ∃ t, t = privExec s (.replace { p := p, r := 0, i := i } m q) ∧
      (t.taken? { p := p, r := 0, i := i }).map (·.stage) = some .superblock ∧
      (t.array.map fun a => ((posEntry a q).state, (posEntry a q).slot)) = some (.rebuildTarget, m) ∧
      (t.slot m).state = .member ∧ t.sbq.length = s.sbq.length + 1 ∧ t.jnl = s.jnl) ∧
  (∀ s f k m, s.taken? f = some k → k.stage = .exec → slotBad s m = false → ∃ t, t = privExec s (.attach f m) ∧
      t.taken? f = some { k with stage := .finished, status := Status.success, reply := [] } ∧
      (t.slot m).state = .bringup ∧ (t.slot m).step = 2 ∧ (t.slot m).starting = some none ∧ (t.slot m).rail = false ∧
      (∀ n, n ≠ m → t.slot n = s.slot n)) ∧
  (∀ s f k a m q, s.array = some a → s.taken? f = some k → k.stage = .exec → posOfSlot s m = some q →
      ∃ t, t = privExec s (.detach f m) ∧ (t.taken? f).map (·.stage) = some .superblock ∧
        (t.slot m).state = .detached ∧ (t.slot m).pd = some { step := 0, due := none } ∧
        (t.array.map fun a => (posEntry a q).state) = some .missing ∧
        (∀ o ∈ t.morders, ¬ (o.slot = m ∧ o.held = true)))

/-- 09 R285, R286, R290, 02 R58: REBUILD start runs the named target, stop halts it at its boundary; scrub start takes its
eight buffers from those no higher rank waits for or is CONFLICT, and a second start of a running engine is ENGINE_BUSY. -/
def Obligations.RebuildAndScrubStartAndStop : Prop :=
  (∀ s p i k a m q, AtVisit s p i 0x39 k → Entry.subop k.head = 1 → s.array = some a →
    argSlot (Entry.arg k.head) 8 = some m → s.eng.rebuild.running = false → posOfSlot s m = some q →
    isTarget (posEntry a q) = true → Yields (.rebuildStart p i) s fun t =>
      t.eng.rebuild.running = true ∧ (t.array.map (·.rbTarget)) = some q ∧
      (t.array.map (·.rbKind)) = some (kindOf (posEntry a q)) ∧ t.jnl = s.jnl ∧
      (if a.rbKind ≠ .none ∧ a.rbTarget = q then EndsWith t p i k Status.success []
       else Updates s t { p := p, r := 0, i := i } (.reply { p := p, r := 0, i := i }))) ∧
  (∀ s p i k a m, AtVisit s p i 0x39 k → Entry.subop k.head = 1 → s.array = some a →
    argSlot (Entry.arg k.head) 8 = some m → s.eng.rebuild.running = true →
    Answers (.rebuildStart p i) s p i k Status.engineBusy []) ∧
  (∀ s p i k, AtVisit s p i 0x39 k → Entry.subop k.head = 2 → s.eng.rebuild.running = false →
    Answers (.rebuildStop p i) s p i k Status.success []) ∧
  (∀ s p i k, AtVisit s p i 0x39 k → Entry.subop k.head = 2 → s.eng.rebuild.running = true → s.eng.rebuild.stop = false →
    s.eng.scrub.stop = false →
    (s.shifts.any fun x => x.purpose == .rebuild || x.purpose == .resync) = true → Yields (.rebuildStop p i) s fun t =>
      t.eng.rebuild.stop = true ∧ t.eng.rebuild.running = true ∧
      t.taken? { p := p, r := 0, i := i } = some { k with stage := .superblock } ∧ t.sbq = s.sbq) ∧
  (∀ s p i k, AtVisit s p i 0x39 k → Entry.subop k.head = 3 → s.array.isSome = true → s.eng.scrub.running = false →
    8 ≤ spareBufs s - rotateNeed s + engOwn s .scrub → Yields (.scrubStart p i) s fun t =>
      EndsWith t p i k Status.success [] ∧ t.eng.scrub.running = true ∧ 8 ≤ engBufs t.staging .scrub ∧
      t.eng.rebuild = s.eng.rebuild ∧ t.eng.rekey = s.eng.rekey) ∧
  (∀ s p i k, AtVisit s p i 0x39 k → Entry.subop k.head = 3 → s.array.isSome = true → s.eng.scrub.running = false →
    spareBufs s - rotateNeed s + engOwn s .scrub < 8 → Answers (.scrubStart p i) s p i k Status.conflict []) ∧
  (∀ s p i k, AtVisit s p i 0x39 k → Entry.subop k.head = 4 → s.eng.scrub.running = true → s.eng.scrub.stop = false →
    s.eng.rebuild.stop = false → (s.shifts.any fun x => x.purpose == .check) = false → Yields (.scrubStop p i) s fun t =>
      t.eng.scrub = EngSt.init ∧ t.sbq = s.sbq ++ [{ effect := .reply { p := p, r := 0, i := i } }] ∧
      (t.taken? { p := p, r := 0, i := i }).map (·.stage) = some .superblock)

/-! ## The layout sequencer (07 R214, R222 to R225) -/

/-- 07 R214, R222 to R225: a load copies the image and validates it before its bank holds it; a swap verifies, drains with
the hold, persists, and only then would its bank be active; the hold begins and ends at a commit point, a verification that
differs or a forced swap whose shifts have a write released fails, and a forced one abandons the others (R224). A bank that
is active takes no load. -/
def Obligations.LayoutLoadAndSwapGoStepByStep : Prop :=
  (∀ s p i k, AtVisit s p i 0x3A k → 2 ≤ (Entry.a k.head 1).toNat → (Entry.a k.head 1).toNat ≤ 1024 →
    handleCheck s p (Entry.a k.head 0) = Status.success →
    (s.seq.active = some ((Entry.arg k.head).getLsbD 0) →
      Answers (.layoutLoad p i) s p i k Status.bankActive []) ∧
    (s.seq.active ≠ some ((Entry.arg k.head).getLsbD 0) → s.seq.swap = none → s.seq.load = none →
      Yields (.layoutLoad p i) s fun t =>
        t.taken? { p := p, r := 0, i := i } = some { k with
          stage := .validation, frame := s.clock.frame,
          data := Memory.read s.staging.mem (bufAddr (handleIndex (Entry.a k.head 0)) 0) (8 * (Entry.a k.head 1).toNat) } ∧
        t.seq = { s.seq with load := some ((Entry.arg k.head).getLsbD 0, { p := p, r := 0, i := i }) })) ∧
  (∀ s f k bank, planPhase s = true → s.seq.load = some (bank, f) → s.taken? f = some k → k.stage = .validation →
    (let ws := imageWords (Entry.a k.head 1).toNat k.data
     (ws.all Option.isSome = true → validate (ws.map (·.getD 0)) = true →
       k.frame + loadFrames ws ≤ s.clock.frame → Yields .layoutValidationEnd s fun t =>
         t.seq.load = none ∧ bankProg t bank = ws.map (·.getD 0) ∧ bankProg t (!bank) = bankProg s (!bank) ∧
         t.taken? f = some { k with stage := .finished, status := Status.success, reply := [] }) ∧
     ((ws.all Option.isSome && validate (ws.map (·.getD 0))) = false → k.frame + loadFrames ws ≤ s.clock.frame →
       Yields .layoutValidationEnd s fun t =>
         t.seq.load = none ∧ bankProg t bank = [] ∧
         t.taken? f = some { k with stage := .finished, status := Status.badField, reply := [] }))) ∧
  (∀ ws i, ws[i]? = some none → hdrOk (progHeader (ws.map (·.getD 0))) = true →
    (∀ j, j < i → (ws.getD j none).isSome = true ∧ (j ≠ 0 → wordFails (ws.map (·.getD 0)) j = false)) →
    firstFault ws = (i, 0, 0)) ∧
  (∀ s p i k a, AtVisit s p i 0x3B k → s.seq.swap = none → s.seq.load = none →
    s.seq.active ≠ some ((Entry.arg k.head).getLsbD 0) → bankProg s ((Entry.arg k.head).getLsbD 0) ≠ [] →
    s.array = some a →
    (swapFits s a (bankProg s ((Entry.arg k.head).getLsbD 0)) = true → Yields (.layoutSwap p i) s fun t =>
      t.taken? { p := p, r := 0, i := i } = some { k with stage := .swap } ∧
      (t.seq.swap.map fun w => (w.bank, w.step, w.ref, w.frame)) =
        some ((Entry.arg k.head).getLsbD 0, .verify, { p := p, r := 0, i := i }, s.clock.frame) ∧
      t.seq.active = s.seq.active ∧ t.seq.table = s.seq.table) ∧
    (swapFits s a (bankProg s ((Entry.arg k.head).getLsbD 0)) = false →
      Answers (.layoutSwap p i) s p i k Status.layoutMismatch [])) ∧
  (∀ s w a, planPhase s = true → s.seq.swap = some w → s.array = some a → w.step = .verify →
    w.frame + shadowFrames (activeProg s) (bankProg s w.bank) a.n ≤ s.clock.frame →
    shadowOk (activeProg s) (bankProg s w.bank) a.n = true → Yields .shadowVerificationEnd s fun t =>
      t = { s with seq := { s.seq with swap := some { w with step := .drain, frame := s.clock.frame } } }) ∧
  (∀ s w a, planPhase s = true → s.seq.swap = some w → s.array = some a → w.step = .verify →
    w.frame + shadowFrames (activeProg s) (bankProg s w.bank) a.n ≤ s.clock.frame →
    shadowOk (activeProg s) (bankProg s w.bank) a.n = false → Yields .shadowVerificationEnd s fun t =>
      t.seq.swap = none ∧ t.seq.active = s.seq.active ∧ t.seq.hold = s.seq.hold ∧
      (∀ k, s.taken? w.ref = some k → k.stage = .swap →
        (t.taken? w.ref).map (fun x => (x.stage, x.status)) = some (.finished, Status.layoutMismatch))) ∧
  (∀ s w, planPhase s = true → s.seq.swap = some w → w.step = .drain → s.seq.hold = true →
    (s.shifts = [] → Yields .swapDrainEnd s fun t =>
      (t.seq.swap.map (·.step)) = some .persist ∧ t.sbq = s.sbq ++ [{ effect := .swap }] ∧ t.seq.active = s.seq.active) ∧
    (s.shifts ≠ [] → w.force = false → Yields .swapDrainEnd s fun t => t = s) ∧
    (s.shifts ≠ [] → w.force = true → s.shifts.any (·.released) = false → Yields .swapDrainEnd s fun t =>
      t.shifts = [] ∧ (t.seq.swap.map (·.step)) = some .persist) ∧
    (s.shifts ≠ [] → w.force = true → s.shifts.any (·.released) = true → Yields .swapDrainEnd s fun t =>
      t.seq.swap = none ∧ t.shifts = s.shifts ∧ t.seq.hold = true ∧
      (∀ k, s.taken? w.ref = some k → k.stage = .swap →
        (t.taken? w.ref).map (fun x => (x.stage, x.status)) = some (.finished, Status.shiftCommitted)))) ∧
  (∀ s w, s.seq.swap = some w →
    (w.step = .drain → commitSwap s = { s with seq := { s.seq with hold := true } }) ∧
    (w.step = .persist → commitSwap s = s)) ∧
  (∀ s, s.seq.swap = none → commitSwap s = { s with seq := { s.seq with hold := false } })

/-! ## Maintenance (03 R91 to R93, 06 R188, 13 R420, 06 R191, 02 R56) -/

/-- 03 R91 to R93, Table 3-8: SELF_TEST takes its target out for the time of its test; SELF_TEST_DONE replies with the
signature, unless the lifecycle hides it, and the pass bit, restores the target and logs the test. R77: a self-test
with repair blows an entry for each row or column it repaired, where they are left. 06 R188, 01 R18: FW_LOAD
installs an authentic package of no older version at the commit point in the slot that was not booted, with a fresh CMAC,
and replies its version; an older or a forged one leaves both images as they are. -/
def Obligations.SelfTestAndFirmwareCommands : Prop :=
  ((∀ s p i k, AtVisit s p i 0x40 k →
      let id := field (Entry.arg k.head) 0 8
      ((id = 0 ∨ 0x1D < id) → Answers (.selfTest p i) s p i k Status.badField []) ∧
      (1 ≤ id → id ≤ 0x1D → testRefused s p id = true → Answers (.selfTest p i) s p i k Status.conflict []) ∧
      (1 ≤ id → id ≤ 0x1D → testRefused s p id = false → s.test = none → Yields (.selfTest p i) s fun t =>
        t.test = some { id := id, repair := (Entry.arg k.head).getLsbD 8, ref := { p := p, r := 0, i := i },
                        cx := testCx s id, frames := testFrames (s.cx.holder == testCx s id) id } ∧
        t.taken? { p := p, r := 0, i := i } = some { k with stage := .selfTest, frame := s.clock.frame } ∧
        t.fuse = s.fuse ∧ t.jnl = s.jnl)) ∧
    (∀ s x k sig, s.test = some x → s.taken? x.ref = some k → k.stage = .selfTest → k.frame + x.frames ≤ s.clock.frame →
      x.id ≠ 1 → x.id ≠ 2 → x.id ≠ 0x1D → sigFails s.fuse x.id sig = false →
      (x.id = 0x1C → storeCheck s = Status.success) → Yields (.selfTestDone sig []) s fun t =>
        t.test = none ∧ t.fuse = s.fuse ∧
        t.taken? x.ref = some { k with stage := .finished, status := Status.success,
                                       reply := dwBytes (if lifecycle s.fuse = .black ∧ securityBlock x.id then 0 else sig) ++
                                         dwBytes 1 } ∧
        t.log.raised.length = s.log.raised.length + 1) ∧
    (∀ s x k sig, s.test = some x → s.taken? x.ref = some k → k.stage = .selfTest → k.frame + x.frames ≤ s.clock.frame →
      x.id ≠ 1 → x.id ≠ 2 → sigFails s.fuse x.id sig = true → Yields (.selfTestDone sig []) s fun t =>
        t.test = none ∧ (t.taken? x.ref).map (fun e => (e.stage, e.status)) = some (.finished, Status.sigMismatch)) ∧
    (∀ s x k sig fs, s.test = some x → s.taken? x.ref = some k → k.stage = .selfTest → k.frame + x.frames ≤ s.clock.frame →
      x.id ≠ 1 → x.id ≠ 2 → x.repair = true →
      let mine := (mergeFaults fs).filter fun f => f.id == x.id && failing s f
      let need := (mine.filter (covered s)).flatMap (repairsFor s)
      s.fuse.repairs.length + need.length ≤ 64 → Yields (.selfTestDone sig fs) s fun t =>
        t.fuse = { s.fuse with repairs := s.fuse.repairs ++ need } ∧ t.test = none)) ∧
  (∀ s p i k, AtVisit s p i 0x41 k → (∀ h ∈ packageHandles k, handleCheck s p h = Status.success) →
      let bs := packageBytes s (packageHandles k) (Entry.a k.head 0).toNat
      let n := (dwOf (slice bs 8 4)).toNat
      let formed := dwOf (slice bs 0 4) = 0xA636 ∧ n ≤ 294912 ∧ (Entry.a k.head 0).toNat = 64 + n ∧ bs.length = 64 + n ∧
        dwOf (slice bs 12 4) = 0 ∧ (slice bs 32 32).all (· == 0) = true
      let mac := cmac s.fuse.pkgKey (bs.take 16 ++ bs.drop 64) = slice bs 16 16
      (formed → rollback s ≤ (dwOf (slice bs 4 4)).toNat → mac → PlansAct (.fwLoad p i) s p i k (.install (otherSlot s.fw.booted)
        { version := dwOf (slice bs 4 4), cmac := BitVec.ofNat 128 (leNat (cmac (fwk s.fuse) (bs.drop 64))),
          data := bs.drop 64 })) ∧
      (formed → (dwOf (slice bs 4 4)).toNat < rollback s → Answers (.fwLoad p i) s p i k Status.imageRollback []) ∧
      (formed → rollback s ≤ (dwOf (slice bs 4 4)).toNat → ¬ mac → Answers (.fwLoad p i) s p i k Status.imageAuth []) ∧
      (¬ formed → Answers (.fwLoad p i) s p i k Status.badField [])) ∧
  (∀ s t p i k n x, ActsOn s t p i k (.install n x) →
      EndsWith t p i k Status.success (dwBytes x.version) ∧ imageOf t.fw n = some x ∧
      imageOf t.fw (otherSlot n) = imageOf s.fw (otherSlot n) ∧ t.fw.active = s.fw.active ∧ t.fw.booted = s.fw.booted ∧
      t.root = s.root ∧ t.staging = s.staging)

/-- 06 R191, 02 R53: AUX drives GPIO_OUT and reads GPIO_IN while the function owns a pin, and is CONFLICT while it
owns none. 02 R56, Table 2-9, R48, 11 R342, R347: an alarm takes its own or a free comparator
for its delay, is CONFLICT where all are held at its rank or above, and cancelling releases it, all at the commit point;
cancelling where no alarm is set replies 0, the model's choice (log entry 68); a comparator that matches is free again, and the wake alarm's also wakes the device from Drowse. -/
def Obligations.PinsAndAlarmsBelongToTheirUsers : Prop :=
  (∀ s p i k, AtVisit s p i 0x4D k →
      (Entry.subop k.head = 1 → auxOwns s 1 = true → 
        PlansAct (.auxDriveGpioOut p i) s p i k (.gpioOut ((Entry.a k.head 0).getLsbD 0))) ∧
      (Entry.subop k.head = 1 → auxOwns s 1 = false → Answers (.auxDriveGpioOut p i) s p i k Status.conflict []) ∧
      (∀ b, Entry.subop k.head = 2 → auxOwns s 2 = true → Yields (.auxReadGpioIn p i b) s fun t =>
        EndsWith t p i k Status.success (leBytes 4 (bit b)) ∧ t.mode = { s.mode with gpioIn := b }) ∧
      (∀ b, Entry.subop k.head = 2 → auxOwns s 2 = false → Answers (.auxReadGpioIn p i b) s p i k Status.conflict [])) ∧
  (∀ s t p i k b, ActsOn s t p i k (.gpioOut b) → EndsWith t p i k Status.success (leBytes 4 (bit b)) ∧
    t.mode = { s.mode with gpioOut := b } ∧ OthersStay s t { p := p, r := 0, i := i }) ∧
  ((∀ s p i k, AtVisit s p i 0x4E k → (Entry.a k.head 0).toNat ≠ 0 →
      (Entry.subop k.head = 1 → PlansAct (.alarmSetHost p i) s p i k (.setAlarm 5 (Entry.a k.head 0).toNat)) ∧
      (Entry.subop k.head = 3 → PlansAct (.alarmSetWake p i) s p i k (.setAlarm 4 (Entry.a k.head 0).toNat))) ∧
    (∀ s t p i k user delay n, ActsOn s t p i k (.setAlarm user delay) → user = 5 ∨ user = 4 → n < 4 →
      (∀ j, j < n → (s.mode.acmp.toList.getD j none).isSome = true) → s.mode.acmp.toList.getD n none = none →
      acmpOf s user (alarmObj p) = none →
        EndsWith t p i k Status.success (leBytes 4 n) ∧
        t.mode.acmp.toList = s.mode.acmp.toList.set n
          (some { user := user, target := some (s.clock.rtc + delay), obj := alarmObj p })) ∧
    (∀ s t p i k user delay n, ActsOn s t p i k (.setAlarm user delay) → acmpOf s user (alarmObj p) = some n →
        EndsWith t p i k Status.success (leBytes 4 n) ∧
        t.mode.acmp.toList = s.mode.acmp.toList.set n
          (some { user := user, target := some (s.clock.rtc + delay), obj := alarmObj p })) ∧
    (∀ s t p i k user delay, ActsOn s t p i k (.setAlarm user delay) → acmpOf s user (alarmObj p) = none →
      (∀ n, n < 4 → ∃ x, s.mode.acmp.toList.getD n none = some x ∧ x.user.toNat ≤ user.toNat) →
        EndsWith t p i k Status.conflict [] ∧ t.mode = s.mode) ∧
    (∀ s p i k, AtVisit s p i 0x4E k → (Entry.a k.head 0).toNat = 0 →
      (Entry.subop k.head = 1 → Answers (.alarmSetHost p i) s p i k Status.badField []) ∧
      (Entry.subop k.head = 3 → Answers (.alarmSetWake p i) s p i k Status.badField [])) ∧
    (∀ s p i k, AtVisit s p i 0x4E k →
      (Entry.subop k.head = 2 → PlansAct (.alarmCancelHost p i) s p i k (.cancelAlarm 5)) ∧
      (Entry.subop k.head = 4 → PlansAct (.alarmCancelWake p i) s p i k (.cancelAlarm 4))) ∧
    (∀ s t p i k user, ActsOn s t p i k (.cancelAlarm user) →
      acmpOf t user (alarmObj p) = none ∧ EndsWith t p i k Status.success (leBytes 4 ((acmpOf s user (alarmObj p)).getD 0))) ∧
    (∀ s, anyFired s 5 = true → Yields .hostAlarm s fun t => anyFired t 5 = false ∧ t = { s with mode := t.mode } ∧
      t.mode = { s.mode with acmp := t.mode.acmp }) ∧
    (∀ s, anyFired s 4 = true → s.mode.plan = none → Yields .wakeAlarm s fun t => anyFired t 4 = false ∧
      (s.mode.mode = .drowse → (t.mode.plan.map (·.kind)) = some .wake) ∧ (s.mode.mode ≠ .drowse → t.mode.plan = none)) ∧
    (∀ s, anyFired s 1 = true → Yields .throttleExpiry s fun t => anyFired t 1 = false ∧ t.root = s.root ∧
      ((acmpOf t 1 0).isSome = true → ∃ a ∈ s.mode.acmp.toList, ∃ x, a = some x ∧ x.user = 1 ∧ acmpFired s 1 x = false)) ∧
    (∀ s obj, Yields (.coolDownExpiry obj) s fun t =>
      (∀ x, some x ∈ t.mode.acmp.toList → x.user = 3 → x.obj = obj → acmpFired s 3 x = false) ∧
      (∀ x, some x ∈ s.mode.acmp.toList → (x.user ≠ 3 ∨ x.obj ≠ obj) → some x ∈ t.mode.acmp.toList)))

/-! ## Host ports (04) -/

/-- 04 R119, R120, Table 4-9: the four resets put a port's rings, interrupts and orders back and touch no other port, but for a
PORT_RELEASE of the port that waits, which fails with CONFLICT (R124, R128); the
sticky error bits and controls and the votes stay, and through an FLR also Max_Payload_Size and the L1 controls (log 12).
PERST# and the hot reset take the link down, an FLR answers with Retry Status until
it completes. -/
def Obligations.PortResetsClearOneSide : Prop :=
  (∀ s p, portEnabled s p = true →
    let cleared := fun (t : State) (c : CfgSpace) =>
      (∀ r, t.ring p r = Ring.init) ∧ (t.port p).withheld = [] ∧ (t.port p).cstate = .run ∧ (t.port p).intStat = 0 ∧
      (t.port p).cfg = c ∧
      (t.port p).aerUnc = (s.port p).aerUnc ∧ (t.port p).aerCor = (s.port p).aerCor ∧ (t.port p).vote = (s.port p).vote ∧
      ((s.port p).relReq = none → (s.port (otherPort p)).relReq = none →
        t.port (otherPort p) = s.port (otherPort p)) ∧
      (∀ g f k, (s.port p).relReq = some (g, some f) → f.p ≠ p → s.taken? f = some k → k.stage ≠ .finished →
        t.taken? f = some { k with stage := .finished, status := Status.conflict, reply := [] }) ∧ t.out = s.out ∧ t.root = s.root ∧ t.jnl = s.jnl ∧
      (∀ o ∈ t.gate.orders, resetDrops p o = false) ∧ (∀ a ∈ t.gate.late, lateOf p a = false) ∧ portBufs t.staging p = 0
    let old := (s.port p).cfg
    let fresh := { CfgSpace.init old.subVendor old.subId with
      uncMask := old.uncMask, uncSev := old.uncSev, corMask := old.corMask, ecrcGen := old.ecrcGen, ecrcChk := old.ecrcChk }
    ((s.port p).perst = false → Yields (.perstAssert p) s fun t =>
      cleared t fresh ∧ (t.port p).perst = true ∧ (t.port p).linkUp = false ∧ (t.port p).refclk = false) ∧
    (linkLive s p = true → Yields (.hotReset p) s fun t =>
      cleared t fresh ∧ (t.port p).linkUp = false ∧ (t.port p).perst = (s.port p).perst) ∧
    (linkLive s p = true → (s.port p).crs = false → Yields (.flr p) s fun t =>
      cleared t { fresh with
        mps := old.mps, aspmL1 := old.aspmL1, l11En := old.l11En, l12En := old.l12En, l12Thr := old.l12Thr } ∧
      (t.port p).crs = true ∧ (t.port p).linkUp = true)) ∧
  (∀ s p, (s.port p).crs = true → Yields (.flrComplete p) s fun t =>
    t = s.modPort p fun q => { q with crs := false }) ∧
  (∀ s p b, portEnabled s p = true → (s.port p).perst = true → s.mode.mode ≠ .drowse → Yields (.perstDeassert p b) s fun t =>
    t = s.modPort p fun q => { q with perst := false, refclk := b }) ∧
  (∀ s p b, portEnabled s p = true → (s.port p).perst = true → s.mode.mode = .drowse → s.mode.plan = none →
    Yields (.perstDeassert p b) s fun t => (t.mode.plan.map (·.kind)) = some .wake ∧ (t.port p).perst = false)

/-- 04 R100, R117, R118, R465: the link comes up, enters and leaves L1 and L1.2, the port enters D3hot once no order
of it is in flight and returns to D0 at a commit point, and Bus Master Enable follows its write; a write of PowerState
after the Intake phase waits for the next one (00 R8), and D0 cancels a D3hot write that waits, the model's choice (log
entry 67). Nothing else of the port changes but that a TLP has passed. 04
R112 to R116: at a commit point a due vector is sent as an MSI-X message, kept pending while it is masked, or shown in
INT_STAT; a changed latency level is reported once, 64 frames apart. 04 "PCI-compatible configuration space",
"Capabilities": a configuration write reaches the writable fields of its doubleword, clears the error status bits
written as 1, and changes nothing else; while the port does not answer it changes nothing; the header and the
capabilities read as Tables 4-2 and 4-3 give them. The places of the fields are the model's (log 12). -/
def Obligations.LinkEventsAndMessagesOfAPort : Prop :=
  (∀ s p, (∀ b, configOpen s p = true → Yields (.busMasterEnable p b) s fun t =>
        t = s.modPort p fun q => { sawTlp s.clock.frame q with
          cfg := { q.cfg with bme := b },
          bmeSince := if b = false then none else if q.cfg.bme then q.bmeSince
            else some (if s.clock.phase = .intake then s.clock.frame else s.clock.frame + 1) }) ∧
      (portEnabled s p = true → (s.port p).phy = true → (s.port p).perst = false → (s.port p).linkUp = false →
        ∀ speed width, Yields (.linkUp ⟨p, speed, width⟩) s fun t => t = s.modPort p fun q => { q with
          linkUp := true, linkSpeed := BitVec.ofNat 4 (min 4 (max 1 speed)),
          linkWidth := BitVec.ofNat 6 (min (if s.supply.strap then 2 else 4) (max 1 width)) }) ∧
      (configOpen s p = true → s.clock.phase = .intake ∨ s.clock.phase = .commit → (s.port p).d3 = false →
        Yields (.d3hotWrite p) s fun t => t = s.modPort p fun q => { sawTlp s.clock.frame q with d3Pend := true }) ∧
      (configOpen s p = true → s.clock.phase = .plan ∨ s.clock.phase = .dispatch →
        (Yields (.d3hotWrite p) s fun t => t.port p = sawTlp s.clock.frame (s.port p) ∧
          t.gate = { s.gate with late := s.gate.late ++ [.power p true] } ∧ t.port (otherPort p) = s.port (otherPort p)) ∧
        (Yields (.d0Return p) s fun t => t.port p = sawTlp s.clock.frame (s.port p) ∧
          t.gate = { s.gate with late := s.gate.late ++ [.power p false] } ∧
          t.port (otherPort p) = s.port (otherPort p))) ∧
      (s.clock.phase = .commit → (s.port p).d3Pend = true → portQuiet (s.port p) = true → Yields (.d3hotEntry p) s fun t =>
        t = s.modPort p fun q => { q with d3 := true, d3Pend := false, l1 := true, l11 := false, l12 := false }) ∧
      (portQuiet (s.port p) = false → Yields (.d3hotEntry p) s fun t => t = s) ∧
      (configOpen s p = true → s.clock.phase = .intake ∨ s.clock.phase = .commit → Yields (.d0Return p) s fun t =>
        t.port p = { sawTlp s.clock.frame (s.port p) with d3Pend := false } ∧
        t.port (otherPort p) = s.port (otherPort p) ∧
        t.gate.orders = s.gate.orders ++ (if (s.port p).d3 then [.d0 p] else [])) ∧
      releaseOrder s (.d0 p) = (s.modPort p fun q => { q with d3 := false, l1 := if q.d3 then false else q.l1 }) ∧
      (linkLive s p = true → (s.port p).cfg.aspmL1 = true → (s.port p).l1 = false → (s.port p).reads = [] →
        (s.port p).cstate = .run → pollSoon s p = false →
        (∀ f, (s.port p).lastTlp = some f → f + (s.port p).pwrIdle.toNat ≤ s.clock.frame) → Yields (.aspmL1Request p) s fun t =>
          (t.port p).l1 = true ∧ t.out = s.out ++ [.l1Request p] ∧ t.gate = s.gate) ∧
      (linkLive s p = true → (s.port p).l1 = true → (s.port p).l12 = false → (s.port p).d3 = false →
        (s.port p).cfg.l12En = true → (s.port p).ltr ≠ 0 →
        ((s.port p).cfg.l12Thr.extractLsb' 0 10).toNat * 32 ^ ((s.port p).cfg.l12Thr.extractLsb' 10 3).toNat <
          (ltrCode (s.port p).ltr).1 * 32 ^ (ltrCode (s.port p).ltr).2 →
        Yields (.linkL12Entry p) s fun t => t = s.modPort p fun q => { q with l11 := false, l12 := true }) ∧
      (((s.port p).ltr = 0 ∨ (ltrCode (s.port p).ltr).1 * 32 ^ (ltrCode (s.port p).ltr).2 ≤
          ((s.port p).cfg.l12Thr.extractLsb' 0 10).toNat * 32 ^ ((s.port p).cfg.l12Thr.extractLsb' 10 3).toNat) →
        ((s.port p).cfg.l11En = false → Yields (.linkL12Entry p) s fun t => t = s) ∧
        ((s.port p).cfg.l11En = true → linkLive s p = true → (s.port p).l1 = true → (s.port p).l12 = false →
          (s.port p).d3 = false → Yields (.linkL12Entry p) s fun t => t = s.modPort p fun q => { q with l11 := true })) ∧
      ((s.port p).l12 = true → s.mode.mode ≠ .drowse → Yields (.linkL12Exit p) s fun t =>
        t = s.modPort p fun q => { q with l1 := false, l11 := false, l12 := false }) ∧
      ((s.port p).l12 = true → s.mode.mode = .drowse → s.mode.plan = none → Yields (.linkL12Exit p) s fun t =>
        (t.mode.plan.map (·.kind)) = some .wake ∧ (t.port p).l12 = false)) ∧
  ((∀ s p v, s.clock.phase = .commit → portEnabled s p = true → s.mode.mode ≠ .start →
      messageDue (s.port p) v s.clock.frame = true → (s.port p).msix[v.val].addr.toNat % 4 = 0 →
      ((s.port p).cfg.msixEn = true → vecMasked (s.port p) v = false → (s.port p).perst = false → (s.port p).crs = false →
        (s.port p).cstate = .run → masters (s.port p) s.clock.frame = true → (s.port p).withheld = [] →
        Yields (.interruptMessage p v) s fun t =>
          t.out = s.out ++ [.hostWrite p { kind := .message, addr := (s.port p).msix[v.val].addr.toNat,
                                           data := dwBytes (s.port p).msix[v.val].data, vec := some v }
            { ro := false, ns := false, ido := false }] ∧
          (t.port p).pba.getLsbD v.val = false ∧ (t.port p).causes[v.val].n = 0 ∧
          (∀ w : VecN, w ≠ v → (t.port p).causes[w.val] = (s.port p).causes[w.val]) ∧ t.gate = s.gate) ∧
      ((s.port p).cfg.msixEn = true → vecMasked (s.port p) v = true → Yields (.interruptMessage p v) s fun t =>
          (t.port p).pba.getLsbD v.val = true ∧ t.out = s.out ∧ (t.port p).causes[v.val].n = 0) ∧
      ((s.port p).cfg.msixEn = false → Yields (.interruptMessage p v) s fun t =>
          (t.port p).intStat = (s.port p).intStat ||| vecBit v ∧ (t.port p).causes[v.val].n = 0)) ∧
    (∀ s p, s.clock.phase = .commit → linkLive s p = true → (s.port p).cfg.ltrEn = true → (s.port p).cstate = .run →
      s.mode.mode ≠ .start → s.mode.mode ≠ .lockdown → ltrLevel s p ≠ 0 → ltrLevel s p ≠ (s.port p).ltr →
      (∀ f, (s.port p).ltrFrame = some f → f + 64 ≤ s.clock.frame) → Yields (.ltrMessage p) s fun t =>
        t.out = s.out ++ [.ltr p (ltrCode (ltrLevel s p)).1 (ltrCode (ltrLevel s p)).2 true] ∧ (t.port p).ltr = ltrLevel s p ∧
        (t.port p).ltrFrame = some s.clock.frame)) ∧
  (∀ s p (v : W32),
      (let writes : Nat → (CfgSpace → CfgSpace) → Prop := fun off g =>
         Yields (.registerWrite p (.config off) v) s fun t =>
           t = s.modPort p fun q => { sawTlp s.clock.frame q with cfg := g q.cfg }
       configOpen s p = true →
         Yields (.registerWrite p (.config 0x004) v) s (fun t => t = s.modPort p fun q => { sawTlp s.clock.frame q with
           cfg := { q.cfg with
             mse := v.getLsbD 1, perr := v.getLsbD 6, serr := v.getLsbD 8, intxDis := v.getLsbD 10 },
           pciStat := q.pciStat &&& ~~~(v.extractLsb' 16 16) }) ∧
         (∀ c, (s.port p).cfg = c → Yields (.registerWrite p (.config 0x010) v) s fun t =>
           (t.port p).cfg.bar0.extractLsb' 0 32 = (v &&& 0xFFFF0000) ||| 4 ∧
           (t.port p).cfg.bar0.extractLsb' 32 32 = c.bar0.extractLsb' 32 32 ∧
           { (t.port p).cfg with bar0 := c.bar0 } = c ∧ t.port (otherPort p) = s.port (otherPort p) ∧ OnlyPorts s t) ∧
         (∀ c, (s.port p).cfg = c → Yields (.registerWrite p (.config 0x014) v) s fun t =>
           (t.port p).cfg.bar0.extractLsb' 32 32 = v ∧
           (t.port p).cfg.bar0.extractLsb' 0 32 = c.bar0.extractLsb' 0 32 ∧
           { (t.port p).cfg with bar0 := c.bar0 } = c ∧ t.port (otherPort p) = s.port (otherPort p) ∧ OnlyPorts s t) ∧
         writes 0x03C (fun c => { c with intLine := v.extractLsb' 0 8 }) ∧
         Yields (.registerWrite p (.config 0x058) v) s (fun t => t = s.modPort p fun q => { sawTlp s.clock.frame q with
           cfg := { q.cfg with
             errRep := v.extractLsb' 0 4, roEn := v.getLsbD 4, mps := v.extractLsb' 5 3, extTag := v.getLsbD 8,
             nsEn := v.getLsbD 11, mrrs := v.extractLsb' 12 3 },
           devStat := q.devStat &&& ~~~(v.extractLsb' 16 4) }) ∧
         writes 0x060 (fun c => { c with aspmL1 := v.getLsbD 1, linkCtl := v.extractLsb' 0 16 &&& 0x01C0 }) ∧
         writes 0x078 (fun c => { c with
           cto := v.extractLsb' 0 4, idoReq := v.getLsbD 8, idoCpl := v.getLsbD 9, ltrEn := v.getLsbD 10 }) ∧
         writes 0x118 (fun c => { c with ecrcGen := v.getLsbD 6, ecrcChk := v.getLsbD 8 }) ∧
         Yields (.registerWrite p (.config 0x104) v) s (fun t => t = s.modPort p fun q => { sawTlp s.clock.frame q with aerUnc := q.aerUnc &&& ~~~v }) ∧
         Yields (.registerWrite p (.config 0x110) v) s (fun t => t = s.modPort p fun q => { sawTlp s.clock.frame q with aerCor := q.aerCor &&& ~~~v }) ∧
         writes 0x158 (fun c => { c with
           l12En := v.getLsbD 2, l11En := v.getLsbD 3, l12Thr := v.extractLsb' 29 3 ++ v.extractLsb' 16 10 })) ∧
      (configOpen s p = false → ∀ off, Yields (.registerWrite p (.config off) v) s fun t => t = s) ∧
      (configOpen s p = true → configRead s p 0x000 = some 0x06361D9B ∧ configRead s p 0x008 = some 0x01040001 ∧
        configRead s p 0x034 = some 0x40 ∧ configRead s p 0x00C = some 0 ∧
        configRead s p 0x02C = some ((s.port p).cfg.subId ++ (s.port p).cfg.subVendor) ∧
        configRead s p 0x0B4 = some 0x3000 ∧ configRead s p 0x0B8 = some 0x3800 ∧
        (∀ t, exec (.registerWrite p (.config 0x010) v) s = .next t → configRead t p 0x010 = some ((v &&& 0xFFFF0000) ||| 4)) ∧
        (∀ t, exec (.registerWrite p (.config 0x014) v) s = .next t → configRead t p 0x014 = some v) ∧
        (∀ t, exec (.registerWrite p (.config 0x108) v) s = .next t → configRead t p 0x108 = some v) ∧
        (∀ t, exec (.registerWrite p (.config 0x104) v) s = .next t → configRead t p 0x104 = some ((s.port p).aerUnc &&& ~~~v)) ∧
        (∀ t, exec (.registerWrite p (.config 0x058) v) s = .next t →
          (configRead t p 0x058).map (fun w => w.extractLsb' 0 16) = some (v.extractLsb' 0 16 &&& 0x79FF)) ∧
        (configRead s p 0x060).map (fun w => w.extractLsb' 16 4) = some (s.port p).linkSpeed ∧
        (configRead s p 0x060).map (fun w => w.extractLsb' 20 6) = some (s.port p).linkWidth ∧
        (configRead s p 0x060).map (fun w => w.getLsbD 28) = some (s.port p).refclk ∧
        (configRead s p 0x004).map (fun w => w.getLsbD 19) = some (s.port p).intx ∧
        (∀ t, s.supply.strap = false → v.extractLsb' 3 3 = 1 → v.extractLsb' 8 8 = 0x8A →
          exec (.registerWrite p (.config 0x1A8) v) s = .next t →
          configRead t p 0x1A8 = some (((16 : BitVec 8) ++ v.extractLsb' 0 8) ++ v.extractLsb' 0 16))))

/-- 04 R106, R121 to R127, Tables 4-10 and 4-11: an uncorrectable error that contains the port freezes its orders at
once and is counted, its entries without a committed write-class order are rolled back and the others stay; a
correctable one is recorded and reported. 04 R122 to R125: a contained port goes to HOLD at a later
commit point with nothing of it in flight, and tells the other port; a release requested before this frame returns it
to RUN, with its unfrozen rings frozen by PORT_CONTAINED. A withheld message is sent only where its
cause still stands (R130). 04 R124, R127: PORT_RELEASE of an enabled port that may be
released records the request and waits for the release; of it and that port's PORT_REL in one frame the port that comes
first in the frame's order (01 R26) performs the release and the other is refused; otherwise it fails with CONFLICT. -/
def Obligations.ContainmentHoldsOnePortUntilItsRelease : Prop :=
  ((∀ s p c h, linkLive s p = true → Yields (.portError p (.correctable c) h) s fun t =>
      (t.port p).aerCor = (s.port p).aerCor ||| BitVec.ofNat 32 (2 ^ corBit c) ∧ (t.port p).devStat = (s.port p).devStat ||| 1 ∧
      (t.port p).cstate = (s.port p).cstate ∧ t.port (otherPort p) = s.port (otherPort p) ∧ OnlySends s t ∧
      t.out = s.out ++ (if (s.port p).cfg.errRep.getLsbD 0 && !(s.port p).cfg.corMask.getLsbD (corBit c) &&
        (s.port p).cstate == .run then [.errMsg p .cor] else [])) ∧
    (∀ s p e h c, linkLive s p = true → (uncorBit e).2 = some c → (s.port p).cstate = .run →
      (∀ x, e ≠ .correctable x) → Yields (.portError p e h) s fun t =>
        (t.port p).cstate = .freeze ∧ (t.port p).ccause = BitVec.ofNat 8 c ∧ (t.port p).ccount = satInc (s.port p).ccount ∧
        (t.port p).contFrame = s.clock.frame ∧ (t.port p).aerUnc.getLsbD (uncorBit e).1 = true ∧
        (∀ r, (t.ring p r).known = [] ∧ (t.ring p r).passed = (s.ring p r).passed) ∧
        ((s.port (otherPort p)).relReq = none → t.port (otherPort p) = s.port (otherPort p)) ∧
        t.log.raised = s.log.raised ++ [containRecord p c h 0] ∧ t.jnl = s.jnl ∧ t.out = s.out ∧
        (∀ f k, f.p = p → s.taken? f = some k → k.done = false → k.committed = false → k.stage ≠ .journal →
          k.stage ≠ .finished → k.stage ≠ .dropped → (s.ring p f.r).state ≠ .resetting →
          (t.taken? f).map (·.stage) = some .refetch) ∧
        (∀ f k, f.p = p → s.taken? f = some k → (k.done = true ∨ k.committed = true ∨ k.stage = .finished) →
          t.taken? f = some k)) ∧
    (∀ s p, linkLive s p = true → (s.port p).cstate = .run → Yields (.surpriseLinkDown p) s fun t =>
      (t.port p).cstate = .freeze ∧ (t.port p).ccause = 2 ∧ (t.port p).linkUp = false ∧
      ((s.port (otherPort p)).relReq = none → t.port (otherPort p) = s.port (otherPort p))) ∧
    (∀ s p, linkLive s p = true → readsOut (s.port p) ≠ 0 → (s.port p).cstate = .run → Yields (.completionTimeout p) s fun t =>
      (t.port p).cstate = .freeze ∧ (t.port p).ccause = 4 ∧ (t.port p).aerUnc.getLsbD 14 = true ∧
      ((s.port (otherPort p)).relReq = none → t.port (otherPort p) = s.port (otherPort p)))) ∧
  ((∀ s p, (s.port p).cstate = .freeze → containedQuiet (s.port p) = true → gateOpen s = true →
      quietSince (s.port p) s.clock.frame = true → Yields (.containmentHold p) s fun t =>
        (t.port p).cstate = .hold ∧ t.clock = s.clock ∧ t.root = s.root) ∧
    (∀ s p f x, (s.port p).cstate = .hold → (s.port p).relReq = some (f, x) → f < s.clock.frame → gateOpen s = true →
      Yields (.containmentRelease p) s fun t =>
        (t.port p).cstate = .run ∧ (t.port p).relReq = none ∧
        (masters (s.port p) s.clock.frame = true → (t.port p).withheld = []) ∧
        (∀ w ∈ (s.port p).withheld, ∀ v, w.kind = .message → w.vec = some v → (s.port p).cfg.msixEn = true →
          vecMasked (s.port p) v = true → (t.port p).pba.getLsbD v.val = true) ∧
        (∀ r, (s.ring p r).state = .run ∨ (s.ring p r).state = .resetting → (t.ring p r).state = .frozen ∧ (t.ring p r).errStatus = Status.portContained) ∧
        t.clock = s.clock ∧ t.root = s.root) ∧
    (∀ s p, (s.port p).relReq = none → Yields (.containmentRelease p) s fun t => t = s)) ∧
  (∀ s p i k, AtVisit s p i 0x15 k →
      let q : Port := if (Entry.arg k.head).getLsbD 0 then .b else .a
      let mayRelease := s.mode.mode ≠ .freeze ∧ s.mode.mode ≠ .lockdown ∧ portEnabled s q = true ∧
        (s.port q).cstate = .hold ∧ (s.port q).linkUp = true
      let first := (portOrder s.clock.frame).head? = some p
      (mayRelease → (s.port q).relReq = none → Yields (.portRelease p i) s fun t =>
        (t.port q).relReq = some (s.clock.frame, some { p := p, r := 0, i := i }) ∧
        (t.taken? { p := p, r := 0, i := i }).map (·.stage) = some .exec ∧ (t.port q).cstate = (s.port q).cstate ∧
        OnlyPorts s t) ∧
      (mayRelease → (s.port q).relReq = some (s.clock.frame, none) → first → Yields (.portRelease p i) s fun t =>
        (t.port q).relReq = some (s.clock.frame, some { p := p, r := 0, i := i }) ∧
        (t.taken? { p := p, r := 0, i := i }).map (·.stage) = some .exec ∧
        t.gate.orders = s.gate.orders ++ [.wrej q .port]) ∧
      (mayRelease → (∃ g x, (s.port q).relReq = some (g, x) ∧ (x ≠ none ∨ g ≠ s.clock.frame ∨ ¬ first)) →
        Answers (.portRelease p i) s p i k Status.conflict []) ∧
      (s.mode.mode ≠ .freeze → s.mode.mode ≠ .lockdown →
        (portEnabled s q = false ∨ (s.port q).cstate ≠ .hold ∨ (s.port q).linkUp = false) →
        Answers (.portRelease p i) s p i k Status.conflict []) ∧
      (s.mode.mode = .freeze ∨ s.mode.mode = .lockdown → Answers (.portRelease p i) s p i k Status.badMode []))

/-! ## Members (09 R263 to R281, R464, 14 R439 to R442) -/

/-- Of the slots only the one named changes. -/
abbrev Sys2Proof.OnlySlot (s t : State) (m : SlotN) : Prop := ∀ n, n ≠ m → t.slot n = s.slot n

/-- 09 R267, R268, 14 R439, R440: an inserted drive's bring-up begins at step 2, and its rail goes on at a commit point, or
the slot waits for the rail's limit; of two that begin together the higher one's comes 500 F later, and of two power-downs
the lower one's; a slot whose port failed in Start (03 R72) stays as it is; an empty one's removal leaves EMPTY. 09 R265, R267,
R278: bring-up's steps follow one another, PERST# stays asserted for 10 000 F in step 3, step 4 is retried once after a PERST#
pulse, both superblock copies unreadable or another overrun of a step's limit is FAILED, and a Format NVM
makes the format acceptable or fails its command with SLOT_STATE. 09 R269: a slot powers down in order, from its frame on:
its orders, flush and shutdown; PERST#; the clock 100 F later; the rail 100 F after that. 03 R83, R87: in Start a waiting slot is powered only in S6 while
another slot has not finished, and no bring-up goes on in a halt. -/
def Obligations.SlotsComeUpAndGoDownInOrder : Prop :=
  ((∀ s m, presenceActs s = true → s.mode.mode ≠ .drowse → (s.slot m).present = false → (s.slot m).state ≠ .member →
      s.start.memberBad.getLsbD m.val = false → Yields (.presenceChange m true) s fun t =>
        (t.slot m).present = true ∧ (t.slot m).state = .bringup ∧ (t.slot m).step = 2 ∧
        (t.slot m).rail = false ∧ (t.slot m).starting = some none ∧ OnlySlot s t m ∧ t.array = s.array) ∧
    (∀ s m, (s.slot m).starting = some none → (∀ n, (s.slot n).pd = none ∧ (n ≠ m → (s.slot n).starting = none)) →
      ∃ t, t = settleSlots s ∧ OnlySlot s t m ∧
        (railFits s = true → t.slot m = { s.slot m with
          rail := true, limit := 10, waiting := false, starting := none, since := s.clock.frame }) ∧
        (railFits s = false → (t.slot m).rail = (s.slot m).rail ∧ (t.slot m).waiting = true ∧ (t.slot m).starting = none)) ∧
    (∀ s m n, m.val < n.val → (s.slot m).starting = some none → (s.slot n).starting = some none →
      (∀ x, (s.slot x).pd = none ∧ (x ≠ m → x ≠ n → (s.slot x).starting = none)) → ∃ t, t = settleSlots s ∧
        t.slot n = { s.slot n with starting := some (some (s.clock.frame + 500)) } ∧ (t.slot m).starting = none ∧
        (railFits s = true → (t.slot m).rail = true)) ∧
    (∀ s m n k l, m.val < n.val → (s.slot m).pd = some { step := k, due := none } →
      (s.slot n).pd = some { step := l, due := none } →
      (∀ x, (s.slot x).starting = none ∧ (x ≠ m → x ≠ n → (s.slot x).pd = none)) → ∃ t, t = settleSlots s ∧
        t.slot n = { s.slot n with pd := some { step := l, due := some s.clock.frame } } ∧
        t.slot m = { s.slot m with pd := some { step := k, due := some (s.clock.frame + 500) } }) ∧
    (∀ s m, presenceActs s = true → s.mode.mode ≠ .drowse → (s.slot m).present = false →
      s.start.memberBad.getLsbD m.val = true → Yields (.presenceChange m true) s fun t =>
        t = s.modSlot m fun x => { x with present := true }) ∧
    (∀ s m, presenceActs s = true → s.mode.mode ≠ .drowse → (s.slot m).present = true → posOfSlot s m = none →
      Yields (.presenceChange m false) s fun t =>
        (t.slot m).present = false ∧ (t.slot m).state = .empty ∧ (t.slot m).step = 0 ∧ OnlySlot s t m ∧
        t.array = s.array) ∧
    (∀ s m, (s.slot m).waiting = true → railFits s = true → (∀ n : SlotN, n.val < m.val → (s.slot n).waiting = false) →
      (s.mode.mode ≠ .start ∨ (runsS6 s = true ∧ othersFinished s m = false)) → Yields (.slotPowerWaitEnd m) s fun t =>
        t.slot m = { s.slot m with
          rail := true, limit := 10, waiting := false, starting := none, since := s.clock.frame } ∧ OnlySlot s t m ∧
        (t.slot m).state = (s.slot m).state)) ∧
  ((∀ s m, (s.slot m).state = .bringup → (s.slot m).rail = true → (s.mode.mode = .start → s.start.halt = false) →
      ((s.slot m).step = 2 → Yields (.bringupStepDone m .plain) s fun t =>
        t = s.modSlot m fun x => { x with step := 3, refclk := true, since := s.clock.frame }) ∧
      ((s.slot m).step = 3 → (s.slot m).since + 10000 ≤ s.clock.frame → Yields (.bringupStepDone m .plain) s fun t =>
        t = s.modSlot m fun x => { x with step := 4, perst := false, since := s.clock.frame }) ∧
      ((s.slot m).step = 3 → s.clock.frame < (s.slot m).since + 10000 → Yields (.bringupStepDone m .plain) s fun t =>
        t = s) ∧
      ((s.slot m).step = 4 → Yields (.bringupStepDone m .plain) s fun t =>
        t = s.modSlot m fun x => { x with step := 5, since := s.clock.frame }) ∧
      ((s.slot m).step = 5 → Yields (.bringupStepDone m .plain) s fun t =>
        t = s.modSlot m fun x => { x with step := 6, since := s.clock.frame }) ∧
      (∀ d, (s.slot m).step = 6 → d.queues ≠ 0 → 64 < d.blocks → d.formatOk = true →
        Yields (.bringupStepDone m (.identified d)) s fun t =>
          t.slot m = { s.slot m with drive := some d, limit := limitFor s m d, step := 7, since := s.clock.frame } ∧ OnlySlot s t m) ∧
      (∀ d, (s.slot m).step = 6 → d.queues = 0 → posOfSlot s m = none →
        Yields (.bringupStepDone m (.identified d)) s fun t =>
          (t.slot m).state = .unsuitable ∧ (t.slot m).step = 8 ∧ OnlySlot s t m) ∧
      ((s.slot m).step = 7 → posOfSlot s m = none → Yields (.bringupStepDone m (.superblocks { a := none, b := none })) s
        fun t => (t.slot m).state = .failed ∧ (t.slot m).pd = some { step := 1, due := none } ∧ OnlySlot s t m) ∧
      (∀ c, (s.slot m).step = 7 → posOfSlot s m = none → (c.a.isSome = true ∨ c.b.isSome = true) → s.mode.mode = .start →
        Yields (.bringupStepDone m (.superblocks c)) s fun t =>
          (t.slot m).state = .spare ∧ (t.slot m).step = 8 ∧ (t.slot m).sb = currentSb c ∧ OnlySlot s t m) ∧
      ((s.slot m).step = 4 → (s.slot m).retried = false → (s.slot m).since + 10000 ≤ s.clock.frame →
        Yields (.bringupStepOverrun m) s fun t =>
          t = s.modSlot m fun x => { x with retried := true, step := 3, perst := true, since := s.clock.frame }) ∧
      (((s.slot m).step ≠ 4 ∨ (s.slot m).retried = true) → stepOver s m = true → posOfSlot s m = none →
        Yields (.bringupStepOverrun m) s fun t => (t.slot m).state = .failed ∧ OnlySlot s t m) ∧
      (stepOver s m = false → Yields (.bringupStepOverrun m) s fun t => t = s)) ∧
    (∀ s m d, (s.slot m).format = true → (s.slot m).drive = some d → Yields (.formatNvmDone m true) s fun t =>
      t.slot m = { s.slot m with format := false, drive := some { d with formatOk := true } } ∧ OnlySlot s t m) ∧
    (∀ s m p i k, (s.slot m).format = true → s.taken? { p := p, r := 0, i := i } = some k → k.stage = .format →
      Yields (.formatNvmDone m false) s fun t =>
        (t.slot m).state = .failed ∧ (t.slot m).format = false ∧ EndsWith t p i k Status.slotState [] ∧ OnlySlot s t m)) ∧
  (∀ s m d, (s.slot m).pd = some d → (∀ f, d.due = some f → s.clock.frame < f) → Yields (.slotPowerDownStep m) s fun t =>
      t = s) ∧
  (∀ s m d due, (s.slot m).pd = some d → d.due = some due → due ≤ s.clock.frame →
      (d.step = 0 → slotBusy s m = true → Yields (.slotPowerDownStep m) s fun t => t = s) ∧
      (d.step = 0 → slotBusy s m = false → Yields (.slotPowerDownStep m) s fun t =>
        t.out = s.out ++ [.member m .flush, .member m .shutdown] ∧ (t.slot m).pd = some { step := 1, due := some s.clock.frame } ∧
        (t.slot m).rail = (s.slot m).rail ∧ OnlySlot s t m) ∧
      (d.step = 1 → Yields (.slotPowerDownStep m) s fun t =>
        t = s.modSlot m fun x => { x with perst := true, pd := some { step := 2, due := some (s.clock.frame + 100) } }) ∧
      (d.step = 2 → Yields (.slotPowerDownStep m) s fun t =>
        t = s.modSlot m fun x => { x with refclk := false, pd := some { step := 3, due := some (s.clock.frame + 100) } }) ∧
      (3 ≤ d.step → Yields (.slotPowerDownStep m) s fun t =>
        t = s.modSlot m fun x => { x with rail := false, limit := 0, pd := none, step := 0 }))

/-- 01 R19, 09 R275: a completed member read brings its block to the command that waits for it and a completed write
ends for its shift; an error status other than Unrecovered Read is retried once with the same command, which goes out in the next
Dispatch phase. A completion is observed in an Intake phase of a later frame than the dispatch; before that it changes
nothing. A write whose
data window failed its MAC (10 Table 10-5) is sent once more, and the second time its block enters the lost-unit map.
09 Table 9-6: a read of a window that meets an unrecovered error is read again block by block.
09 R275, R464: a command that is overdue, be it an admin command of a ready member, starts the recovery ladder with the
controller reset, a link that drops at its second rung, which asserts PERST#; the third switches the rail off and on;
outstanding commands are held and go out again after the rung that succeeds. -/
def Obligations.MemberCommandsCompleteOrGoThroughTheLadder : Prop :=
  ((∀ s o b f n k it bs, s.morders.find? (fun x => x.id == o.id && x.answered s) = some o → o.cmd = .read b 1 →
      o.owner = .item f n → s.taken? f = some k → k.items[n]? = some it → Yields (.memberReadCompletion o.id .ok [some bs]) s
      fun t =>
        ((t.taken? f).bind fun x => x.items[n]?) = some { it with data := some bs, lost := false } ∧
        (∀ x ∈ t.morders, x.id ≠ o.id) ∧ (∀ j, j ≠ n → ((t.taken? f).bind fun x => x.items[j]?) = k.items[j]?) ∧
        t.jnl = s.jnl ∧ t.slots = s.slots) ∧
    (∀ s o b n data, s.morders.find? (fun x => x.id == o.id && x.answered s) = some o → o.cmd = .read b n → o.retried = false →
      (recent s (s.slot o.slot).errs).length < 15 → Yields (.memberReadCompletion o.id .otherError data) s fun t =>
        t.out = s.out ∧ (∀ x ∈ t.morders, x.id = o.id → x.retried = true ∧ x.sent = none) ∧
        t.morders.length = s.morders.length ∧ (t.slot o.slot).errs = recent s (s.slot o.slot).errs ++ [s.clock.frame]) ∧
    (∀ s o b n id p data, s.morders.find? (fun x => x.id == o.id && x.answered s) = some o → o.cmd = .read b n → 1 < n →
      o.owner = .shift id p → Yields (.memberReadCompletion o.id .unrecovered data) s fun t =>
        t.morders.length = (s.morders.filter fun x => x.id != o.id).length + n ∧
        (∀ i, i < n → ∃ x ∈ t.morders, x.cmd = .read (b + i) 1 ∧ x.owner = .part id p i ∧ x.slot = o.slot ∧ x.sent = none) ∧
        t.shifts = s.shifts ∧ t.slots = s.slots) ∧
    (∀ s o b data id p, s.morders.find? (fun y => y.id == o.id && y.answered s) = some o → o.cmd = .write b data →
      o.owner = .shift id p → Yields (.memberWriteCompletion o.id .ok) s fun t =>
        t.shifts = (s.shifts.map fun x => if x.id = id then
          { x with writesLeft := x.writesLeft - 1, endAt := max x.endAt (obsFrame s) } else x) ∧ (∀ y ∈ t.morders, y.id ≠ o.id) ∧ t.slots = s.slots) ∧
    (∀ s o b data q, s.morders.find? (fun y => y.id == o.id && y.answered s) = some o → o.cmd = .write b data →
      posOfSlot s o.slot = some q → Yields (.memberWriteCompletion o.id .otherError) s fun t =>
        (t.slot o.slot).state = .failed ∧ (t.array.map fun a => (posEntry a q).state) = some .missing) ∧
    (∀ s o b data id p, s.morders.find? (fun y => y.id == o.id && y.answered s) = some o → o.cmd = .write b data →
      o.owner = .shift id p → o.retried = false → Yields (.memberWriteCompletion o.id .windowMac) s fun t =>
        t.out = s.out ∧ (∀ x ∈ t.morders, x.id = o.id → x.retried = true ∧ x.sent = none) ∧
        t.morders.length = s.morders.length ∧ t.shifts = s.shifts ∧ t.jnl = s.jnl) ∧
    (∀ s o b data id p, s.morders.find? (fun y => y.id == o.id && y.answered s) = some o → o.cmd = .write b data →
      o.owner = .shift id p → o.retried = true → s.jnl.lost = [] → data.length = blockBytes →
      0 < arrayU s → Yields (.memberWriteCompletion o.id .windowMac) s fun t =>
        t.shifts = (s.shifts.map fun x => if x.id = id then
          { x with writesLeft := x.writesLeft - 1, written := x.written.erase p, failed := true,
                   endAt := max x.endAt (obsFrame s) } else x) ∧
        (∀ y ∈ t.morders, y.id ≠ o.id) ∧ t.slots = s.slots ∧
        t.jnl.lost = [{ row := (b - 64) / arrayU s, pos := p,
                        good := (List.range (arrayU s)).filter (fun c => c != (b - 64) % arrayU s) }])) ∧
  ((∀ s m q, (s.slot m).ladder = none → (slotBusy s m = true ∨ (s.slot m).state = .member ∧ (s.slot m).step = 8) →
      posOfSlot s m = some q →
      (recent s (s.slot m).rungs).length < 3 → Yields (.memberCommandTimeout m) s fun t =>
        (t.slot m).ladder = some { rung := 1, link := false } ∧ (t.slot m).perst = (s.slot m).perst ∧ t.out = s.out ++ [.member m .controllerReset] ∧
        (∀ o ∈ t.morders, o.slot = m → o.held = true) ∧ t.morders.length = s.morders.length ∧ OnlySlot s t m) ∧
    (∀ s m q, (s.slot m).ladder = none → (s.slot m).state = .member → (s.slot m).step = 8 → posOfSlot s m = some q →
      (recent s (s.slot m).rungs).length < 3 → Yields (.memberLinkDown m) s fun t =>
        (t.slot m).ladder = some { rung := 2, link := true } ∧ (t.slot m).perst = true ∧ t.out = s.out ∧
        (∀ o ∈ t.morders, o.slot = m → o.held = true)) ∧
    (∀ s m l ser, (s.slot m).ladder = some l → l.rung < 3 → Yields (.ladderRungDone m true ser) s fun t =>
      (t.slot m).ladder = none ∧ (l.rung = 2 → (t.slot m).perst = false) ∧ t.out = s.out ∧ OnlySlot s t m ∧
      t.morders = s.morders.map fun o => if o.slot = m ∧ o.held = true then { o with held := false, sent := none } else o) ∧
    (∀ s id st data, (∀ o ∈ s.morders, o.id = id → o.answered s = false) →
      (Yields (.memberReadCompletion id st data) s fun t => t = s) ∧ Yields (.memberWriteCompletion id st) s fun t => t = s) ∧
    (∀ s m o, s.morders.find? (fun o => o.slot == m && !o.held && o.sent.isSome && match o.cmd with
        | .write .. => true
        | _ => false) = some o → o.retried = false → Yields (.memberDmaRequest m true true) s fun t =>
      t.out = s.out ++ [.memberAbort m] ∧ (∀ x ∈ t.morders, x.id = o.id → x.retried = true ∧ x.sent = none) ∧
      t.slots = s.slots ∧ t.jnl = s.jnl) ∧
    (∀ s m l ser q, (s.slot m).ladder = some l → (l.rung = 1 ∨ l.rung = 2) → posOfSlot s m = some q →
      (recent s (s.slot m).rungs).length < 3 → Yields (.ladderRungDone m false ser) s fun t =>
        (t.slot m).ladder = some { rung := l.rung + 1, link := l.link } ∧ (t.slot m).perst = true ∧ t.out = s.out ∧
        (l.rung = 2 → (t.slot m).rail = false ∧ (t.slot m).refclk = false) ∧
        (∀ o ∈ t.morders, o.slot = m → o.held = true)) ∧
    (∀ s m l ser q a, (s.slot m).ladder = some l → l.rung = 3 → s.array = some a → posOfSlot s m = some q →
      (posEntry a q).serial = padTo 20 ser → Yields (.ladderRungDone m true ser) s fun t =>
        (t.slot m).ladder = none ∧ (t.slot m).rail = true ∧ (t.slot m).refclk = true ∧ (t.slot m).perst = false ∧
        t.array = s.array ∧ OnlySlot s t m) ∧
    (∀ s m l ser q, (s.slot m).ladder = some l → l.rung = 3 → posOfSlot s m = some q →
      Yields (.ladderRungDone m false ser) s fun t =>
        (t.slot m).state = .failed ∧ (t.slot m).ladder = none ∧
        (t.array.map fun a => (posEntry a q).state) = some .missing))

/-- 09 R263, R272, R275, R286, 14 R441, R442: a member that reaches a failure threshold is lost: its position is missing,
ag rises once per commit point and the superblocks are rewritten; a rail that fails goes off with its slot, and an
overcurrent of the converter takes them all. -/
def Obligations.ALostMemberLeavesItsPositionMissing : Prop :=
  (∀ s m why q a, s.array = some a → why ≠ .smart → posOfSlot s m = some q → Yields (.memberLost m why) s fun t =>
    (t.slot m).state = (if why = .rail then .powerFault else .failed) ∧ (t.slot m).ladder = none ∧
    (t.array.map fun b => ((posEntry b q).state, b.ag)) = some (.missing, if s.gate.agUp then a.ag else a.ag + 1) ∧
    t.gate.agUp = true ∧ t.sbq = s.sbq ++ [{ effect := .none }] ∧ (∀ o ∈ t.morders, o.slot ≠ m)) ∧
  (∀ s m f, (s.slot m).rail = true → posOfSlot s m = none → Yields (.railFault m f) s fun t =>
    (t.slot m).rail = false ∧ (t.slot m).limit = 0 ∧ (t.slot m).perst = true ∧ (t.slot m).state = .powerFault ∧
    OnlySlot s t m ∧ t.log.raised.length = s.log.raised.length + 1) ∧
  (∀ s, Yields .slotConverterOvercurrent s fun t => ∀ m, (t.slot m).rail = false) ∧
  (∀ s m w, (s.slot m).state = .member → (s.slot m).step = 8 → w &&& ~~~(s.slot m).smart &&& 0x17 = 0 →
    w.getLsbD 3 = false → Yields (.healthPoll m w) s fun t =>
      t.out = s.out ++ [.member m .getLog] ∧ t.slot m = { s.slot m with smart := w } ∧ OnlySlot s t m ∧ t.log = s.log) ∧
  (∀ s m q w, (s.slot m).state = .member → (s.slot m).step = 8 → w.getLsbD 3 = true → posOfSlot s m = some q →
    Yields (.healthPoll m w) s fun t =>
      (t.slot m).state = .failed ∧ (t.array.map fun a => (posEntry a q).state) = some .missing) ∧
  (∀ s m, Yields (.memberDmaRequest m true false) s fun t => t = s.emit (.memberAnswer m false)) ∧
  (∀ s m b, (recent s (s.slot m).errs).length < 15 → Yields (.memberDmaRequest m false b) s fun t =>
    t.out = s.out ++ [.memberAnswer m true] ∧ (t.slot m).errs = recent s (s.slot m).errs ++ [s.clock.frame] ∧
    t.log.raised.length = s.log.raised.length + 1)

/-! ## Shifts and engines (07 R217 to R219, 08 R238 to R240, 09 R276 to R291, 10 R318, R328) -/

/-- 08 R238, R239, 07 R217: a destage starts on the first queued window: one more shift, and a ROW record of its
window whose commit is planned; it waits while its three records do not fit. 09 R283, R287, R289, R290: the engines start their next shift at the watermark of the
array, the resync at the next marked row, the scrub at its own row; a target whose rows are all done becomes current. 01 R17,
02 R44, R57: they start in the Plan phase, each engine with its minimum of buffers and in the modes that run it.
07 R221: where the descriptor of a shift that would start cannot be used, nothing starts: the active bank is loaded
again, from the ROM program of layouts 0 to 4 and else from the superblock copy, the table is rebuilt and a record is
raised. -/
def Obligations.EnginesStartShiftsAtTheirWatermarks : Prop :=
  (∀ s row b0 w, planPhase s = true → destageMode s = true → s.array.isSome = true → contextFree s false = true →
      nextWindow s = some (row, b0, w) → 3 ≤ freeRecs s → (∀ y ∈ s.shifts, y.id < s.gate.nextId) → Yields (.destageShiftStart false) s fun t =>
        t.shifts.length = s.shifts.length + 1 ∧
        (∃ x ∈ t.shifts, x.purpose = .destage ∧ x.row = row ∧ x.b0 = b0 ∧ x.w = w ∧ x.id = s.gate.nextId ∧
          x.step = .reads) ∧
        (∃ c, t.jnl.recs = s.jnl.recs ++ [c] ∧ c.type = .row ∧ c.at_ = row ∧ c.b0 = b0 ∧ c.count = w ∧
          c.seq = s.jnl.nextSeq ∧ c.durable = false) ∧
        (plannedCommits t).length = (plannedCommits s).length + 1 ∧ t.jnl.mem = s.jnl.mem ∧ t.root = s.root) ∧
  (∀ s b, freeRecs s < 3 → Yields (.destageShiftStart b) s fun t => t = s) ∧
  ((∀ s a, planPhase s = true → engineMode s = true → s.array = some a → a.rbKind = .rebuild → s.eng.rebuild.running = true →
      engFed s .rebuild = true → s.eng.rebuild.stop = false → testing s 0x0F = false → contextFree s false = true →
      (a.w < arrayRows s → s.eng.rebuild.next < arrayU s →
        windowFree s a.w s.eng.rebuild.next (min 16 (arrayU s - s.eng.rebuild.next)) = true →
        Yields (.rebuildShift false) s fun t =>
          (∃ x ∈ t.shifts, x.purpose = .rebuild ∧ x.row = a.w ∧ x.b0 = s.eng.rebuild.next ∧
            x.w = min 16 (arrayU s - s.eng.rebuild.next) ∧ x.id = s.gate.nextId) ∧
          t.shifts.length = s.shifts.length + 1 ∧ t.array = s.array ∧ t.jnl = s.jnl) ∧
      (arrayRows s ≤ a.w → Yields (.rebuildShift false) s fun t =>
          (t.array.map fun b => (posEntry b a.rbTarget).state) = some .current ∧ t.shifts = s.shifts)) ∧
    (∀ s a row, planPhase s = true → engineMode s = true → s.array = some a → a.rbKind = .resync → s.eng.rebuild.running = true →
      engFed s .rebuild = true → s.eng.rebuild.stop = false → testing s 0x0F = false → contextFree s false = true →
      nextRow s a a.w = row → row < arrayRows s → row ≠ a.w → 0 < arrayU s →
      windowFree s row 0 (min 16 (arrayU s)) = true → Yields (.resyncShift false) s fun t =>
        (∃ x ∈ t.shifts, x.purpose = .resync ∧ x.row = row ∧ x.b0 = 0 ∧ x.id = s.gate.nextId) ∧
        (t.array.map (·.w)) = some row ∧ t.shifts.length = s.shifts.length + 1) ∧
    (∀ s a, planPhase s = true → s.array = some a → s.eng.scrub.running = true → s.eng.scrub.paused = false →
      s.eng.scrub.stop = false → engFed s .scrub = true → s.mode.mode = .online → contextFree s false = true → s.eng.scrub.next < arrayU s → a.scRow < arrayRows s →
      windowFree s a.scRow s.eng.scrub.next (min 16 (arrayU s - s.eng.scrub.next)) = true → Yields (.checkShift false) s fun t =>
        (∃ x ∈ t.shifts, x.purpose = .check ∧ x.row = a.scRow ∧ x.b0 = s.eng.scrub.next ∧ x.id = s.gate.nextId) ∧
        t.shifts.length = s.shifts.length + 1 ∧ t.array = s.array ∧ t.jnl = s.jnl) ∧
    (∀ s b, engineMode s = false → (Yields (.rebuildShift b) s fun t => t = s) ∧ Yields (.resyncShift b) s fun t => t = s) ∧
    (∀ s b, s.mode.mode ≠ .online → s.mode.mode ≠ .locked → Yields (.checkShift b) s fun t => t = s)) ∧
  (∀ s a bank, planPhase s = true → s.array = some a → s.seq.active = some bank → contextFree s false = true →
      (let reloaded : State → Prop := fun t =>
         (let prog := if a.layout ≤ 4 then romProgram a.layout else a.prog
          t.seq = { s.seq with
            bank0 := if bank = true then s.seq.bank0 else prog, bank1 := if bank = true then prog else s.seq.bank1,
            table := buildTable prog a.n }) ∧
         t.log.raised.length = s.log.raised.length + 1 ∧ t = { s with seq := t.seq, log := t.log }
       (destageMode s = true → (nextWindow s).isSome = true → 3 ≤ freeRecs s → Yields (.destageShiftStart true) s reloaded) ∧
       (engineMode s = true → s.eng.rebuild.running = true → engFed s .rebuild = true → s.eng.rebuild.stop = false →
         testing s 0x0F = false → a.w < arrayRows s → s.eng.rebuild.next < arrayU s → 0 < arrayU s →
         nextRow s a a.w = a.w → windowFree s a.w s.eng.rebuild.next (min 16 (arrayU s - s.eng.rebuild.next)) = true →
         (a.rbKind = .rebuild → Yields (.rebuildShift true) s reloaded) ∧
         (a.rbKind = .resync → Yields (.resyncShift true) s reloaded)) ∧
       (s.eng.scrub.running = true → s.eng.scrub.paused = false → s.eng.scrub.stop = false → s.mode.mode = .online →
         engFed s .scrub = true → s.eng.scrub.next < arrayU s → a.scRow < arrayRows s →
         windowFree s a.scRow s.eng.scrub.next (min 16 (arrayU s - s.eng.scrub.next)) = true →
         Yields (.checkShift true) s reloaded)))

/-- Nothing but one shift waits for charges as the Dispatch phase begins, and the shares are legal (01 R28 to R30). -/
abbrev Sys2Proof.ShiftAlone (s : State) (x : Shift) : Prop :=
  s.clock.phase = .plan ∧ anyPlanning s.cx = true ∧ s.shifts = [x] ∧ x.step = .compute ∧ entryWork s .a = [] ∧
  entryWork s .b = [] ∧ rekeyWork s = [] ∧ (s.eng.rekey.encrypts = false ∨ s.eng.rekey.sent = true) ∧
  guarantee s (some .a) + guarantee s (some .b) + guarantee s none ≤ 32 ∧
  engGuarantee s .rebuild ≤ 32 ∧ engGuarantee s .rekey ≤ 32 ∧ engGuarantee s .scrub ≤ 32

/-- A shift is at its end: its writes are all observed, and its commit point has come (07 R217). -/
abbrev Sys2Proof.AtItsEnd (s : State) (x : Shift) : Prop :=
  s.clock.phase = .commit ∧ s.clock.cancelled = false ∧ s.shifts.find? (fun y => y.id == x.id) = some x ∧ x.step = .writes ∧ x.writesLeft = 0 ∧
  x.endAt ≤ s.clock.frame

/-- 01 R28, R29: of the 32 charges of a frame each party is given its need up to its guarantee, the rest in turns, and none
is left while a party needs it. 07 R217, R218: a shift whose reads are all observed computes, in the Dispatch phase, when
its charges are given, at most 32 in a frame; a read-modify-write shift that lost a source changes to reconstruct-write. 09
R276: a solved block goes to the reads that wait for it; a check in Locked writes nothing; and a shift whose writes are all
observed, or whose record's commit failed (08 R239), ends at its commit point. 10 Table 10-3: a block that failed its tag and
cannot be solved fails its READ with TAG_MISMATCH. 08 R239: no member write of a destage is planned in the frame that observes
its ROW record durable. 02 R57, R58, 12 R384: an engine asked for buffers gives them back at its boundary
through a PREP, all of them and pausing where fewer than its minimum would be left, and all once it has stopped. -/
def Obligations.ShiftsComputeAndBuffersReturn : Prop :=
  (∀ (n1 n2 n3 g1 g2 g3 : Nat), g1 + g2 + g3 ≤ 32 →
      ∃ c1 c2 c3, handCharges [n1, n2, n3] [g1, g2, g3] = [c1, c2, c3] ∧
        min n1 g1 ≤ c1 ∧ c1 ≤ n1 ∧ min n2 g2 ≤ c2 ∧ c2 ≤ n2 ∧ min n3 g3 ≤ c3 ∧ c3 ≤ n3 ∧
        c1 + c2 + c3 = min 32 (n1 + n2 + n3)) ∧
  ((∀ s x, planPhase s = true → s.shifts.find? (fun y => y.id == x.id) = some x → x.step = .reads → x.wait = [] →
      ((∀ r ∈ x.reads, x.badRole r = false) → x.toRead = [] → Yields (.shiftCompute x.id []) s fun t =>
        t = { s with shifts := s.shifts.map fun y => if y.id = x.id then { x with step := .compute } else y }) ∧
      ((∀ r ∈ x.reads, x.badRole r = false) → x.toRead ≠ [] → Yields (.shiftCompute x.id []) s fun t =>
        t.shifts = (s.shifts.map fun y => if y.id = x.id then
          { x with wait := x.toRead, parts := x.parts.filter fun q => !x.toRead.contains q.1 } else y) ∧ t.gate.orders = s.gate.orders) ∧
      (x.purpose = .destage → x.rmw = true → (∃ r ∈ x.reads, x.badRole r = true) → Yields (.shiftCompute x.id []) s fun t =>
        (∀ y ∈ t.shifts, y.id = x.id → y.rmw = false) ∧ t.shifts.map (·.id) = s.shifts.map (·.id) ∧ t.gate.orders = s.gate.orders)) ∧
    (∀ s n fs, (planPhase s = false ∨ ∀ y ∈ s.shifts, y.id = n → y.step ≠ .reads ∨ y.wait ≠ []) →
      Yields (.shiftCompute n fs) s fun t => t = s) ∧
    (∀ s x, ShiftAlone s x → 32 < x.need → Yields .dispatchPhase s fun t =>
      (t.shifts.map fun y => (y.id, y.step, y.need)) = [(x.id, .compute, x.need - 32)] ∧ t.gate.orders = s.gate.orders ∧
      t.jnl = s.jnl ∧ t.array = s.array) ∧
    (∀ s x, ShiftAlone s x → x.need ≤ 32 → x.purpose = .destage → (∀ r ∈ x.reads, x.badRole r = false) →
      x.rmw = true → x.rowDurable = false → Yields .dispatchPhase s fun t =>
        (t.shifts.map fun y => (y.id, y.step, y.need)) = [(x.id, .record, 0)] ∧ t.gate.orders = s.gate.orders ∧
        t.jnl = s.jnl) ∧
    (∀ s x ds f k it j pos, ShiftAlone s x → x.need ≤ 32 → x.purpose = .recon →
      x.old 0 = some ds → reconBacks s x ds = [] → s.taken? f = some k → k.stage = .reads → k.items = [it] →
      it.data = none → it.pos = pos →
      it.d = areaBlock s x.row x.b0 → j ∈ x.dataIdx → x.pos (.data j) = some pos →
      (∀ l ∈ x.dataIdx, x.pos (.data l) = some pos → l = j) → Yields .dispatchPhase s fun t =>
        t.shifts = [] ∧
        (t.taken? f).map (·.items) = some [{ it with data := some (ds.getD j []), lost := false, solved := true }]) ∧
    (∀ s x, ShiftAlone s x → x.need ≤ 32 → x.purpose = .check → s.mode.mode = .locked → Yields .dispatchPhase s fun t =>
        (t.shifts.map fun y => (y.id, y.step, y.writesLeft)) = [(x.id, .writes, 0)] ∧ t.gate.orders = s.gate.orders) ∧
    (∀ s x, AtItsEnd s x → x.purpose = .recon → Yields (.shiftEnd x.id) s fun t =>
      t.shifts = (s.shifts.filter fun y => y.id != x.id) ∧ t.gate.orders = s.gate.orders ∧ t.jnl = s.jnl ∧ t.array = s.array) ∧
    (∀ s x a, AtItsEnd s x → x.purpose = .rebuild → s.array = some a →
      x.row = a.w → s.eng.rebuild.running = true → s.eng.rebuild.stop = false → s.eng.scrub.stop = false →
      x.b0 + x.w < arrayU s → Yields (.shiftEnd x.id) s fun t =>
        t.shifts = (s.shifts.filter fun y => y.id != x.id) ∧ t.eng.rebuild.next = x.b0 + x.w ∧ t.array = s.array) ∧
    (∀ s x, s.shifts.find? (fun y => y.id == x.id) = some x →
      (x.step ≠ .writes ∧ x.step ≠ .aborted ∨ x.step = .writes ∧ x.writesLeft ≠ 0 ∨ s.clock.frame < x.endAt ∨
        s.clock.phase ≠ .commit) →
      Yields (.shiftEnd x.id) s fun t => t = s) ∧
    (∀ s x, s.clock.phase = .commit → s.clock.cancelled = false → s.shifts.find? (fun y => y.id == x.id) = some x →
      x.step = .aborted → x.endAt ≤ s.clock.frame → Yields (.shiftEnd x.id) s fun t =>
      t.shifts = (s.shifts.filter fun y => y.id != x.id) ∧ t.gate.orders = s.gate.orders ∧ t.jnl = s.jnl ∧ t.array = s.array) ∧
    (∀ s x f k it ctr tag, ShiftAlone s x → x.need ≤ 32 → x.purpose = .recon → x.old 0 = none →
      (s.ring f.p f.r).taken = [k] → k.i = f.i → k.stage = .reads → k.items = [it] → it.data = none → it.lost = true →
      it.retag = some (ctr, tag) → it.d = areaBlock s x.row x.b0 → Yields .dispatchPhase s fun t =>
        t.shifts = [] ∧ (t.taken? f).map (fun e => (e.stage, e.status)) = some (.finished, Status.tagMismatch)) ∧
    (∀ s x, x.step = .record → x.rowDurable = true → x.solvedWait = false → s.clock.frame ≤ x.rowAt →
      releaseDestage s x = s) ∧
    (∀ s x, AtItsEnd s x → x.purpose = .destage → Yields (.shiftEnd x.id) s fun t =>
      (∀ y ∈ t.shifts, y.id ≠ x.id) ∧ t.jnl.nextSeq = s.jnl.nextSeq + 1 ∧ t.jnl.mem = s.jnl.mem)) ∧
  (∀ s e, engAtBoundary s e = true → engOn s e = true → engAsked s e ≠ 0 → ownedIdx s (.engine e) ≠ [] →
      Yields (.engineBufferRelease e) s fun t =>
        engAsked t e = 0 ∧
        ((ownedIdx s (.engine e)).length < engAsked s e + engMinimum e →
          engPaused t e = true ∧ ownedIdx t (.engine e) = [] ∧
          t.gate.priv = s.gate.priv ++ [{ act := .engineFree e (ownedIdx s (.engine e)), frame := obsFrame s,
                                          epoch := s.cx.epoch, cx := s.cx.holder, orphan := false }]) ∧
        (engAsked s e + engMinimum e ≤ (ownedIdx s (.engine e)).length →
          (ownedIdx t (.engine e)).length = (ownedIdx s (.engine e)).length - engAsked s e ∧ engPaused t e = engPaused s e) ∧
        t.staging.mem = s.staging.mem ∧ t.shifts = s.shifts) ∧
  (∀ s e, engAtBoundary s e = true → engOn s e = false → ownedIdx s (.engine e) ≠ [] →
      Yields (.engineBufferRelease e) s fun t =>
        ownedIdx t (.engine e) = [] ∧ t.staging.mem = s.staging.mem ∧ t.shifts = s.shifts)

/-- 10 R318, R320, R322: a fold, in a Plan phase, verifies its path and plans its nodes, its header and its root in one
commit, with whose release the root goes into the bank not in force, which is in force from then on; walks planned meanwhile
use the planned root. Where the path fails the volume is stale and its entries retire; where the commit fails the root before
it is written over the fold's, at a commit point. -/
def Obligations.FoldsCarryTagsIntoTheTree : Prop :=
  (∀ s v x key media, planPhase s = true → foldDue s v = true → volOf s v = some x → treeKeyOf s v = some key →
    x.stale = false →
    (∀ ns top, foldNodes s v x.size key media (unfolded s v) = some ns → foldRoom s (ns.length + 1) = true →
      ns.find? (fun n => n.level + 1 == (treeLevels x.size).length) = some top → Yields (.foldStart v media) s fun t =>
        let mac := nodeMac key top.level top.x top.version top.data
        (∃ ws, t.gate.orders = s.gate.orders ++
          [.journal { writes := ws, owner := .fold v top.version mac, frame := s.clock.frame }]) ∧
        volRoot t v = { version := top.version, mac := mac, commit := 0 } ∧ t.root = s.root ∧
        t.jnl.recs.length = s.jnl.recs.length + ns.length + 1 ∧
        t.tags.folding.length = s.tags.folding.length + 1 ∧ t.tags.tagLog = s.tags.tagLog) ∧
    (foldNodes s v x.size key media (unfolded s v) = none → Yields (.foldStart v media) s fun t =>
        (t.array.map fun a => a.vtab[v.val].stale) = some true ∧ (∀ e ∈ t.tags.tagLog, e.vol ≠ v) ∧ t.root = s.root ∧
        t.jnl = s.jnl)) ∧
  (∀ s v media, (planPhase s = false ∨ foldDue s v = false) → Yields (.foldStart v media) s fun t => t = s) ∧
  (∀ s v ver mac ws n, ver < 2 ^ 64 → mac.length = 8 → s.jnl.commitNo + s.jnl.inflight.length + 1 < 2 ^ 64 →
    ∃ t, t = releaseOrder s (.journal { writes := ws, owner := .fold v ver mac, frame := n }) ∧
      rootBankNow t v = !rootBankNow s v ∧
      readRoot t v (rootBankNow t v) =
        { version := ver, mac := mac, commit := s.jnl.commitNo + s.jnl.inflight.length + 1 } ∧
      readRoot t v (rootBankNow s v) = readRoot s v (rootBankNow s v) ∧
      t.jnl.inflight.length = s.jnl.inflight.length + 1 ∧ t.jnl.mem = s.jnl.mem) ∧
  (∀ s v c rest f ver mac, s.jnl.inflight = c :: rest → c.answered s = true → c.owner = .fold v ver mac →
    s.tags.folding.find? (fun f => f.vol == v) = some f → Yields .journalWriteFailed s fun t =>
      t.gate.orders = s.gate.orders ++ [.rootBack v f.old.1 f.old.2 s.jnl.commitNo] ∧ t.root = s.root ∧
      (∀ g ∈ t.tags.folding, g.vol ≠ v) ∧ (∀ g ∈ t.tags.nodes, g.vol ≠ v)) ∧
  (∀ s v ver mac n, ver < 2 ^ 64 → mac.length = 8 → n < 2 ^ 64 → ∃ t, t = releaseOrder s (.rootBack v ver mac n) ∧
    readRoot t v (rootBankNow s v) = { version := ver, mac := mac, commit := n } ∧
    readRoot t v (!rootBankNow s v) = readRoot s v (!rootBankNow s v) ∧ t = { s with root := t.root })

/-- 10 R328, R329: a rekey step takes the blocks of its window, which enter the stripe cache (01 Table 1-5), is given charges
for their decryption, and in a later frame for their encryption, in the Dispatch phases of as many frames as it takes (01 R28),
and commits them once, with the journal's rekey line, in the Dispatch phase that has given the last. -/
def Obligations.RekeyStepsThroughTheVolume : Prop :=
  ∀ s a x old new media, s.array = some a → volOf s s.eng.rekey.vol = some x → s.keys.prim[x.key.val] = some old →
    s.keys.shadow[x.key.val] = some new → s.eng.rekey.running = true → s.clock.phase = .plan → anyPlanning s.cx = true →
    a.rekey.state = 1 → s.eng.rekey.sent = false → s.eng.rekey.b < x.size →
    (s.eng.rekey.inStep = false → s.eng.rekey.paused = false → rekeyMode s = true → engFed s .rekey = true →
      x.deleting = false → Yields (.rekeyStep media) s fun t =>
        t.eng.rekey.inStep = true ∧ t.eng.rekey.b = s.eng.rekey.b ∧ t.eng.rekey.encrypts = false ∧
        t.eng.rekey.need = t.eng.rekey.moved.length ∧ t.eng.rekey.ctrs.length = t.eng.rekey.moved.length ∧
        (∀ m ∈ t.eng.rekey.moved, s.eng.rekey.b ≤ m.1 ∧ m.1 < min x.size (s.eng.rekey.b + 32)) ∧
        t = { s with eng := t.eng, cache := t.cache }) ∧
    (s.eng.rekey.inStep = true → s.eng.rekey.need ≠ 0 → (Yields (.rekeyStep media) s fun t => t = s) ∧
        (s.shifts = [] → entryWork s .a = [] → entryWork s .b = [] →
          guarantee s (some .a) + guarantee s (some .b) + guarantee s none ≤ 32 → engGuarantee s .rekey ≤ 32 →
          (s.eng.rekey.encrypts = false ∨ 32 < s.eng.rekey.need) → Yields .dispatchPhase s fun t =>
            t.eng.rekey.need = s.eng.rekey.need - 32 ∧ t.eng.rekey.moved = s.eng.rekey.moved ∧
            t.eng.rekey.encrypts = s.eng.rekey.encrypts ∧ t.jnl = s.jnl ∧ t.gate.orders = s.gate.orders)) ∧
    (s.eng.rekey.inStep = true → s.eng.rekey.need = 0 → s.eng.rekey.encrypts = false → Yields (.rekeyStep media) s fun t =>
        t.eng.rekey = { s.eng.rekey with encrypts := true, need := s.eng.rekey.moved.length } ∧
        t = { s with eng := t.eng }) ∧
    (s.eng.rekey.inStep = true → s.eng.rekey.encrypts = true → Yields (.rekeyStep media) s fun t => t = s) ∧
    (s.eng.rekey.inStep = true → s.eng.rekey.encrypts = true → s.eng.rekey.need ≤ 32 →
      s.eng.rekey.ctrs.length = s.eng.rekey.moved.length → s.shifts = [] → entryWork s .a = [] → entryWork s .b = [] →
      guarantee s (some .a) + guarantee s (some .b) + guarantee s none ≤ 32 → engGuarantee s .rekey ≤ 32 →
      s.eng.rekey.moved.length ≤ freeSlots s → s.eng.rekey.moved.length ≤ freeRecs s →
      (x.isSealed = true → 2 * s.eng.rekey.moved.length ≤ freeTagLines s) → Yields .dispatchPhase s fun t =>
        t.eng.rekey.sent = true ∧ t.eng.rekey.b = s.eng.rekey.b ∧
        t.eng.rekey.moved.map (·.1) = s.eng.rekey.moved.map (·.1) ∧
        (∃ ws, t.gate.orders = s.gate.orders ++ [.journal {
          writes := ws ++ rekeyLines { a.rekey with b := min x.size (s.eng.rekey.b + 32) }, owner := .rekey,
          frame := s.clock.frame }]) ∧
        t.jnl.mem = s.jnl.mem ∧ t.jnl.inflight = s.jnl.inflight)

/-! ## Security, errors and freeze (11 R349 to R363, 13 R409 to R425, 10 R303, 14 R443, R449) -/

/-- 11 R355 to R362, Table 11-8: a tamper source that acts latches, the lowest code of those that trip together first (R356),
and in a running mode clears the keys, halts the data
path and plans Lockdown; a source of hard depth also wipes the root store but for what R362 keeps. A source that does not
act in this lifecycle changes nothing; a halt of Start goes on (03 R87). In soft Lockdown a hard trip wipes. 11 R375: a trip
before the commit point of a RESET fails it with CONFLICT, one after it only latches; the point is the model's (log 63). -/
def Obligations.TamperLatchesAndAnswersByDepth : Prop :=
  (∀ s src, tamperActs s src = false → Yields (.tamperTrip src) s fun t => t = s) ∧
  (∀ s src, aonAlive s = true → sourceLive s src = true → tamperActs s src = true →
    let latched := fun t : State =>
      t.sec.latch = true ∧ t.sec.first = (if s.sec.latch = false then BitVec.ofNat 8 (tamperCode src)
        else if sameTrip s (tamperCode src) then BitVec.ofNat 8 (min s.sec.first.toNat (tamperCode src)) else s.sec.first) ∧
      t.sec.latchRtc = (if s.sec.latch then s.sec.latchRtc else s.clock.rtc) ∧
      t.sec.seen = s.sec.seen ||| BitVec.ofNat 9 (2 ^ (tamperCode src - 1)) ∧ t.fuse = s.fuse ∧ t.jnl = s.jnl
    (s.mode.mode ≠ .vault → s.mode.mode ≠ .freeze → s.mode.mode ≠ .lockdown → s.mode.mode ≠ .start →
      s.err.dbl = false → Yields (.tamperTrip src) s fun t =>
        latched t ∧ t.keys = KeySt.init ∧ t.staging.mem = [] ∧ t.shifts = [] ∧ t.sbq = [] ∧ t.gate.priv = [] ∧
        t.mode.mode = s.mode.mode ∧ t.mode.hard = (s.mode.hard || tamperHard s src) ∧
        (t.mode.plan.map fun m => (m.target, m.cause)) = some (.lockdown, 0x13) ∧
        (tamperHard s src = true → wipeState t.root = 2 ∧ ∀ a, wipeKeeps a = false → Memory.get t.root a = 0)) ∧
    (s.mode.mode = .vault → Yields (.tamperTrip src) s fun t => latched t ∧ t.mode = s.mode ∧ t.keys = s.keys) ∧
    (s.mode.mode = .start → s.start.halt = true → s.start.stage ≠ .s1 → s.start.stage ≠ .h → Yields (.tamperTrip src) s fun t =>
      latched t ∧ t.mode = s.mode ∧ t.start = s.start ∧ t.keys = KeySt.init) ∧
    (s.mode.mode = .lockdown → resetPlanned s = false → (tamperHard s src = false ∨ s.mode.hard = true) →
      Yields (.tamperTrip src) s fun t =>
        latched t ∧ t.mode = s.mode ∧ t.keys = s.keys ∧ t.log.raised.length = s.log.raised.length + 1) ∧
    (s.mode.mode = .lockdown → resetPlanned s = false → tamperHard s src = true → s.mode.hard = false →
      Yields (.tamperTrip src) s fun t =>
        latched t ∧ t.mode = { s.mode with hard := true } ∧ t.keys = KeySt.init ∧ wipeState t.root = 2 ∧
        t.log.raised.length = s.log.raised.length + 1) ∧
    (∀ m f k, s.mode.mode = .lockdown → s.mode.plan = some m → m.kind = .reset → m.ref = some f → resetOpen s = true →
      s.taken? f = some k → k.stage ≠ .finished → (tamperHard s src = false ∨ s.mode.hard = true) →
      Yields (.tamperTrip src) s fun t =>
        latched t ∧ t.mode = { s.mode with plan := none, pend := false } ∧ resetOpen t = false ∧
        t.taken? f = some { k with stage := .finished, status := Status.conflict, reply := [] }) ∧
    (s.mode.mode = .lockdown → resetPlanned s = true → resetOpen s = false → Yields (.tamperTrip src) s fun t =>
      latched t ∧ t.mode = s.mode ∧ t.gate = s.gate ∧ t.keys = s.keys ∧ t.log = s.log))

/-- 11 R349 to R354, Table 11-6: a sample whose pairs of readings are not both those of closed (released) or both those of
open (pressed) disagrees; disagreeing channels are counted below T, and are a fault at T; open lid channels trip; a press before
the target completes the confirm window, a button fault or the target fails the command that waits for it. -/
def Obligations.WiredInputsTripAndConfirm : Prop :=
  (∀ s (a b : Reading), sampled s .lid = true → ¬ (a = ⟨false, true⟩ ∧ b = ⟨false, false⟩) → ¬ (a = ⟨true, true⟩ ∧ b = ⟨true, true⟩) →
    Yields (.discrepancyFault .lid a b) s fun t =>
      t.sec.lflt = true ∧ t.sec.latch = true ∧ t.sec.cflt = s.sec.cflt) ∧
  (∀ s, (Yields (.discrepancyFault .lid ⟨false, true⟩ ⟨false, false⟩) s fun t => t = s) ∧
    (Yields (.discrepancyFault .lid ⟨true, true⟩ ⟨true, true⟩) s fun t => t = s) ∧
    (Yields (.discrepancyFault .button ⟨true, true⟩ ⟨false, false⟩) s fun t => t = s) ∧
    Yields (.discrepancyFault .button ⟨false, false⟩ ⟨true, true⟩) s fun t => t = s) ∧
  (∀ s (a b : Reading) w k, sampled s .button = true → ¬ (a = ⟨true, true⟩ ∧ b = ⟨false, false⟩) →
    ¬ (a = ⟨false, false⟩ ∧ b = ⟨true, true⟩) → s.sec.cwin = some w → s.taken? w.ref = some k →
    k.stage = .confirm → Yields (.discrepancyFault .button a b) s fun t =>
      t.sec.cflt = true ∧ t.sec.cwin = none ∧ t.sec.latch = s.sec.latch ∧
      t.taken? w.ref = some { k with stage := .finished, status := Status.confirmRefused, reply := [] }) ∧
  (∀ s d, sampled s .lid = true → d ≠ 0 → Yields (.discrepancyRunEnd .lid d (⟨false, true⟩, ⟨false, false⟩)) s fun t =>
    t.sec.discLid = (if d < s.sec.lidCfg.toNat then satInc s.sec.discLid else s.sec.discLid) ∧
    t.sec.latch = s.sec.latch ∧ t.mode = s.mode) ∧
  (∀ s d, sampled s .lid = true → d ≠ 0 → Yields (.discrepancyRunEnd .lid d (⟨true, true⟩, ⟨true, true⟩)) s fun t =>
    t.sec.discLid = (if d < s.sec.lidCfg.toNat then satInc s.sec.discLid else s.sec.discLid) ∧ t.sec.latch = true) ∧
  (∀ s d, sampled s .button = true → d ≠ 0 → Yields (.discrepancyRunEnd .button d (⟨true, true⟩, ⟨false, false⟩)) s fun t =>
    t.sec.discConf = (if d < s.sec.confDisc.toNat then satInc s.sec.discConf else s.sec.discConf) ∧
    t.sec.cwin = (s.sec.cwin.map fun x => { x with released := true }) ∧ t.portA = s.portA ∧ t.portB = s.portB) ∧
  (∀ s w k, s.sec.cwin = some w → s.taken? w.ref = some k → k.stage = .confirm → sampled s .button = true →
    s.clock.rtc < w.target →
    (let goesOn := fun t : State =>
      t.taken? w.ref = some { k with pressed := true, stage := .waiting } ∧ t.sec.cwin = none ∧ t.gate = s.gate
     Yields .confirmPress s goesOn ∧
     (∀ d, d ≠ 0 → w.released = true → Yields (.discrepancyRunEnd .button d (⟨false, false⟩, ⟨true, true⟩)) s goesOn) ∧
     (∀ d, d ≠ 0 → w.released = false → Yields (.discrepancyRunEnd .button d (⟨false, false⟩, ⟨true, true⟩)) s fun t =>
       t.sec.cwin = s.sec.cwin ∧ t.taken? w.ref = some k))) ∧
  (∀ s w k, s.sec.cwin = some w → s.taken? w.ref = some k → k.stage = .confirm →
    (w.target ≤ s.clock.rtc → Yields .confirmTimeout s fun t =>
      t.taken? w.ref = some { k with stage := .finished, status := Status.confirmTimeout, reply := [] } ∧
      t.sec.cwin = none ∧ t.gate = s.gate) ∧
    (s.clock.rtc < w.target → Yields .confirmTimeout s fun t => t = s))

/-- 13 R409 to R412, R421, 10 R303, Table 10-5: a device-level error clears the keys, halts the data path and plans
Lockdown, or the freeze armed for it; a second one before Lockdown is in force is a double fault,
after which no complex runs and Lockdown is in force from the next commit point (02 R40); an integrity alarm of the
journal is one but in replay, and a failed random bit generator is a security self-test failure. -/
def Obligations.DeviceErrorsZeroiseAndLockDown : Prop :=
  (∀ s, s.err.dbl = false → s.mode.mode ≠ .vault → s.mode.mode ≠ .freeze → s.mode.mode ≠ .lockdown →
    (s.mode.mode = .start → s.start.halt = false) →
    let halted := fun t : State =>
      t.keys = KeySt.init ∧ t.shifts = [] ∧ t.sbq = [] ∧ t.gate.priv = [] ∧ t.mode.mode = s.mode.mode ∧
      t.root = s.root ∧ t.jnl = s.jnl ∧ t.fuse = s.fuse
    (∀ e, s.err.opened = false → (s.frz.armed = false ∨ s.frz.trig ≠ 2) → Yields (.deviceLevelError e) s fun t =>
      halted t ∧ t.err.opened = true ∧ t.err.pendCode = BitVec.ofNat 8 (devCode e) ∧
      (t.mode.plan.map fun m => (m.target, m.cause)) = some (.lockdown, 0x16) ∧
      t.log.raised.length = s.log.raised.length + 1) ∧
    (∀ e, s.err.opened = false → s.frz.armed = true → s.frz.trig = 2 → Yields (.deviceLevelError e) s fun t =>
      halted t ∧ t.frz.trigger = some (2, s.clock.frame) ∧ t.mode.plan = s.mode.plan) ∧
    (∀ c, inStage s .s7 = false → s.err.opened = false → (s.frz.armed = false ∨ s.frz.trig ≠ 2) →
      Yields (.integrityAlarm c) s fun t =>
        halted t ∧ t.err.pendCode = 1 ∧ (t.mode.plan.map fun m => (m.target, m.cause)) = some (.lockdown, 0x16) ∧
        t.log.raised.length = s.log.raised.length + 2) ∧
    (Yields .randomBitGeneratorHealthFail s fun t =>
      halted t ∧ (t.mode.plan.map fun m => (m.target, m.cause)) = some (.lockdown, 0x15))) ∧
  (∀ s e, s.err.dbl = false → s.err.opened = true → s.mode.mode ≠ .vault → s.mode.mode ≠ .freeze →
    (s.mode.mode = .start → s.start.halt = false) → Yields (.deviceLevelError e) s fun t =>
      t.err.dbl = true ∧ t.err.second = BitVec.ofNat 8 (devCode e) ∧ t.mode.mode = s.mode.mode ∧
      (t.mode.plan.map fun m => (m.target, m.cause)) = some (.lockdown, 0x14) ∧
      t.cx.umber = .off ∧ t.cx.slate = .off ∧ t.cx.holder = none ∧ t.keys = KeySt.init ∧ t.root = s.root) ∧
  (∀ s m, s.mode.plan = some m → m.target = .lockdown → m.frame ≤ s.clock.frame → s.clock.phase = .commit →
    s.err.dbl = true → Yields .modeTransition s fun t =>
      t.mode.mode = .lockdown ∧ t.mode.cause = m.cause ∧ t.mode.prior = s.mode.mode ∧ t.err.dbl = true ∧
      t.cx.umber = s.cx.umber ∧ t.cx.slate = s.cx.slate ∧ t.keys = s.keys) ∧
  (∀ s e, s.mode.mode = .start → s.start.halt = true → Yields (.deviceLevelError e) s fun t => t = s) ∧
  (∀ s, inStage s .s7 = true → Yields (.integrityAlarm .counterBlock) s fun t =>
    t.start.stage = .s8 ∧ t.start.service = true ∧ t.start.jpend = true ∧ t.mode = s.mode ∧ t.keys = s.keys)

/-- 13 R420: FREEZE_ARM and FREEZE_DISARM end with success and no other effect before their commit point; in Black
arming awaits a confirm press, and a match field without trigger 1 is BAD_FIELD. 13 R419 to R425: FRZ_N or the frame
match of an armed device is a trigger, after whose frame Freeze is entered with no commit point of its own; the
capture port then sends the image bit by bit, and an unarmed FRZ_N or a CAP_CLK edge outside Freeze is a tamper
source. -/
def Obligations.FreezeIsArmedEnteredAndCaptured : Prop :=
  (∀ s p i k, AtVisit s p i 0x4B k →
      ((Entry.arg k.head).getLsbD 0 = true → armFieldsOk k.head = true → (lifecycle s.fuse ≠ .black ∨ k.pressed = true) →
        Answers (.freezeArm p i) s p i k Status.success []) ∧
      ((Entry.arg k.head).getLsbD 0 = true → armFieldsOk k.head = true → lifecycle s.fuse = .black → k.pressed = false →
        Yields (.freezeArm p i) s fun t =>
          t.taken? { p := p, r := 0, i := i } = some { k with stage := .confirm } ∧ OnlyPorts s t) ∧
      ((Entry.arg k.head).getLsbD 0 = true → armFieldsOk k.head = false →
        Answers (.freezeArm p i) s p i k Status.badField []) ∧
      ((Entry.arg k.head).getLsbD 0 = false → armFieldsOk k.head = true →
        Answers (.freezeDisarm p i) s p i k Status.success [])) ∧
  ((∀ s, frzSampled s = true → s.frz.trigger = none → 30 ≤ (s.mode.plan.map (·.rank)).getD 70 →
      ((s.frz.armed = true ∨ openLifecycle s = true) → Yields .freezePinTrigger s fun t =>
        t = { s with frz := { s.frz with pin := false, trigger := some (if s.frz.armed then 0 else 4, s.clock.frame) } }) ∧
      (s.frz.armed = true → s.frz.trig = 1 → s.clock.frame % 2 ^ 20 = s.frz.mtch.toNat → Yields .freezeFrameMatch s fun t =>
        t = { s with frz := { s.frz with trigger := some (1, s.clock.frame) } })) ∧
    (∀ s, s.frz.trigger.isSome = true → s.clock.phase = .commit → Yields .freezeEntry s fun t =>
      t.mode.mode = .freeze ∧ t.mode.prior = s.mode.mode ∧ t.mode.cause = 0x12 ∧ t.mode.plan = none ∧
      t.mode.entry = s.clock.frame ∧ t.clock.phase = .stopped ∧ t.frz.modeAt = s.mode.mode ∧ t.frz.ready = false ∧
      t.frz.capDat = true ∧ t.frz.armed = false ∧ t.keys = KeySt.init ∧ t.gate = s.gate ∧ t.jnl = s.jnl ∧
      t.root = s.root ∧ t.fuse = s.fuse) ∧
    (∀ s, s.mode.mode = .freeze → s.frz.ready = false → s.frz.stopped = false → Yields .captureReady s fun t =>
      t = { s with frz := { s.frz with ready := true, pos := 0, capDat := false } }) ∧
    (∀ s, s.mode.mode = .freeze → s.frz.ready = true →
      (s.frz.pos < 8 * streamLen s → Yields .capClkFallingEdge s fun t =>
        t = { s with frz := { s.frz with
          pos := s.frz.pos + 1, capDat := (streamByte s (s.frz.pos / 8)).getLsbD (s.frz.pos % 8) } }) ∧
      (8 * streamLen s ≤ s.frz.pos → Yields .capClkFallingEdge s fun t =>
        t = { s with frz := { s.frz with capDat := true } }) ∧
      (Yields .captureRestart s fun t => t = { s with frz := { s.frz with pos := 0, capDat := false, pin := false } })) ∧
    (∀ s o, o < 8 → streamByte s o = (leBytes 8 0x4156363646525A31).getD o 0) ∧
    (∀ s (t : OrderTag) k, k < 256 → s.gate.tags[k]? = some t → plans s.cx.umber = true → ∀ o, o < 8 →
      regionByte s 3 (64 + 72 * k + o) = (orderTagBytes t .umber).getD o 0) ∧
    (∀ s, streamLen s = if openLifecycle s then 6127360 else 6061824) ∧
    (∀ s, frzSampled s = true → s.frz.armed = false → openLifecycle s = false → Yields (.frzMisuse .unarmedPin) s fun t =>
      t.sec.latch = true ∧ t.sec.seen.getLsbD 7 = true ∧ t.frz.pin = false) ∧
    (∀ s, s.mode.mode ≠ .freeze → s.mode.mode ≠ .vault → Yields (.frzMisuse .capClk) s fun t =>
      t.sec.latch = true ∧ t.sec.seen.getLsbD 7 = true ∧ t.frz.pin = s.frz.pin))

/-- 03 R67, 14 R437, 02 R42: VIN_VALID, VIN_LOST and POWER_ON_END move the device between Vault and the stages of
Start. What is not volatile stays. 14 R443, R449, 02 R48: without VIN the loss of VBAT takes the always-on state with
it and its return restarts the domain; WAKE_IN leaves Vault or Drowse while AUX0 has that function; a boundary-scan
instruction acts as BYPASS where it may not drive pins. 14 R450: a data scan of the boundary register captures the 29 balls
and their enables in its 58 cells, and what was shifted in drives the balls that can drive under EXTEST; capture, shift and
update are those of IEEE 1149.1 (log entry 80). -/
def Obligations.SupplyAndAlwaysOnDomain : Prop :=
  ((∀ s, s.mode.mode = .vault → Yields .vinValid s fun t =>
      t.mode.mode = .start ∧ t.mode.prior = .vault ∧ t.mode.cause = 0x01 ∧ t.start.stage = .h ∧ t.supply.vin = true ∧
      t.root = s.root ∧ t.fuse = s.fuse ∧ t.fw = s.fw ∧ t.jnl = s.jnl ∧ t.sec = s.sec) ∧
    (∀ s n rev, s.mode.mode ≠ .vault → Yields (.vinLost n rev) s fun t =>
      t.mode.mode = .vault ∧ t.mode.prior = s.mode.mode ∧ t.supply.vin = false ∧ t.clock.phase = .stopped ∧
      t.keys = KeySt.init ∧ t.cache = CacheSt.init s.supply.strap ∧ t.array = none ∧ t.shifts = [] ∧ t.morders = [] ∧
      t.jnl.inflight = [] ∧ t.jnl.mem = (landWrites s n).jnl.mem ∧ t.root = (landWrites s n).root ∧
      (s.jnl.inflight = [] → t.root = s.root ∧ t.jnl.mem = s.jnl.mem) ∧ t.fuse = s.fuse ∧ t.fw = s.fw ∧
      t.pending = s.pending ∧ t.out = s.out) ∧
    (∀ s strap, s.mode.mode = .start → s.start.stage = .h → Yields (.powerOnEnd strap) s fun t =>
      t.start = StartSt.init ∧ t.clock.frame = 0 ∧ t.mode.mode = .start ∧ t.mode.prior = .vault ∧ t.supply.strap = strap ∧
      t.cache.cmask = defaultMasks strap ∧ t.root = s.root ∧ t.jnl.mem = s.jnl.mem)) ∧
  ((∀ s, s.supply.vin = false → s.supply.vbat = true → Yields .vbatLost s fun t =>
      t.supply.vbat = false ∧ t.clock.rtc = 0 ∧ t.clock.aonLost = true ∧ t.sec.latch = false ∧
      (∀ x ∈ t.mode.acmp.toList, x = none) ∧ t.root = s.root ∧ t.fuse = s.fuse ∧ t.jnl = s.jnl) ∧
    (∀ s, s.supply.vin = false → s.supply.vbat = false → Yields .vbatRestored s fun t =>
      t = { s with supply := { s.supply with vbat := true, vbatReversed := false }, clock := { s.clock with rtc := 0, aonLost := true } }) ∧
    (∀ s, s.mode.auxOwn.toList.getD 0 0 = 7 →
      (s.mode.mode = .vault → Yields .wakeIn s fun t =>
        t.mode.mode = .start ∧ t.start.stage = .h ∧ t.supply.vin = true ∧ t.root = s.root) ∧
      (s.mode.mode = .drowse → s.mode.plan = none → Yields .wakeIn s fun t =>
        (t.mode.plan.map fun m => (m.kind, m.cause)) = some (.wake, 0x0D) ∧ t.mode.mode = .drowse)) ∧
    (∀ s lv, Yields (.boundaryScanInstruction ⟨1, [], lv⟩) s fun t => t = { s with scanIr := 1 }) ∧
    (∀ s c lv, (c = 0x00 ∨ c = 0x02 ∨ c = 0x03) →
      (s.mode.mode = .service ∨ s.mode.mode = .factory ∨ (s.mode.mode = .start ∧ s.start.halt = true) →
        Yields (.boundaryScanInstruction ⟨c, [], lv⟩) s fun t => t = { s with scanIr := c }) ∧
      (s.mode.mode ≠ .service → s.mode.mode ≠ .factory → (s.mode.mode = .start → s.start.halt = false) →
        Yields (.boundaryScanInstruction ⟨c, [], lv⟩) s fun t => ∃ r : LogRec, r.type = 0x07F ∧ r.payload = [0xF07, 7] ∧
          t = { s with scanIr := 0xFF, log := { s.log with raised := s.log.raised ++ [r] } })) ∧
    (∀ s lv (c : BitVec 8), 0x80 ≤ c.toNat → c.toNat ≤ 0x8F → Yields (.boundaryScanInstruction ⟨c, [], lv⟩) s fun t =>
      t = { s with scanIr := if lifecycle s.fuse = .white ∨ lifecycle s.fuse = .red then c else 0xFF }) ∧
    (∀ s lv (c : BitVec 8), 0x03 < c.toNat → (c.toNat < 0x80 ∨ 0x8F < c.toNat) → Yields (.boundaryScanInstruction ⟨c, [], lv⟩) s fun t =>
      t = { s with scanIr := 0xFF }) ∧
    (∀ s tdi lv, tdi.length = 58 →
      (let scans : Instr → Prop := fun c => Yields c s fun t =>
         (∀ i, i < 58 → t.scanHold.getLsbD i = tdi.getD i false) ∧ t.portA = s.portA ∧ t.portB = s.portB ∧
         t.slots = s.slots ∧
         ∃ x, t.out = s.out ++ [.tdo x] ∧ x.length = 58 ∧ ∀ i, i < 29 →
           x.getD (2 * i) false = (ballDrives { s with scanIr := t.scanIr } i).getD (lv.getLsbD i) ∧
           x.getD (2 * i + 1) false = (coreDrives s i).isSome
       scans (.boundaryScanInstruction ⟨1, tdi, lv⟩) ∧
       (pinsMode s = true → scans (.boundaryScanInstruction ⟨0, tdi, lv⟩)) ∧
       (pinsMode s = true → Yields (.boundaryScanInstruction ⟨0, tdi, lv⟩) s fun t => ∀ i, ballOut i = true →
         ballDrives t i = if tdi.getD (2 * i + 1) false then some (tdi.getD (2 * i) false) else none) ∧
       (pinsMode s = true → Yields (.boundaryScanInstruction ⟨2, [], lv⟩) s fun t => ∀ i, ballOut i = true → ballDrives t i = none))) ∧
    (∀ s b tdi lv, Yields (.boundaryScanInstruction ⟨0xFF, (b :: tdi), lv⟩) s fun t =>
      t = { s with scanIr := 0xFF, out := s.out ++ [.tdo (false :: (b :: tdi).dropLast)] }) ∧
    (∀ s, Yields .testLogicReset s fun t => t = { s with scanIr := 0xFF }))

/-! ## The machine as a whole -/

/-- A step takes the command at the front of the queue and is `exec` of it on the state with the queue's rest; on an empty
queue it is one tick of the always-on clock (the model's choice, log entry 3). -/
def Obligations.StepRunsTheFrontCommand : Prop :=
  (∀ s c cs, s.pending = c :: cs → step s = exec c { s with pending := cs }) ∧
  (∀ c s, step { s with pending := c :: s.pending } = exec c s) ∧
  (∀ s, s.pending = [] → aonAlive s = true →
    step s = .next { s with clock := { s.clock with rtc := (s.clock.rtc + 1) % 2 ^ 48 } }) ∧
  (∀ s, s.pending = [] → aonAlive s = false → step s = .next s)

/-- Tables 2-5 and 3-5, and 4-5, 4-7, 5-8, 8-6, 11-9, 12-10, 13-9: after reset the MODE and START blocks read their reset
values at both ports, the other blocks read 0 (03 R78), and hold their reset values for when the mode opens them; the device
is in Start with nothing queued, and the invariants below hold. -/
def Obligations.ResetLeavesTheRegistersAtTheirValues : Prop :=
  (∀ p : Port, ∀ x ∈ ([
      (0x0100, 1), (0x0104, 0x7001), (0x0108, 0), (0x010C, 0), (0x0110, 0), (0x0114, 0x64), (0x0118, 0), (0x011C, 0),
      (0x0120, 0), (0x0124, 0), (0x0128, 0), (0x012C, 0xA000A0), (0x0200, 1), (0x0204, 0), (0x0208, 0), (0x020C, 0),
      (0x0210, 0), (0x0214, 0)] : List (Nat × Nat)), bar0Read State.reset p x.1 = BitVec.ofNat 32 x.2) ∧
  (∀ p : Port, ∀ x ∈ ([
      (0x0004, 0), (0x0008, 0), (0x000C, 0x80), (0x0018, 0), (0x001C, 0), (0x0020, 8), (0x2000, 0), (0x2004, 0),
      (0x2040, 1), (0x1000, 0), (0x1004, 0), (0x1008, 0), (0x100C, 0), (0x1010, 0), (0x1014, 0x80010010), (0x1020, 0),
      (0x1024, 0), (0x1028, 0), (0x102C, 0x1000), (0x1030, 0x1000), (0x1100, 0), (0x1104, 0), (0x1108, 0x2020),
      (0x110C, 1), (0x1110, 0x1000), (0x1114, 0), (0x1118, 0), (0x111C, 0), (0x5000, 0), (0x5004, 0), (0x5008, 0),
      (0x500C, 0), (0x5030, 0), (0x5034, 0), (0x5038, 0), (0x503C, 0), (0x5040, 0), (0x6010, 0x104), (0x6014, 0x14),
      (0x6018, 0xA0003C), (0x601C, 0), (0x6024, 0xFF), (0x7000, 0x10024), (0x700C, 0x20), (0x7010, 0), (0x7014, 0),
      (0x7018, 0), (0x701C, 0), (0x4000, 0), (0x4004, 0), (0x4008, 0), (0x4014, 0), (0x4018, 0),
      (0x401C, 8)] : List (Nat × Nat)),
    bar0Read State.reset p x.1 = 0 ∧
    bar0Read { State.reset with mode := { State.reset.mode with mode := .service } } p x.1 = BitVec.ofNat 32 x.2) ∧
  State.reset.pending = [] ∧ State.reset.mode.mode = .start ∧ State.reset.mode.prior = .vault ∧
  State.reset.clock.frame = 0 ∧ MemoriesWf State.reset ∧ IdsApart State.reset

/-- A string written into a memory reads back, every other byte reads as before, and the canonical form is kept; a memory
in canonical form is known by what its bytes read as. -/
def Obligations.MemoryReadsBackWhatWasWritten : Prop :=
  (∀ m a bs, Memory.wf m = true → Memory.wf (Memory.write m a bs) = true ∧
    Memory.read (Memory.write m a bs) a bs.length = bs ∧
    ∀ b, (b < a ∨ a + bs.length ≤ b) → Memory.get (Memory.write m a bs) b = Memory.get m b) ∧
  (∀ m a n i, i < n → (Memory.read m a n)[i]? = some (Memory.get m (a + i))) ∧
  (∀ m m', Memory.wf m = true → Memory.wf m' = true → (∀ a, Memory.get m a = Memory.get m' a) → m = m')

/-- From every state whose root store, journal and staging memory are in canonical form, a step gives such a state. -/
def Obligations.EveryStepKeepsTheMemoriesCanonical : Prop :=
  ∀ s s', MemoriesWf s → step s = .next s' → MemoriesWf s'

/-- From every state in which the ids of shifts and member orders are apart, a step gives such a state: a completion
reaches one owner, and a new shift or order never takes the id of another. -/
def Obligations.EveryStepKeepsIdsApart : Prop :=
  ∀ s s', IdsApart s → step s = .next s' → IdsApart s'

/-- Every command completes in every state, and none takes from the queue, takes back what was sent, clears a fuse or
changes a fused secret: the lifecycle bits and the repairs only grow. -/
def Obligations.NoCommandStopsOrTakesBack : Prop :=
  ∀ c s, Yields c s fun t =>
    t.pending = s.pending ∧ s.out <+: t.out ∧ s.free ≤ t.free ∧ s.fuse.repairs <+: t.fuse.repairs ∧
    (s.fuse.g = true → t.fuse.g = true) ∧ (s.fuse.b = true → t.fuse.b = true) ∧ (s.fuse.x = true → t.fuse.x = true) ∧
    t.fuse.deviceSeed = s.fuse.deviceSeed ∧ t.fuse.fleetSeed = s.fuse.fleetSeed ∧ t.fuse.pk = s.fuse.pk ∧
    t.fuse.pkgKey = s.fuse.pkgKey ∧ t.fuse.sigRef = s.fuse.sigRef

/-- 07 R206: the product is that of GF(2^8) modulo 0x11D, with its powers of the generator, and each redundancy unit holds
the sum of its products at every byte. So data units lost from a row, and accumulators that stand, give the data again
wherever the system of the first accumulators is not singular (07 R215, R219). -/
def Obligations.LostUnitsAreSolvedFromTheRest : Prop :=
  (∀ a b c : Byte, gfMul (a ^^^ b) c = gfMul a c ^^^ gfMul b c ∧ gfMul a b = gfMul b a ∧
    gfMul (gfMul a b) c = gfMul a (gfMul b c) ∧ gfMul 1 a = a ∧
    gfMul 2 a = (a <<< 1) ^^^ (if a.msb then 0x1D else 0) ∧ (a ≠ 0 → gfMul a (gfInv a) = 1)) ∧
  (gfPow 0 = 1 ∧ (∀ i, gfPow (i + 1) = gfMul 2 (gfPow i)) ∧ (∀ i, gfPow i = gfPow (i % 255)) ∧ gfPow 7 = 0x80 ∧
    gfPow 8 = 0x1D ∧ gfPow 9 = 0x3A ∧ gfInv 2 = 0x8E) ∧
  (∀ (d : Descriptor) (a : Nat) (data : List Bytes) (i : Nat), (∀ b ∈ data, b.length = blockBytes) → i < blockBytes →
    (redBlock d a data).length = blockBytes ∧
    (redBlock d a data).getD i 0 =
      ((List.range data.length).map fun j => gfMul (d.coef a j) ((data.getD j []).getD i 0)).foldl (· ^^^ ·) 0) ∧
  (∀ (d : Descriptor) (data : List Bytes) (lost avail : Nat → Bool) (m : Nat), (∀ b ∈ data, b.length = blockBytes) →
    let js := (List.range data.length).filter lost
    let as := ((List.range m).filter avail).take js.length
    let known := (List.range data.length).map fun j => if lost j then none else some (data.getD j [])
    let reds := (List.range m).map fun a => if avail a then some (redBlock d a data) else none
    (as.length = js.length ∧ systemDet d as js ≠ 0 → solveBlock d known reds = some data) ∧
    (as.length ≠ js.length ∨ systemDet d as js = 0 → solveBlock d known reds = none))

/-- 10 R302: a wrap is the secret under the counter-mode keystream that begins at its tag, followed by the tag; unwrapping
gives the secret back, and nothing where the tag recomputed differs. 10 R300, R311: what XTS-AES-256 encrypts under a
volume's keys and an LBN it decrypts to the same block. -/
def Obligations.WhatIsEncryptedIsDecryptedAgain : Prop :=
  (∀ t k ctx x, k.length = 32 → x.length = 32 → t ≤ 16 →
    let tag := (cmac (kdf k (label "WMC") ctx) x).take t
    let key := kdf k (label "WEN") ctx
    let c0 := tag ++ zeros (16 - t)
    wrap t k ctx x = xorBytes x (aesEnc key c0 ++ aesEnc key (beBytes 16 ((beNat c0 + 1) % 2 ^ 128))) ++ tag ∧
    (wrap t k ctx x).length = 32 + t ∧ unwrap t k ctx (wrap t k ctx x) = some x) ∧
  (∀ t k ctx w, k.length = 32 → w.length = 32 + t → t ≤ 16 →
    let key := kdf k (label "WEN") ctx
    let c0 := w.drop 32 ++ zeros (16 - t)
    let x := xorBytes (w.take 32) (aesEnc key c0 ++ aesEnc key (beBytes 16 ((beNat c0 + 1) % 2 ^ 128)))
    unwrap t k ctx w = if (cmac (kdf k (label "WMC") ctx) x).take t = w.drop 32 then some x else none) ∧
  (∀ (f : Fuses) u cred amk, f.pk.length = 32 → amk.length = 32 → (homeWrap f u cred amk).length = 48) ∧
  (∀ amk u v vs, amk.length = 32 → vs.length = 32 → (wrap 8 (vwk amk u v) (volCtx u v) vs).length = 40) ∧
  (∀ key b : Bytes, key.length = 32 → b.length = 16 → aesDec key (aesEnc key b) = b) ∧
  (∀ (k : VolKeys) lbn b, k.xts1.length = 32 → k.xts2.length = 32 → b.length = blockBytes →
    (xtsEnc k lbn b).length = blockBytes ∧ xtsDec k lbn (xtsEnc k lbn b) = b)

/-- 08 R236, 14 R437, 11 R339, 03 R77, R81, 06 R188: the journal's lines change only as a commit lands, or is completed at the
loss of VIN or by a Start without one; fuses only in S1 or by a self-test's repair; the firmware store only at the commit point of a
load, by an activation's transition, or the boot that selects an image. -/
def Obligations.StoresChangeOnlyThroughTheirCommands : Prop :=
  ∀ c s t, exec c s = .next t →
    (t.jnl.mem = s.jnl.mem ∨ c = .journalDurable ∨ (∃ n r, c = .vinLost n r) ∨ c = .startSlotTakedownEnd) ∧
    (t.fuse = s.fuse ∨ (∃ w, c = .windowsClose w) ∨ (∃ g fs, c = .selfTestDone g fs)) ∧
    (t.fw = s.fw ∨ (∃ g, c = .commitPoint g) ∨ c = .modeTransition ∨ (∃ u l, c = .secureBootEnd u l) ∨
      ∃ b, c = .stageTimeout b)
end

