-- ==== Sys2Proof/Laws/Crypto.lean ====
section
/-! SUPPORT. The lengths of what AES-256 and AES-CMAC give, and that a wrap opens under its own key (10 R302). -/
namespace Sys2Proof.Laws
open Sys2Proof Sys2Proof.Machine

@[simp] theorem xorBytes_length (a b : Bytes) : (xorBytes a b).length = min a.length b.length := by simp [xorBytes]

@[simp] theorem zeros_length (n : Nat) : (zeros n).length = n := by simp [zeros]

theorem xorBytes_cancel (x k : Bytes) (h : x.length ≤ k.length) : xorBytes (xorBytes x k) k = x := by
  induction x generalizing k with
  | nil => simp [xorBytes]
  | cons a x ih =>
    cases k with
    | nil => simp at h
    | cons b k =>
      have := ih k (by simpa using h)
      simp only [xorBytes, List.zipWith_cons_cons, List.cons.injEq] at this ⊢
      exact ⟨by rw [BitVec.xor_assoc, BitVec.xor_self, BitVec.xor_zero], this⟩

/-- A string of m pieces of n bytes falls into m chunks of n bytes. -/
theorem chunks_even (n m : Nat) (l : Bytes) (hn : 0 < n) (h : l.length = n * m) :
    (chunks n m l).length = m ∧ ∀ c ∈ chunks n m l, c.length = n := by
  induction m generalizing l with
  | zero => simp [chunks]
  | succ m ih =>
    have hl : l.isEmpty = false := by
      cases l with
      | nil => simp [Nat.mul_succ] at h; omega
      | cons a l => rfl
    have hm : n * (m + 1) = n * m + n := Nat.mul_succ n m
    have := ih (l.drop n) (by rw [List.length_drop]; omega)
    simp only [chunks, hl, Bool.false_eq_true, if_false, List.length_cons, List.mem_cons]
    refine ⟨by omega, ?_⟩
    rintro c (rfl | hc)
    · rw [List.length_take]; omega
    · exact this.2 c hc

theorem flatten_length (n : Nat) (l : List Bytes) (h : ∀ c ∈ l, c.length = n) : l.flatten.length = n * l.length := by
  induction l with
  | nil => simp
  | cons a l ih =>
    have := ih fun c hc => h c (List.mem_cons_of_mem _ hc)
    have ha := h a List.mem_cons_self
    simp only [List.flatten_cons, List.length_append, List.length_cons, Nat.mul_succ]
    omega

theorem getD_length (n i : Nat) (l : List Bytes) (hi : i < l.length) (h : ∀ c ∈ l, c.length = n) :
    (l.getD i []).length = n := by
  rw [List.getD_eq_getElem?_getD, List.getElem?_eq_getElem hi]
  exact h _ (List.getElem_mem hi)

theorem keyWords_even (n i : Nat) (rc : Byte) (w : List Bytes) (hw : 8 ≤ w.length) (h : ∀ c ∈ w, c.length = 4) :
    (keyWords n i rc w).length = w.length + n ∧ ∀ c ∈ keyWords n i rc w, c.length = 4 := by
  induction n generalizing i rc w with
  | zero => exact ⟨rfl, h⟩
  | succ n ih =>
    obtain ⟨a, r, rfl⟩ : ∃ a r, w = a :: r := by
      cases w with
      | nil => simp at hw
      | cons a r => exact ⟨a, r, rfl⟩
    have ha : a.length = 4 := h a List.mem_cons_self
    have hb : ((a :: r).getD 7 []).length = 4 := getD_length 4 7 _ (by omega) h
    have more : ∀ x : Bytes, x.length = 4 → ∀ c ∈ x :: a :: r, c.length = 4 := by
      intro x hx c hc
      rcases List.mem_cons.mp hc with rfl | hc
      · exact hx
      · exact h c hc
    simp only [keyWords, List.headD_cons]
    split
    · have := ih (i + 1) (xtime rc) _ (by simp at hw ⊢; omega)
        (more (xorBytes ((a :: r).getD 7 []) (xorBytes ((a.drop 1 ++ a.take 1).map subByte) [rc, 0, 0, 0]))
          (by rw [xorBytes_length, hb, xorBytes_length, List.length_map, List.length_append, List.length_drop,
            List.length_take, ha]; rfl))
      exact ⟨by rw [this.1]; simp; omega, this.2⟩
    · split
      · have := ih (i + 1) rc _ (by simp at hw ⊢; omega)
          (more (xorBytes ((a :: r).getD 7 []) (a.map subByte))
          (by rw [xorBytes_length, hb, List.length_map, ha]; rfl))
        exact ⟨by rw [this.1]; simp; omega, this.2⟩
      · have := ih (i + 1) rc _ (by simp at hw ⊢; omega)
          (more (xorBytes ((a :: r).getD 7 []) a)
          (by rw [xorBytes_length, hb, ha]; rfl))
        exact ⟨by rw [this.1]; simp; omega, this.2⟩

theorem roundKeys_even (key : Bytes) (h : key.length = 32) :
    (roundKeys key).length = 15 ∧ ∀ c ∈ roundKeys key, c.length = 16 := by
  have h0 := chunks_even 4 8 key (by omega) (by omega)
  have h1 := keyWords_even 52 8 1 (chunks 4 8 key).reverse (by rw [List.length_reverse]; omega)
    (by intro c hc; exact h0.2 c (List.mem_reverse.mp hc))
  refine chunks_even 16 15 _ (by omega) ?_
  rw [flatten_length 4]
  · rw [List.length_reverse, h1.1, List.length_reverse, h0.1]
  · intro c hc; exact h1.2 c (List.mem_reverse.mp hc)

theorem aesRounds_length (key b : Bytes) (h : key.length = 32) : (aesRounds (roundKeys key) b).length = 16 := by
  have hk := roundKeys_even key h
  have h14 : ((roundKeys key).getD 14 []).length = 16 := getD_length 16 14 _ (by omega) hk.2
  simp only [aesRounds, xorBytes_length, shiftRows, List.length_map, List.length_range, h14]
  rfl

theorem cmac_length (key m : Bytes) (h : key.length = 32) : (cmac key m).length = 16 := aesRounds_length _ _ h

theorem kdf_length (k lab ctx : Bytes) (h : k.length = 32) : (kdf k lab ctx).length = 32 := by
  simp [kdf, cmac_length _ _ h]

/-- What a key wraps, the same key unwraps. -/
theorem unwrap_wrap (t : Nat) (k ctx x : Bytes) (hk : k.length = 32) (hx : x.length = 32) (ht : t ≤ 16) :
    unwrap t k ctx (wrap t k ctx x) = some x := by
  have hkey := kdf_length k (label "WEN") ctx hk
  have htag : ((cmac (kdf k (label "WMC") ctx) x).take t).length = t := by
    rw [List.length_take, cmac_length _ _ (kdf_length _ _ _ hk)]; omega
  have hs : ∀ c0 : Bytes, (ctrWrap (kdf k (label "WEN") ctx) c0 x).length = 32 := by
    intro c0; simp [ctrWrap, aesRounds_length _ _ hkey, hx]
  have hslice : slice (wrap t k ctx x) 32 t = (cmac (kdf k (label "WMC") ctx) x).take t := by
    have e := hs ((cmac (kdf k (label "WMC") ctx) x).take t)
    rw [slice, wrap, List.drop_left' e, List.take_of_length_le (by omega)]
  have hhead : (wrap t k ctx x).take 32 = ctrWrap (kdf k (label "WEN") ctx) ((cmac (kdf k (label "WMC") ctx) x).take t) x :=
    List.take_left' (hs _)
  have hback : ∀ c0, ctrWrap (kdf k (label "WEN") ctx) c0 (ctrWrap (kdf k (label "WEN") ctx) c0 x) = x := by
    intro c0
    exact xorBytes_cancel _ _ (by simp [aesRounds_length _ _ hkey, hx])
  simp [unwrap, hslice, hhead, hback]

/-- The credential of the home wrap opens the array. -/
theorem openWraps_home (f : Fuses) (a : ArraySt) (cred amk : Bytes) (hf : (drk f).length = 32) (ha : a.mkeyFormat = 1)
    (hx : amk.length = 32) (hh : a.home = homeWrap f a.uuid cred amk) : openWraps f a cred = some (amk, false) := by
  have := unwrap_wrap 16 (hwk f a.uuid (credDigest f a.uuid cred)) (uuidBytes a.uuid) amk (kdf_length _ _ _ hf) hx (by omega)
  simp only [openWraps, ha, hh, homeWrap, this]
  rfl

end Sys2Proof.Laws
end

