-- ==== Sys2Proof/Laws/Memory.lean ====
section
/-! SUPPORT. The sparse memories (root store, journal, staging region): every operation on them keeps the canonical form,
and a write is read back and leaves every other byte. -/
namespace Sys2Proof.Machine

theorem Memory.wf_iff (m : Memory) : Memory.wf m = true ↔ m.Pairwise (fun x y => x.1 < y.1) ∧ ∀ c ∈ m, c.2 ≠ 0 := by
  simp [Memory.wf]

theorem Memory.wf_nil : Memory.wf [] = true := rfl

/-- What is left of a canonical memory is canonical. -/
theorem Memory.filter_wf (m : Memory) (f : Nat × Byte → Bool) (h : Memory.wf m = true) : Memory.wf (m.filter f) = true := by
  rw [Memory.wf_iff] at h ⊢
  exact ⟨h.1.sublist List.filter_sublist, fun c hc => h.2 c ((List.mem_filter.mp hc).1)⟩

/-- The cells of a string lie where it was written, and hold no 0. -/
theorem cellsFrom_mem (bs : Bytes) (a : Nat) (c : Nat × Byte) (h : c ∈ cellsFrom a bs) :
    a ≤ c.1 ∧ c.1 < a + bs.length ∧ c.2 ≠ 0 := by
  induction bs generalizing a with
  | nil => simp [cellsFrom] at h
  | cons b bs ih =>
    unfold cellsFrom at h
    split at h
    · have := ih (a + 1) h
      simp only [List.length_cons]
      exact ⟨by omega, by omega, this.2.2⟩
    · rcases List.mem_cons.mp h with h | h
      · subst h
        simp only [List.length_cons]
        exact ⟨by omega, by omega, by assumption⟩
      · have := ih (a + 1) h
        simp only [List.length_cons]
        exact ⟨by omega, by omega, this.2.2⟩

theorem cellsFrom_sorted (bs : Bytes) (a : Nat) : (cellsFrom a bs).Pairwise (fun x y => x.1 < y.1) := by
  induction bs generalizing a with
  | nil => simp [cellsFrom]
  | cons b bs ih =>
    unfold cellsFrom
    split
    · exact ih (a + 1)
    · refine List.pairwise_cons.mpr ⟨fun c hc => ?_, ih (a + 1)⟩
      have := (cellsFrom_mem bs (a + 1) c hc).1
      omega

/-- A write keeps the canonical form. -/
theorem Memory.write_wf (m : Memory) (a : Nat) (bs : Bytes) (h : Memory.wf m = true) :
    Memory.wf (Memory.write m a bs) = true := by
  rw [Memory.wf_iff] at h ⊢
  unfold Memory.write
  have hl : ∀ c ∈ m.filter (fun c => decide (c.1 < a)), c.1 < a := fun c hc => by
    simpa using (List.mem_filter.mp hc).2
  have hr : ∀ c ∈ m.filter (fun c => decide (a + bs.length ≤ c.1)), a + bs.length ≤ c.1 := fun c hc => by
    simpa using (List.mem_filter.mp hc).2
  constructor
  · rw [List.append_assoc, List.pairwise_append, List.pairwise_append]
    refine ⟨h.1.sublist List.filter_sublist, ⟨cellsFrom_sorted bs a, h.1.sublist List.filter_sublist, ?_⟩, ?_⟩
    · intro x hx y hy
      have h1 := cellsFrom_mem bs a x hx
      have h2 := hr y hy
      omega
    · intro x hx y hy
      have h1 := hl x hx
      rcases List.mem_append.mp hy with hy | hy
      · have h2 := cellsFrom_mem bs a y hy
        omega
      · have h2 := hr y hy
        omega
  · intro c hc
    rcases List.mem_append.mp hc with hc | hc
    · rcases List.mem_append.mp hc with hc | hc
      · exact h.2 c ((List.mem_filter.mp hc).1)
      · exact (cellsFrom_mem bs a c hc).2.2
    · exact h.2 c ((List.mem_filter.mp hc).1)

/-- Writes in a row keep the canonical form. -/
theorem Memory.writes_wf (ws : List (Nat × Bytes)) (m : Memory) (h : Memory.wf m = true) :
    Memory.wf (ws.foldl (fun m w => Memory.write m w.1 w.2) m) = true := by
  induction ws generalizing m with
  | nil => exact h
  | cons w ws ih => exact ih _ (Memory.write_wf m w.1 w.2 h)

/-- No cell at an address: the byte there is 0. -/
theorem Memory.get_of_none (m : Memory) (b : Nat) (h : ∀ c ∈ m, c.1 ≠ b) : Memory.get m b = 0 := by
  have : m.find? (fun c => c.1 == b) = none := by
    rw [List.find?_eq_none]
    intro c hc
    simpa using h c hc
  simp [Memory.get, this]

/-- Cells at other addresses in front do not count. -/
theorem Memory.get_append_right (l m : Memory) (b : Nat) (h : ∀ c ∈ l, c.1 ≠ b) :
    Memory.get (l ++ m) b = Memory.get m b := by
  induction l with
  | nil => rfl
  | cons x l ih =>
    have hx : (x.1 == b) = false := by simpa using h x List.mem_cons_self
    have := ih fun c hc => h c (List.mem_cons_of_mem x hc)
    simpa [Memory.get, List.find?_cons, hx] using this

/-- Cells at other addresses behind do not count. -/
theorem Memory.get_append_left (l m : Memory) (b : Nat) (h : ∀ c ∈ m, c.1 ≠ b) :
    Memory.get (l ++ m) b = Memory.get l b := by
  induction l with
  | nil => simpa [Memory.get] using Memory.get_of_none m b h
  | cons x l ih =>
    by_cases hx : (x.1 == b) = true
    · simp [Memory.get, hx]
    · have hx : (x.1 == b) = false := by simpa using hx
      simpa [Memory.get, List.find?_cons, hx] using ih

/-- Cells kept by a filter that keeps every cell of the address. -/
theorem Memory.get_filter (m : Memory) (f : Nat × Byte → Bool) (b : Nat) (h : ∀ c ∈ m, c.1 = b → f c = true) :
    Memory.get (m.filter f) b = Memory.get m b := by
  induction m with
  | nil => rfl
  | cons x m ih =>
    have ih := ih fun c hc => h c (List.mem_cons_of_mem x hc)
    by_cases hx : (x.1 == b) = true
    · have := h x List.mem_cons_self (by simpa using hx)
      simp [Memory.get, this, hx]
    · have hx : (x.1 == b) = false := by simpa using hx
      by_cases hf : f x = true
      · simpa [Memory.get, List.filter_cons, hf, List.find?_cons, hx] using ih
      · have hf : f x = false := by simpa using hf
        simpa [Memory.get, List.filter_cons, hf, List.find?_cons, hx] using ih

/-- A byte of a written string. -/
theorem get_cellsFrom (bs : Bytes) (a i : Nat) (h : i < bs.length) : Memory.get (cellsFrom a bs) (a + i) = bs[i] := by
  induction bs generalizing a i with
  | nil => simp at h
  | cons b bs ih =>
    cases i with
    | zero =>
      unfold cellsFrom
      split
      · rename_i hb
        rw [Memory.get_of_none _ _ fun c hc => by have := (cellsFrom_mem bs (a + 1) c hc).1; omega]
        simpa using hb.symm
      · simp [Memory.get]
    | succ i =>
      have hi : i < bs.length := by simpa using h
      have e : a + (i + 1) = (a + 1) + i := by omega
      have step : Memory.get (cellsFrom a (b :: bs)) (a + (i + 1)) = Memory.get (cellsFrom (a + 1) bs) (a + (i + 1)) := by
        conv => lhs; unfold cellsFrom
        split
        · rfl
        · exact Memory.get_append_right [(a, b)] _ _ fun c hc => by
            simp only [List.mem_singleton] at hc
            subst hc
            simp only [ne_eq]
            omega
      rw [step, e, ih (a + 1) i hi]
      rfl

/-- A byte of the string reads back. -/
theorem Memory.get_write_in (m : Memory) (a i : Nat) (bs : Bytes) (h : i < bs.length) :
    Memory.get (Memory.write m a bs) (a + i) = bs[i] := by
  unfold Memory.write
  rw [Memory.get_append_left, Memory.get_append_right, get_cellsFrom bs a i h]
  · intro c hc
    have : c.1 < a := by simpa using (List.mem_filter.mp hc).2
    omega
  · intro c hc
    have : a + bs.length ≤ c.1 := by simpa using (List.mem_filter.mp hc).2
    omega

/-- Every byte outside the string reads as before. -/
theorem Memory.get_write_out (m : Memory) (a b : Nat) (bs : Bytes) (h : b < a ∨ a + bs.length ≤ b) :
    Memory.get (Memory.write m a bs) b = Memory.get m b := by
  unfold Memory.write
  rw [List.append_assoc]
  rcases h with h | h
  · rw [Memory.get_append_left]
    · exact Memory.get_filter m _ b fun c _ hc => by simp only [decide_eq_true_eq]; omega
    · intro c hc
      rcases List.mem_append.mp hc with hc | hc
      · have := (cellsFrom_mem bs a c hc).1
        omega
      · have : a + bs.length ≤ c.1 := by simpa using (List.mem_filter.mp hc).2
        omega
  · rw [Memory.get_append_right, Memory.get_append_right]
    · exact Memory.get_filter m _ b fun c _ hc => by simp only [decide_eq_true_eq]; omega
    · intro c hc
      have := (cellsFrom_mem bs a c hc).2.1
      omega
    · intro c hc
      have : c.1 < a := by simpa using (List.mem_filter.mp hc).2
      omega

end Sys2Proof.Machine
end

