-- ==== Sys2Proof/Laws/State.lean ====
section
/-! SUPPORT. One lemma per field per named update of State: what it gives the field it changes, and that every other field
stands. No later proof unfolds a record update. -/
namespace Sys2Proof.Machine

/-! ## `State.modMode` -/

@[simp] theorem State.modMode_pending (s : State) (f : ModeSt → ModeSt) : (s.modMode f).pending = s.pending := rfl
@[simp] theorem State.modMode_out (s : State) (f : ModeSt → ModeSt) : (s.modMode f).out = s.out := rfl
@[simp] theorem State.modMode_free (s : State) (f : ModeSt → ModeSt) : (s.modMode f).free = s.free := rfl
@[simp] theorem State.modMode_clock (s : State) (f : ModeSt → ModeSt) : (s.modMode f).clock = s.clock := rfl
@[simp] theorem State.modMode_supply (s : State) (f : ModeSt → ModeSt) : (s.modMode f).supply = s.supply := rfl
@[simp] theorem State.modMode_fuse (s : State) (f : ModeSt → ModeSt) : (s.modMode f).fuse = s.fuse := rfl
@[simp] theorem State.modMode_root (s : State) (f : ModeSt → ModeSt) : (s.modMode f).root = s.root := rfl
@[simp] theorem State.modMode_fw (s : State) (f : ModeSt → ModeSt) : (s.modMode f).fw = s.fw := rfl
@[simp] theorem State.modMode_start (s : State) (f : ModeSt → ModeSt) : (s.modMode f).start = s.start := rfl
@[simp] theorem State.modMode_mode (s : State) (f : ModeSt → ModeSt) : (s.modMode f).mode = f s.mode := rfl
@[simp] theorem State.modMode_portA (s : State) (f : ModeSt → ModeSt) : (s.modMode f).portA = s.portA := rfl
@[simp] theorem State.modMode_portB (s : State) (f : ModeSt → ModeSt) : (s.modMode f).portB = s.portB := rfl
@[simp] theorem State.modMode_array (s : State) (f : ModeSt → ModeSt) : (s.modMode f).array = s.array := rfl
@[simp] theorem State.modMode_slots (s : State) (f : ModeSt → ModeSt) : (s.modMode f).slots = s.slots := rfl
@[simp] theorem State.modMode_keys (s : State) (f : ModeSt → ModeSt) : (s.modMode f).keys = s.keys := rfl
@[simp] theorem State.modMode_tags (s : State) (f : ModeSt → ModeSt) : (s.modMode f).tags = s.tags := rfl
@[simp] theorem State.modMode_jnl (s : State) (f : ModeSt → ModeSt) : (s.modMode f).jnl = s.jnl := rfl
@[simp] theorem State.modMode_cache (s : State) (f : ModeSt → ModeSt) : (s.modMode f).cache = s.cache := rfl
@[simp] theorem State.modMode_staging (s : State) (f : ModeSt → ModeSt) : (s.modMode f).staging = s.staging := rfl
@[simp] theorem State.modMode_bulk (s : State) (f : ModeSt → ModeSt) : (s.modMode f).bulk = s.bulk := rfl
@[simp] theorem State.modMode_seq (s : State) (f : ModeSt → ModeSt) : (s.modMode f).seq = s.seq := rfl
@[simp] theorem State.modMode_shifts (s : State) (f : ModeSt → ModeSt) : (s.modMode f).shifts = s.shifts := rfl
@[simp] theorem State.modMode_morders (s : State) (f : ModeSt → ModeSt) : (s.modMode f).morders = s.morders := rfl
@[simp] theorem State.modMode_sbq (s : State) (f : ModeSt → ModeSt) : (s.modMode f).sbq = s.sbq := rfl
@[simp] theorem State.modMode_eng (s : State) (f : ModeSt → ModeSt) : (s.modMode f).eng = s.eng := rfl
@[simp] theorem State.modMode_vault (s : State) (f : ModeSt → ModeSt) : (s.modMode f).vault = s.vault := rfl
@[simp] theorem State.modMode_sec (s : State) (f : ModeSt → ModeSt) : (s.modMode f).sec = s.sec := rfl
@[simp] theorem State.modMode_log (s : State) (f : ModeSt → ModeSt) : (s.modMode f).log = s.log := rfl
@[simp] theorem State.modMode_err (s : State) (f : ModeSt → ModeSt) : (s.modMode f).err = s.err := rfl
@[simp] theorem State.modMode_frz (s : State) (f : ModeSt → ModeSt) : (s.modMode f).frz = s.frz := rfl
@[simp] theorem State.modMode_cx (s : State) (f : ModeSt → ModeSt) : (s.modMode f).cx = s.cx := rfl
@[simp] theorem State.modMode_gate (s : State) (f : ModeSt → ModeSt) : (s.modMode f).gate = s.gate := rfl
@[simp] theorem State.modMode_test (s : State) (f : ModeSt → ModeSt) : (s.modMode f).test = s.test := rfl
@[simp] theorem State.modMode_scanIr (s : State) (f : ModeSt → ModeSt) : (s.modMode f).scanIr = s.scanIr := rfl
@[simp] theorem State.modMode_scanCells (s : State) (f : ModeSt → ModeSt) : (s.modMode f).scanCells = s.scanCells := rfl
@[simp] theorem State.modMode_scanHold (s : State) (f : ModeSt → ModeSt) : (s.modMode f).scanHold = s.scanHold := rfl

/-! ## `State.modSec` -/

@[simp] theorem State.modSec_pending (s : State) (f : SecSt → SecSt) : (s.modSec f).pending = s.pending := rfl
@[simp] theorem State.modSec_out (s : State) (f : SecSt → SecSt) : (s.modSec f).out = s.out := rfl
@[simp] theorem State.modSec_free (s : State) (f : SecSt → SecSt) : (s.modSec f).free = s.free := rfl
@[simp] theorem State.modSec_clock (s : State) (f : SecSt → SecSt) : (s.modSec f).clock = s.clock := rfl
@[simp] theorem State.modSec_supply (s : State) (f : SecSt → SecSt) : (s.modSec f).supply = s.supply := rfl
@[simp] theorem State.modSec_fuse (s : State) (f : SecSt → SecSt) : (s.modSec f).fuse = s.fuse := rfl
@[simp] theorem State.modSec_root (s : State) (f : SecSt → SecSt) : (s.modSec f).root = s.root := rfl
@[simp] theorem State.modSec_fw (s : State) (f : SecSt → SecSt) : (s.modSec f).fw = s.fw := rfl
@[simp] theorem State.modSec_start (s : State) (f : SecSt → SecSt) : (s.modSec f).start = s.start := rfl
@[simp] theorem State.modSec_mode (s : State) (f : SecSt → SecSt) : (s.modSec f).mode = s.mode := rfl
@[simp] theorem State.modSec_portA (s : State) (f : SecSt → SecSt) : (s.modSec f).portA = s.portA := rfl
@[simp] theorem State.modSec_portB (s : State) (f : SecSt → SecSt) : (s.modSec f).portB = s.portB := rfl
@[simp] theorem State.modSec_array (s : State) (f : SecSt → SecSt) : (s.modSec f).array = s.array := rfl
@[simp] theorem State.modSec_slots (s : State) (f : SecSt → SecSt) : (s.modSec f).slots = s.slots := rfl
@[simp] theorem State.modSec_keys (s : State) (f : SecSt → SecSt) : (s.modSec f).keys = s.keys := rfl
@[simp] theorem State.modSec_tags (s : State) (f : SecSt → SecSt) : (s.modSec f).tags = s.tags := rfl
@[simp] theorem State.modSec_jnl (s : State) (f : SecSt → SecSt) : (s.modSec f).jnl = s.jnl := rfl
@[simp] theorem State.modSec_cache (s : State) (f : SecSt → SecSt) : (s.modSec f).cache = s.cache := rfl
@[simp] theorem State.modSec_staging (s : State) (f : SecSt → SecSt) : (s.modSec f).staging = s.staging := rfl
@[simp] theorem State.modSec_bulk (s : State) (f : SecSt → SecSt) : (s.modSec f).bulk = s.bulk := rfl
@[simp] theorem State.modSec_seq (s : State) (f : SecSt → SecSt) : (s.modSec f).seq = s.seq := rfl
@[simp] theorem State.modSec_shifts (s : State) (f : SecSt → SecSt) : (s.modSec f).shifts = s.shifts := rfl
@[simp] theorem State.modSec_morders (s : State) (f : SecSt → SecSt) : (s.modSec f).morders = s.morders := rfl
@[simp] theorem State.modSec_sbq (s : State) (f : SecSt → SecSt) : (s.modSec f).sbq = s.sbq := rfl
@[simp] theorem State.modSec_eng (s : State) (f : SecSt → SecSt) : (s.modSec f).eng = s.eng := rfl
@[simp] theorem State.modSec_vault (s : State) (f : SecSt → SecSt) : (s.modSec f).vault = s.vault := rfl
@[simp] theorem State.modSec_sec (s : State) (f : SecSt → SecSt) : (s.modSec f).sec = f s.sec := rfl
@[simp] theorem State.modSec_log (s : State) (f : SecSt → SecSt) : (s.modSec f).log = s.log := rfl
@[simp] theorem State.modSec_err (s : State) (f : SecSt → SecSt) : (s.modSec f).err = s.err := rfl
@[simp] theorem State.modSec_frz (s : State) (f : SecSt → SecSt) : (s.modSec f).frz = s.frz := rfl
@[simp] theorem State.modSec_cx (s : State) (f : SecSt → SecSt) : (s.modSec f).cx = s.cx := rfl
@[simp] theorem State.modSec_gate (s : State) (f : SecSt → SecSt) : (s.modSec f).gate = s.gate := rfl
@[simp] theorem State.modSec_test (s : State) (f : SecSt → SecSt) : (s.modSec f).test = s.test := rfl
@[simp] theorem State.modSec_scanIr (s : State) (f : SecSt → SecSt) : (s.modSec f).scanIr = s.scanIr := rfl
@[simp] theorem State.modSec_scanCells (s : State) (f : SecSt → SecSt) : (s.modSec f).scanCells = s.scanCells := rfl
@[simp] theorem State.modSec_scanHold (s : State) (f : SecSt → SecSt) : (s.modSec f).scanHold = s.scanHold := rfl

/-! ## `State.modCx` -/

@[simp] theorem State.modCx_pending (s : State) (f : CxSt → CxSt) : (s.modCx f).pending = s.pending := rfl
@[simp] theorem State.modCx_out (s : State) (f : CxSt → CxSt) : (s.modCx f).out = s.out := rfl
@[simp] theorem State.modCx_free (s : State) (f : CxSt → CxSt) : (s.modCx f).free = s.free := rfl
@[simp] theorem State.modCx_clock (s : State) (f : CxSt → CxSt) : (s.modCx f).clock = s.clock := rfl
@[simp] theorem State.modCx_supply (s : State) (f : CxSt → CxSt) : (s.modCx f).supply = s.supply := rfl
@[simp] theorem State.modCx_fuse (s : State) (f : CxSt → CxSt) : (s.modCx f).fuse = s.fuse := rfl
@[simp] theorem State.modCx_root (s : State) (f : CxSt → CxSt) : (s.modCx f).root = s.root := rfl
@[simp] theorem State.modCx_fw (s : State) (f : CxSt → CxSt) : (s.modCx f).fw = s.fw := rfl
@[simp] theorem State.modCx_start (s : State) (f : CxSt → CxSt) : (s.modCx f).start = s.start := rfl
@[simp] theorem State.modCx_mode (s : State) (f : CxSt → CxSt) : (s.modCx f).mode = s.mode := rfl
@[simp] theorem State.modCx_portA (s : State) (f : CxSt → CxSt) : (s.modCx f).portA = s.portA := rfl
@[simp] theorem State.modCx_portB (s : State) (f : CxSt → CxSt) : (s.modCx f).portB = s.portB := rfl
@[simp] theorem State.modCx_array (s : State) (f : CxSt → CxSt) : (s.modCx f).array = s.array := rfl
@[simp] theorem State.modCx_slots (s : State) (f : CxSt → CxSt) : (s.modCx f).slots = s.slots := rfl
@[simp] theorem State.modCx_keys (s : State) (f : CxSt → CxSt) : (s.modCx f).keys = s.keys := rfl
@[simp] theorem State.modCx_tags (s : State) (f : CxSt → CxSt) : (s.modCx f).tags = s.tags := rfl
@[simp] theorem State.modCx_jnl (s : State) (f : CxSt → CxSt) : (s.modCx f).jnl = s.jnl := rfl
@[simp] theorem State.modCx_cache (s : State) (f : CxSt → CxSt) : (s.modCx f).cache = s.cache := rfl
@[simp] theorem State.modCx_staging (s : State) (f : CxSt → CxSt) : (s.modCx f).staging = s.staging := rfl
@[simp] theorem State.modCx_bulk (s : State) (f : CxSt → CxSt) : (s.modCx f).bulk = s.bulk := rfl
@[simp] theorem State.modCx_seq (s : State) (f : CxSt → CxSt) : (s.modCx f).seq = s.seq := rfl
@[simp] theorem State.modCx_shifts (s : State) (f : CxSt → CxSt) : (s.modCx f).shifts = s.shifts := rfl
@[simp] theorem State.modCx_morders (s : State) (f : CxSt → CxSt) : (s.modCx f).morders = s.morders := rfl
@[simp] theorem State.modCx_sbq (s : State) (f : CxSt → CxSt) : (s.modCx f).sbq = s.sbq := rfl
@[simp] theorem State.modCx_eng (s : State) (f : CxSt → CxSt) : (s.modCx f).eng = s.eng := rfl
@[simp] theorem State.modCx_vault (s : State) (f : CxSt → CxSt) : (s.modCx f).vault = s.vault := rfl
@[simp] theorem State.modCx_sec (s : State) (f : CxSt → CxSt) : (s.modCx f).sec = s.sec := rfl
@[simp] theorem State.modCx_log (s : State) (f : CxSt → CxSt) : (s.modCx f).log = s.log := rfl
@[simp] theorem State.modCx_err (s : State) (f : CxSt → CxSt) : (s.modCx f).err = s.err := rfl
@[simp] theorem State.modCx_frz (s : State) (f : CxSt → CxSt) : (s.modCx f).frz = s.frz := rfl
@[simp] theorem State.modCx_cx (s : State) (f : CxSt → CxSt) : (s.modCx f).cx = f s.cx := rfl
@[simp] theorem State.modCx_gate (s : State) (f : CxSt → CxSt) : (s.modCx f).gate = s.gate := rfl
@[simp] theorem State.modCx_test (s : State) (f : CxSt → CxSt) : (s.modCx f).test = s.test := rfl
@[simp] theorem State.modCx_scanIr (s : State) (f : CxSt → CxSt) : (s.modCx f).scanIr = s.scanIr := rfl
@[simp] theorem State.modCx_scanCells (s : State) (f : CxSt → CxSt) : (s.modCx f).scanCells = s.scanCells := rfl
@[simp] theorem State.modCx_scanHold (s : State) (f : CxSt → CxSt) : (s.modCx f).scanHold = s.scanHold := rfl

/-! ## `State.modJnl` -/

@[simp] theorem State.modJnl_pending (s : State) (f : JnlSt → JnlSt) : (s.modJnl f).pending = s.pending := rfl
@[simp] theorem State.modJnl_out (s : State) (f : JnlSt → JnlSt) : (s.modJnl f).out = s.out := rfl
@[simp] theorem State.modJnl_free (s : State) (f : JnlSt → JnlSt) : (s.modJnl f).free = s.free := rfl
@[simp] theorem State.modJnl_clock (s : State) (f : JnlSt → JnlSt) : (s.modJnl f).clock = s.clock := rfl
@[simp] theorem State.modJnl_supply (s : State) (f : JnlSt → JnlSt) : (s.modJnl f).supply = s.supply := rfl
@[simp] theorem State.modJnl_fuse (s : State) (f : JnlSt → JnlSt) : (s.modJnl f).fuse = s.fuse := rfl
@[simp] theorem State.modJnl_root (s : State) (f : JnlSt → JnlSt) : (s.modJnl f).root = s.root := rfl
@[simp] theorem State.modJnl_fw (s : State) (f : JnlSt → JnlSt) : (s.modJnl f).fw = s.fw := rfl
@[simp] theorem State.modJnl_start (s : State) (f : JnlSt → JnlSt) : (s.modJnl f).start = s.start := rfl
@[simp] theorem State.modJnl_mode (s : State) (f : JnlSt → JnlSt) : (s.modJnl f).mode = s.mode := rfl
@[simp] theorem State.modJnl_portA (s : State) (f : JnlSt → JnlSt) : (s.modJnl f).portA = s.portA := rfl
@[simp] theorem State.modJnl_portB (s : State) (f : JnlSt → JnlSt) : (s.modJnl f).portB = s.portB := rfl
@[simp] theorem State.modJnl_array (s : State) (f : JnlSt → JnlSt) : (s.modJnl f).array = s.array := rfl
@[simp] theorem State.modJnl_slots (s : State) (f : JnlSt → JnlSt) : (s.modJnl f).slots = s.slots := rfl
@[simp] theorem State.modJnl_keys (s : State) (f : JnlSt → JnlSt) : (s.modJnl f).keys = s.keys := rfl
@[simp] theorem State.modJnl_tags (s : State) (f : JnlSt → JnlSt) : (s.modJnl f).tags = s.tags := rfl
@[simp] theorem State.modJnl_jnl (s : State) (f : JnlSt → JnlSt) : (s.modJnl f).jnl = f s.jnl := rfl
@[simp] theorem State.modJnl_cache (s : State) (f : JnlSt → JnlSt) : (s.modJnl f).cache = s.cache := rfl
@[simp] theorem State.modJnl_staging (s : State) (f : JnlSt → JnlSt) : (s.modJnl f).staging = s.staging := rfl
@[simp] theorem State.modJnl_bulk (s : State) (f : JnlSt → JnlSt) : (s.modJnl f).bulk = s.bulk := rfl
@[simp] theorem State.modJnl_seq (s : State) (f : JnlSt → JnlSt) : (s.modJnl f).seq = s.seq := rfl
@[simp] theorem State.modJnl_shifts (s : State) (f : JnlSt → JnlSt) : (s.modJnl f).shifts = s.shifts := rfl
@[simp] theorem State.modJnl_morders (s : State) (f : JnlSt → JnlSt) : (s.modJnl f).morders = s.morders := rfl
@[simp] theorem State.modJnl_sbq (s : State) (f : JnlSt → JnlSt) : (s.modJnl f).sbq = s.sbq := rfl
@[simp] theorem State.modJnl_eng (s : State) (f : JnlSt → JnlSt) : (s.modJnl f).eng = s.eng := rfl
@[simp] theorem State.modJnl_vault (s : State) (f : JnlSt → JnlSt) : (s.modJnl f).vault = s.vault := rfl
@[simp] theorem State.modJnl_sec (s : State) (f : JnlSt → JnlSt) : (s.modJnl f).sec = s.sec := rfl
@[simp] theorem State.modJnl_log (s : State) (f : JnlSt → JnlSt) : (s.modJnl f).log = s.log := rfl
@[simp] theorem State.modJnl_err (s : State) (f : JnlSt → JnlSt) : (s.modJnl f).err = s.err := rfl
@[simp] theorem State.modJnl_frz (s : State) (f : JnlSt → JnlSt) : (s.modJnl f).frz = s.frz := rfl
@[simp] theorem State.modJnl_cx (s : State) (f : JnlSt → JnlSt) : (s.modJnl f).cx = s.cx := rfl
@[simp] theorem State.modJnl_gate (s : State) (f : JnlSt → JnlSt) : (s.modJnl f).gate = s.gate := rfl
@[simp] theorem State.modJnl_test (s : State) (f : JnlSt → JnlSt) : (s.modJnl f).test = s.test := rfl
@[simp] theorem State.modJnl_scanIr (s : State) (f : JnlSt → JnlSt) : (s.modJnl f).scanIr = s.scanIr := rfl
@[simp] theorem State.modJnl_scanCells (s : State) (f : JnlSt → JnlSt) : (s.modJnl f).scanCells = s.scanCells := rfl
@[simp] theorem State.modJnl_scanHold (s : State) (f : JnlSt → JnlSt) : (s.modJnl f).scanHold = s.scanHold := rfl

/-! ## `State.modArray` -/

@[simp] theorem State.modArray_pending (s : State) (f : ArraySt → ArraySt) : (s.modArray f).pending = s.pending := rfl
@[simp] theorem State.modArray_out (s : State) (f : ArraySt → ArraySt) : (s.modArray f).out = s.out := rfl
@[simp] theorem State.modArray_free (s : State) (f : ArraySt → ArraySt) : (s.modArray f).free = s.free := rfl
@[simp] theorem State.modArray_clock (s : State) (f : ArraySt → ArraySt) : (s.modArray f).clock = s.clock := rfl
@[simp] theorem State.modArray_supply (s : State) (f : ArraySt → ArraySt) : (s.modArray f).supply = s.supply := rfl
@[simp] theorem State.modArray_fuse (s : State) (f : ArraySt → ArraySt) : (s.modArray f).fuse = s.fuse := rfl
@[simp] theorem State.modArray_root (s : State) (f : ArraySt → ArraySt) : (s.modArray f).root = s.root := rfl
@[simp] theorem State.modArray_fw (s : State) (f : ArraySt → ArraySt) : (s.modArray f).fw = s.fw := rfl
@[simp] theorem State.modArray_start (s : State) (f : ArraySt → ArraySt) : (s.modArray f).start = s.start := rfl
@[simp] theorem State.modArray_mode (s : State) (f : ArraySt → ArraySt) : (s.modArray f).mode = s.mode := rfl
@[simp] theorem State.modArray_portA (s : State) (f : ArraySt → ArraySt) : (s.modArray f).portA = s.portA := rfl
@[simp] theorem State.modArray_portB (s : State) (f : ArraySt → ArraySt) : (s.modArray f).portB = s.portB := rfl
@[simp] theorem State.modArray_array (s : State) (f : ArraySt → ArraySt) : (s.modArray f).array = s.array.map f := rfl
@[simp] theorem State.modArray_slots (s : State) (f : ArraySt → ArraySt) : (s.modArray f).slots = s.slots := rfl
@[simp] theorem State.modArray_keys (s : State) (f : ArraySt → ArraySt) : (s.modArray f).keys = s.keys := rfl
@[simp] theorem State.modArray_tags (s : State) (f : ArraySt → ArraySt) : (s.modArray f).tags = s.tags := rfl
@[simp] theorem State.modArray_jnl (s : State) (f : ArraySt → ArraySt) : (s.modArray f).jnl = s.jnl := rfl
@[simp] theorem State.modArray_cache (s : State) (f : ArraySt → ArraySt) : (s.modArray f).cache = s.cache := rfl
@[simp] theorem State.modArray_staging (s : State) (f : ArraySt → ArraySt) : (s.modArray f).staging = s.staging := rfl
@[simp] theorem State.modArray_bulk (s : State) (f : ArraySt → ArraySt) : (s.modArray f).bulk = s.bulk := rfl
@[simp] theorem State.modArray_seq (s : State) (f : ArraySt → ArraySt) : (s.modArray f).seq = s.seq := rfl
@[simp] theorem State.modArray_shifts (s : State) (f : ArraySt → ArraySt) : (s.modArray f).shifts = s.shifts := rfl
@[simp] theorem State.modArray_morders (s : State) (f : ArraySt → ArraySt) : (s.modArray f).morders = s.morders := rfl
@[simp] theorem State.modArray_sbq (s : State) (f : ArraySt → ArraySt) : (s.modArray f).sbq = s.sbq := rfl
@[simp] theorem State.modArray_eng (s : State) (f : ArraySt → ArraySt) : (s.modArray f).eng = s.eng := rfl
@[simp] theorem State.modArray_vault (s : State) (f : ArraySt → ArraySt) : (s.modArray f).vault = s.vault := rfl
@[simp] theorem State.modArray_sec (s : State) (f : ArraySt → ArraySt) : (s.modArray f).sec = s.sec := rfl
@[simp] theorem State.modArray_log (s : State) (f : ArraySt → ArraySt) : (s.modArray f).log = s.log := rfl
@[simp] theorem State.modArray_err (s : State) (f : ArraySt → ArraySt) : (s.modArray f).err = s.err := rfl
@[simp] theorem State.modArray_frz (s : State) (f : ArraySt → ArraySt) : (s.modArray f).frz = s.frz := rfl
@[simp] theorem State.modArray_cx (s : State) (f : ArraySt → ArraySt) : (s.modArray f).cx = s.cx := rfl
@[simp] theorem State.modArray_gate (s : State) (f : ArraySt → ArraySt) : (s.modArray f).gate = s.gate := rfl
@[simp] theorem State.modArray_test (s : State) (f : ArraySt → ArraySt) : (s.modArray f).test = s.test := rfl
@[simp] theorem State.modArray_scanIr (s : State) (f : ArraySt → ArraySt) : (s.modArray f).scanIr = s.scanIr := rfl
@[simp] theorem State.modArray_scanCells (s : State) (f : ArraySt → ArraySt) : (s.modArray f).scanCells = s.scanCells := rfl
@[simp] theorem State.modArray_scanHold (s : State) (f : ArraySt → ArraySt) : (s.modArray f).scanHold = s.scanHold := rfl

/-! ## `State.modSlot` -/

@[simp] theorem State.modSlot_pending (s : State) (m : SlotN) (f : SlotSt → SlotSt) : (s.modSlot m f).pending = s.pending := rfl
@[simp] theorem State.modSlot_out (s : State) (m : SlotN) (f : SlotSt → SlotSt) : (s.modSlot m f).out = s.out := rfl
@[simp] theorem State.modSlot_free (s : State) (m : SlotN) (f : SlotSt → SlotSt) : (s.modSlot m f).free = s.free := rfl
@[simp] theorem State.modSlot_clock (s : State) (m : SlotN) (f : SlotSt → SlotSt) : (s.modSlot m f).clock = s.clock := rfl
@[simp] theorem State.modSlot_supply (s : State) (m : SlotN) (f : SlotSt → SlotSt) : (s.modSlot m f).supply = s.supply := rfl
@[simp] theorem State.modSlot_fuse (s : State) (m : SlotN) (f : SlotSt → SlotSt) : (s.modSlot m f).fuse = s.fuse := rfl
@[simp] theorem State.modSlot_root (s : State) (m : SlotN) (f : SlotSt → SlotSt) : (s.modSlot m f).root = s.root := rfl
@[simp] theorem State.modSlot_fw (s : State) (m : SlotN) (f : SlotSt → SlotSt) : (s.modSlot m f).fw = s.fw := rfl
@[simp] theorem State.modSlot_start (s : State) (m : SlotN) (f : SlotSt → SlotSt) : (s.modSlot m f).start = s.start := rfl
@[simp] theorem State.modSlot_mode (s : State) (m : SlotN) (f : SlotSt → SlotSt) : (s.modSlot m f).mode = s.mode := rfl
@[simp] theorem State.modSlot_portA (s : State) (m : SlotN) (f : SlotSt → SlotSt) : (s.modSlot m f).portA = s.portA := rfl
@[simp] theorem State.modSlot_portB (s : State) (m : SlotN) (f : SlotSt → SlotSt) : (s.modSlot m f).portB = s.portB := rfl
@[simp] theorem State.modSlot_array (s : State) (m : SlotN) (f : SlotSt → SlotSt) : (s.modSlot m f).array = s.array := rfl
@[simp] theorem State.modSlot_slots (s : State) (m : SlotN) (f : SlotSt → SlotSt) : (s.modSlot m f).slots = s.slots.set m.val (f (s.slot m)) := rfl
@[simp] theorem State.modSlot_keys (s : State) (m : SlotN) (f : SlotSt → SlotSt) : (s.modSlot m f).keys = s.keys := rfl
@[simp] theorem State.modSlot_tags (s : State) (m : SlotN) (f : SlotSt → SlotSt) : (s.modSlot m f).tags = s.tags := rfl
@[simp] theorem State.modSlot_jnl (s : State) (m : SlotN) (f : SlotSt → SlotSt) : (s.modSlot m f).jnl = s.jnl := rfl
@[simp] theorem State.modSlot_cache (s : State) (m : SlotN) (f : SlotSt → SlotSt) : (s.modSlot m f).cache = s.cache := rfl
@[simp] theorem State.modSlot_staging (s : State) (m : SlotN) (f : SlotSt → SlotSt) : (s.modSlot m f).staging = s.staging := rfl
@[simp] theorem State.modSlot_bulk (s : State) (m : SlotN) (f : SlotSt → SlotSt) : (s.modSlot m f).bulk = s.bulk := rfl
@[simp] theorem State.modSlot_seq (s : State) (m : SlotN) (f : SlotSt → SlotSt) : (s.modSlot m f).seq = s.seq := rfl
@[simp] theorem State.modSlot_shifts (s : State) (m : SlotN) (f : SlotSt → SlotSt) : (s.modSlot m f).shifts = s.shifts := rfl
@[simp] theorem State.modSlot_morders (s : State) (m : SlotN) (f : SlotSt → SlotSt) : (s.modSlot m f).morders = s.morders := rfl
@[simp] theorem State.modSlot_sbq (s : State) (m : SlotN) (f : SlotSt → SlotSt) : (s.modSlot m f).sbq = s.sbq := rfl
@[simp] theorem State.modSlot_eng (s : State) (m : SlotN) (f : SlotSt → SlotSt) : (s.modSlot m f).eng = s.eng := rfl
@[simp] theorem State.modSlot_vault (s : State) (m : SlotN) (f : SlotSt → SlotSt) : (s.modSlot m f).vault = s.vault := rfl
@[simp] theorem State.modSlot_sec (s : State) (m : SlotN) (f : SlotSt → SlotSt) : (s.modSlot m f).sec = s.sec := rfl
@[simp] theorem State.modSlot_log (s : State) (m : SlotN) (f : SlotSt → SlotSt) : (s.modSlot m f).log = s.log := rfl
@[simp] theorem State.modSlot_err (s : State) (m : SlotN) (f : SlotSt → SlotSt) : (s.modSlot m f).err = s.err := rfl
@[simp] theorem State.modSlot_frz (s : State) (m : SlotN) (f : SlotSt → SlotSt) : (s.modSlot m f).frz = s.frz := rfl
@[simp] theorem State.modSlot_cx (s : State) (m : SlotN) (f : SlotSt → SlotSt) : (s.modSlot m f).cx = s.cx := rfl
@[simp] theorem State.modSlot_gate (s : State) (m : SlotN) (f : SlotSt → SlotSt) : (s.modSlot m f).gate = s.gate := rfl
@[simp] theorem State.modSlot_test (s : State) (m : SlotN) (f : SlotSt → SlotSt) : (s.modSlot m f).test = s.test := rfl
@[simp] theorem State.modSlot_scanIr (s : State) (m : SlotN) (f : SlotSt → SlotSt) : (s.modSlot m f).scanIr = s.scanIr := rfl
@[simp] theorem State.modSlot_scanCells (s : State) (m : SlotN) (f : SlotSt → SlotSt) : (s.modSlot m f).scanCells = s.scanCells := rfl
@[simp] theorem State.modSlot_scanHold (s : State) (m : SlotN) (f : SlotSt → SlotSt) : (s.modSlot m f).scanHold = s.scanHold := rfl

/-! ## `State.emit` -/

@[simp] theorem State.emit_pending (s : State) (o : Out) : (s.emit o).pending = s.pending := rfl
@[simp] theorem State.emit_out (s : State) (o : Out) : (s.emit o).out = s.out ++ [o] := rfl
@[simp] theorem State.emit_free (s : State) (o : Out) : (s.emit o).free = s.free := rfl
@[simp] theorem State.emit_clock (s : State) (o : Out) : (s.emit o).clock = s.clock := rfl
@[simp] theorem State.emit_supply (s : State) (o : Out) : (s.emit o).supply = s.supply := rfl
@[simp] theorem State.emit_fuse (s : State) (o : Out) : (s.emit o).fuse = s.fuse := rfl
@[simp] theorem State.emit_root (s : State) (o : Out) : (s.emit o).root = s.root := rfl
@[simp] theorem State.emit_fw (s : State) (o : Out) : (s.emit o).fw = s.fw := rfl
@[simp] theorem State.emit_start (s : State) (o : Out) : (s.emit o).start = s.start := rfl
@[simp] theorem State.emit_mode (s : State) (o : Out) : (s.emit o).mode = s.mode := rfl
@[simp] theorem State.emit_portA (s : State) (o : Out) : (s.emit o).portA = s.portA := rfl
@[simp] theorem State.emit_portB (s : State) (o : Out) : (s.emit o).portB = s.portB := rfl
@[simp] theorem State.emit_array (s : State) (o : Out) : (s.emit o).array = s.array := rfl
@[simp] theorem State.emit_slots (s : State) (o : Out) : (s.emit o).slots = s.slots := rfl
@[simp] theorem State.emit_keys (s : State) (o : Out) : (s.emit o).keys = s.keys := rfl
@[simp] theorem State.emit_tags (s : State) (o : Out) : (s.emit o).tags = s.tags := rfl
@[simp] theorem State.emit_jnl (s : State) (o : Out) : (s.emit o).jnl = s.jnl := rfl
@[simp] theorem State.emit_cache (s : State) (o : Out) : (s.emit o).cache = s.cache := rfl
@[simp] theorem State.emit_staging (s : State) (o : Out) : (s.emit o).staging = s.staging := rfl
@[simp] theorem State.emit_bulk (s : State) (o : Out) : (s.emit o).bulk = s.bulk := rfl
@[simp] theorem State.emit_seq (s : State) (o : Out) : (s.emit o).seq = s.seq := rfl
@[simp] theorem State.emit_shifts (s : State) (o : Out) : (s.emit o).shifts = s.shifts := rfl
@[simp] theorem State.emit_morders (s : State) (o : Out) : (s.emit o).morders = s.morders := rfl
@[simp] theorem State.emit_sbq (s : State) (o : Out) : (s.emit o).sbq = s.sbq := rfl
@[simp] theorem State.emit_eng (s : State) (o : Out) : (s.emit o).eng = s.eng := rfl
@[simp] theorem State.emit_vault (s : State) (o : Out) : (s.emit o).vault = s.vault := rfl
@[simp] theorem State.emit_sec (s : State) (o : Out) : (s.emit o).sec = s.sec := rfl
@[simp] theorem State.emit_log (s : State) (o : Out) : (s.emit o).log = s.log := rfl
@[simp] theorem State.emit_err (s : State) (o : Out) : (s.emit o).err = s.err := rfl
@[simp] theorem State.emit_frz (s : State) (o : Out) : (s.emit o).frz = s.frz := rfl
@[simp] theorem State.emit_cx (s : State) (o : Out) : (s.emit o).cx = s.cx := rfl
@[simp] theorem State.emit_gate (s : State) (o : Out) : (s.emit o).gate = s.gate := rfl
@[simp] theorem State.emit_test (s : State) (o : Out) : (s.emit o).test = s.test := rfl
@[simp] theorem State.emit_scanIr (s : State) (o : Out) : (s.emit o).scanIr = s.scanIr := rfl
@[simp] theorem State.emit_scanCells (s : State) (o : Out) : (s.emit o).scanCells = s.scanCells := rfl
@[simp] theorem State.emit_scanHold (s : State) (o : Out) : (s.emit o).scanHold = s.scanHold := rfl

/-! ## `State.raise` -/

@[simp] theorem State.raise_pending (s : State) (r : LogRec) : (s.raise r).pending = s.pending := rfl
@[simp] theorem State.raise_out (s : State) (r : LogRec) : (s.raise r).out = s.out := rfl
@[simp] theorem State.raise_free (s : State) (r : LogRec) : (s.raise r).free = s.free := rfl
@[simp] theorem State.raise_clock (s : State) (r : LogRec) : (s.raise r).clock = s.clock := rfl
@[simp] theorem State.raise_supply (s : State) (r : LogRec) : (s.raise r).supply = s.supply := rfl
@[simp] theorem State.raise_fuse (s : State) (r : LogRec) : (s.raise r).fuse = s.fuse := rfl
@[simp] theorem State.raise_root (s : State) (r : LogRec) : (s.raise r).root = s.root := rfl
@[simp] theorem State.raise_fw (s : State) (r : LogRec) : (s.raise r).fw = s.fw := rfl
@[simp] theorem State.raise_start (s : State) (r : LogRec) : (s.raise r).start = s.start := rfl
@[simp] theorem State.raise_mode (s : State) (r : LogRec) : (s.raise r).mode = s.mode := rfl
@[simp] theorem State.raise_portA (s : State) (r : LogRec) : (s.raise r).portA = s.portA := rfl
@[simp] theorem State.raise_portB (s : State) (r : LogRec) : (s.raise r).portB = s.portB := rfl
@[simp] theorem State.raise_array (s : State) (r : LogRec) : (s.raise r).array = s.array := rfl
@[simp] theorem State.raise_slots (s : State) (r : LogRec) : (s.raise r).slots = s.slots := rfl
@[simp] theorem State.raise_keys (s : State) (r : LogRec) : (s.raise r).keys = s.keys := rfl
@[simp] theorem State.raise_tags (s : State) (r : LogRec) : (s.raise r).tags = s.tags := rfl
@[simp] theorem State.raise_jnl (s : State) (r : LogRec) : (s.raise r).jnl = s.jnl := rfl
@[simp] theorem State.raise_cache (s : State) (r : LogRec) : (s.raise r).cache = s.cache := rfl
@[simp] theorem State.raise_staging (s : State) (r : LogRec) : (s.raise r).staging = s.staging := rfl
@[simp] theorem State.raise_bulk (s : State) (r : LogRec) : (s.raise r).bulk = s.bulk := rfl
@[simp] theorem State.raise_seq (s : State) (r : LogRec) : (s.raise r).seq = s.seq := rfl
@[simp] theorem State.raise_shifts (s : State) (r : LogRec) : (s.raise r).shifts = s.shifts := rfl
@[simp] theorem State.raise_morders (s : State) (r : LogRec) : (s.raise r).morders = s.morders := rfl
@[simp] theorem State.raise_sbq (s : State) (r : LogRec) : (s.raise r).sbq = s.sbq := rfl
@[simp] theorem State.raise_eng (s : State) (r : LogRec) : (s.raise r).eng = s.eng := rfl
@[simp] theorem State.raise_vault (s : State) (r : LogRec) : (s.raise r).vault = s.vault := rfl
@[simp] theorem State.raise_sec (s : State) (r : LogRec) : (s.raise r).sec = s.sec := rfl
@[simp] theorem State.raise_log (s : State) (r : LogRec) : (s.raise r).log = { s.log with raised := s.log.raised ++ [r] } := rfl
@[simp] theorem State.raise_err (s : State) (r : LogRec) : (s.raise r).err = s.err := rfl
@[simp] theorem State.raise_frz (s : State) (r : LogRec) : (s.raise r).frz = s.frz := rfl
@[simp] theorem State.raise_cx (s : State) (r : LogRec) : (s.raise r).cx = s.cx := rfl
@[simp] theorem State.raise_gate (s : State) (r : LogRec) : (s.raise r).gate = s.gate := rfl
@[simp] theorem State.raise_test (s : State) (r : LogRec) : (s.raise r).test = s.test := rfl
@[simp] theorem State.raise_scanIr (s : State) (r : LogRec) : (s.raise r).scanIr = s.scanIr := rfl
@[simp] theorem State.raise_scanCells (s : State) (r : LogRec) : (s.raise r).scanCells = s.scanCells := rfl
@[simp] theorem State.raise_scanHold (s : State) (r : LogRec) : (s.raise r).scanHold = s.scanHold := rfl

/-! ## Issuing an order touches the frame's tags only -/

theorem issueTag_tags (s : State) (w p : Bool) (x : Issued) (g : GateSt) :
    issueTag s w p x g = { g with tags := (issueTag s w p x g).tags } := by
  unfold issueTag; split <;> rfl
theorem issueOrder_tags (s : State) (o : Order) (g : GateSt) :
    issueOrder s o g = { g with tags := (issueOrder s o g).tags } := by
  unfold issueOrder; split
  · exact issueTag_tags _ _ _ _ _
  · rfl
@[simp] theorem issueTag_orders (s : State) (w p : Bool) (x : Issued) (g : GateSt) : (issueTag s w p x g).orders = g.orders := by
  rw [issueTag_tags]
@[simp] theorem issueOrder_orders (s : State) (o : Order) (g : GateSt) : (issueOrder s o g).orders = g.orders := by
  rw [issueOrder_tags]
@[simp] theorem issueTag_marker (s : State) (w p : Bool) (x : Issued) (g : GateSt) : (issueTag s w p x g).marker = g.marker := by
  rw [issueTag_tags]
@[simp] theorem issueOrder_marker (s : State) (o : Order) (g : GateSt) : (issueOrder s o g).marker = g.marker := by
  rw [issueOrder_tags]
@[simp] theorem issueTag_inputs (s : State) (w p : Bool) (x : Issued) (g : GateSt) : (issueTag s w p x g).inputs = g.inputs := by
  rw [issueTag_tags]
@[simp] theorem issueOrder_inputs (s : State) (o : Order) (g : GateSt) : (issueOrder s o g).inputs = g.inputs := by
  rw [issueOrder_tags]
@[simp] theorem issueTag_record (s : State) (w p : Bool) (x : Issued) (g : GateSt) : (issueTag s w p x g).record = g.record := by
  rw [issueTag_tags]
@[simp] theorem issueOrder_record (s : State) (o : Order) (g : GateSt) : (issueOrder s o g).record = g.record := by
  rw [issueOrder_tags]
@[simp] theorem issueTag_delta (s : State) (w p : Bool) (x : Issued) (g : GateSt) : (issueTag s w p x g).delta = g.delta := by
  rw [issueTag_tags]
@[simp] theorem issueOrder_delta (s : State) (o : Order) (g : GateSt) : (issueOrder s o g).delta = g.delta := by
  rw [issueOrder_tags]
@[simp] theorem issueTag_late (s : State) (w p : Bool) (x : Issued) (g : GateSt) : (issueTag s w p x g).late = g.late := by
  rw [issueTag_tags]
@[simp] theorem issueOrder_late (s : State) (o : Order) (g : GateSt) : (issueOrder s o g).late = g.late := by
  rw [issueOrder_tags]
@[simp] theorem issueTag_priv (s : State) (w p : Bool) (x : Issued) (g : GateSt) : (issueTag s w p x g).priv = g.priv := by
  rw [issueTag_tags]
@[simp] theorem issueOrder_priv (s : State) (o : Order) (g : GateSt) : (issueOrder s o g).priv = g.priv := by
  rw [issueOrder_tags]
@[simp] theorem issueTag_spentA (s : State) (w p : Bool) (x : Issued) (g : GateSt) : (issueTag s w p x g).spentA = g.spentA := by
  rw [issueTag_tags]
@[simp] theorem issueOrder_spentA (s : State) (o : Order) (g : GateSt) : (issueOrder s o g).spentA = g.spentA := by
  rw [issueOrder_tags]
@[simp] theorem issueTag_spentB (s : State) (w p : Bool) (x : Issued) (g : GateSt) : (issueTag s w p x g).spentB = g.spentB := by
  rw [issueTag_tags]
@[simp] theorem issueOrder_spentB (s : State) (o : Order) (g : GateSt) : (issueOrder s o g).spentB = g.spentB := by
  rw [issueOrder_tags]
@[simp] theorem issueTag_spentRb (s : State) (w p : Bool) (x : Issued) (g : GateSt) : (issueTag s w p x g).spentRb = g.spentRb := by
  rw [issueTag_tags]
@[simp] theorem issueOrder_spentRb (s : State) (o : Order) (g : GateSt) : (issueOrder s o g).spentRb = g.spentRb := by
  rw [issueOrder_tags]
@[simp] theorem issueTag_spentRk (s : State) (w p : Bool) (x : Issued) (g : GateSt) : (issueTag s w p x g).spentRk = g.spentRk := by
  rw [issueTag_tags]
@[simp] theorem issueOrder_spentRk (s : State) (o : Order) (g : GateSt) : (issueOrder s o g).spentRk = g.spentRk := by
  rw [issueOrder_tags]
@[simp] theorem issueTag_spentSc (s : State) (w p : Bool) (x : Issued) (g : GateSt) : (issueTag s w p x g).spentSc = g.spentSc := by
  rw [issueTag_tags]
@[simp] theorem issueOrder_spentSc (s : State) (o : Order) (g : GateSt) : (issueOrder s o g).spentSc = g.spentSc := by
  rw [issueOrder_tags]
@[simp] theorem issueTag_agUp (s : State) (w p : Bool) (x : Issued) (g : GateSt) : (issueTag s w p x g).agUp = g.agUp := by
  rw [issueTag_tags]
@[simp] theorem issueOrder_agUp (s : State) (o : Order) (g : GateSt) : (issueOrder s o g).agUp = g.agUp := by
  rw [issueOrder_tags]
@[simp] theorem issueTag_nextId (s : State) (w p : Bool) (x : Issued) (g : GateSt) : (issueTag s w p x g).nextId = g.nextId := by
  rw [issueTag_tags]
@[simp] theorem issueOrder_nextId (s : State) (o : Order) (g : GateSt) : (issueOrder s o g).nextId = g.nextId := by
  rw [issueOrder_tags]

/-- An issued order leaves the frame at most 256 orders (12 R378). -/
theorem issueOrder_bound (s : State) (o : Order) (g : GateSt) (h : g.tags.length ≤ 256) :
    (issueOrder s o g).tags.length ≤ 256 := by
  unfold issueOrder issueTag orderRoom
  split
  · split
    · exact h
    · simp; omega
  · exact h

/-! ## `addOrder` -/

@[simp] theorem addOrder_pending (s : State) (o : Order) : (addOrder s o).pending = s.pending := rfl
@[simp] theorem addOrder_out (s : State) (o : Order) : (addOrder s o).out = s.out := rfl
@[simp] theorem addOrder_free (s : State) (o : Order) : (addOrder s o).free = s.free := rfl
@[simp] theorem addOrder_clock (s : State) (o : Order) : (addOrder s o).clock = s.clock := rfl
@[simp] theorem addOrder_supply (s : State) (o : Order) : (addOrder s o).supply = s.supply := rfl
@[simp] theorem addOrder_fuse (s : State) (o : Order) : (addOrder s o).fuse = s.fuse := rfl
@[simp] theorem addOrder_root (s : State) (o : Order) : (addOrder s o).root = s.root := rfl
@[simp] theorem addOrder_fw (s : State) (o : Order) : (addOrder s o).fw = s.fw := rfl
@[simp] theorem addOrder_start (s : State) (o : Order) : (addOrder s o).start = s.start := rfl
@[simp] theorem addOrder_mode (s : State) (o : Order) : (addOrder s o).mode = s.mode := rfl
@[simp] theorem addOrder_portA (s : State) (o : Order) : (addOrder s o).portA = s.portA := rfl
@[simp] theorem addOrder_portB (s : State) (o : Order) : (addOrder s o).portB = s.portB := rfl
@[simp] theorem addOrder_array (s : State) (o : Order) : (addOrder s o).array = s.array := rfl
@[simp] theorem addOrder_slots (s : State) (o : Order) : (addOrder s o).slots = s.slots := rfl
@[simp] theorem addOrder_keys (s : State) (o : Order) : (addOrder s o).keys = s.keys := rfl
@[simp] theorem addOrder_tags (s : State) (o : Order) : (addOrder s o).tags = s.tags := rfl
@[simp] theorem addOrder_jnl (s : State) (o : Order) : (addOrder s o).jnl = s.jnl := rfl
@[simp] theorem addOrder_cache (s : State) (o : Order) : (addOrder s o).cache = s.cache := rfl
@[simp] theorem addOrder_staging (s : State) (o : Order) : (addOrder s o).staging = s.staging := rfl
@[simp] theorem addOrder_bulk (s : State) (o : Order) : (addOrder s o).bulk = s.bulk := rfl
@[simp] theorem addOrder_seq (s : State) (o : Order) : (addOrder s o).seq = s.seq := rfl
@[simp] theorem addOrder_shifts (s : State) (o : Order) : (addOrder s o).shifts = s.shifts := rfl
@[simp] theorem addOrder_morders (s : State) (o : Order) : (addOrder s o).morders = s.morders := rfl
@[simp] theorem addOrder_sbq (s : State) (o : Order) : (addOrder s o).sbq = s.sbq := rfl
@[simp] theorem addOrder_eng (s : State) (o : Order) : (addOrder s o).eng = s.eng := rfl
@[simp] theorem addOrder_vault (s : State) (o : Order) : (addOrder s o).vault = s.vault := rfl
@[simp] theorem addOrder_sec (s : State) (o : Order) : (addOrder s o).sec = s.sec := rfl
@[simp] theorem addOrder_log (s : State) (o : Order) : (addOrder s o).log = s.log := rfl
@[simp] theorem addOrder_err (s : State) (o : Order) : (addOrder s o).err = s.err := rfl
@[simp] theorem addOrder_frz (s : State) (o : Order) : (addOrder s o).frz = s.frz := rfl
@[simp] theorem addOrder_cx (s : State) (o : Order) : (addOrder s o).cx = s.cx := rfl
@[simp] theorem addOrder_gate (s : State) (o : Order) : (addOrder s o).gate = { issueOrder s o s.gate with orders := s.gate.orders ++ [o] } := rfl
@[simp] theorem addOrder_test (s : State) (o : Order) : (addOrder s o).test = s.test := rfl
@[simp] theorem addOrder_scanIr (s : State) (o : Order) : (addOrder s o).scanIr = s.scanIr := rfl
@[simp] theorem addOrder_scanCells (s : State) (o : Order) : (addOrder s o).scanCells = s.scanCells := rfl
@[simp] theorem addOrder_scanHold (s : State) (o : Order) : (addOrder s o).scanHold = s.scanHold := rfl

/-! ## `addPriv` -/

@[simp] theorem addPriv_pending (s : State) (a : PrivAct) : (addPriv s a).pending = s.pending := rfl
@[simp] theorem addPriv_out (s : State) (a : PrivAct) : (addPriv s a).out = s.out := rfl
@[simp] theorem addPriv_free (s : State) (a : PrivAct) : (addPriv s a).free = s.free := rfl
@[simp] theorem addPriv_clock (s : State) (a : PrivAct) : (addPriv s a).clock = s.clock := rfl
@[simp] theorem addPriv_supply (s : State) (a : PrivAct) : (addPriv s a).supply = s.supply := rfl
@[simp] theorem addPriv_fuse (s : State) (a : PrivAct) : (addPriv s a).fuse = s.fuse := rfl
@[simp] theorem addPriv_root (s : State) (a : PrivAct) : (addPriv s a).root = s.root := rfl
@[simp] theorem addPriv_fw (s : State) (a : PrivAct) : (addPriv s a).fw = s.fw := rfl
@[simp] theorem addPriv_start (s : State) (a : PrivAct) : (addPriv s a).start = s.start := rfl
@[simp] theorem addPriv_mode (s : State) (a : PrivAct) : (addPriv s a).mode = s.mode := rfl
@[simp] theorem addPriv_portA (s : State) (a : PrivAct) : (addPriv s a).portA = s.portA := rfl
@[simp] theorem addPriv_portB (s : State) (a : PrivAct) : (addPriv s a).portB = s.portB := rfl
@[simp] theorem addPriv_array (s : State) (a : PrivAct) : (addPriv s a).array = s.array := rfl
@[simp] theorem addPriv_slots (s : State) (a : PrivAct) : (addPriv s a).slots = s.slots := rfl
@[simp] theorem addPriv_keys (s : State) (a : PrivAct) : (addPriv s a).keys = s.keys := rfl
@[simp] theorem addPriv_tags (s : State) (a : PrivAct) : (addPriv s a).tags = s.tags := rfl
@[simp] theorem addPriv_jnl (s : State) (a : PrivAct) : (addPriv s a).jnl = s.jnl := rfl
@[simp] theorem addPriv_cache (s : State) (a : PrivAct) : (addPriv s a).cache = s.cache := rfl
@[simp] theorem addPriv_staging (s : State) (a : PrivAct) : (addPriv s a).staging = s.staging := rfl
@[simp] theorem addPriv_bulk (s : State) (a : PrivAct) : (addPriv s a).bulk = s.bulk := rfl
@[simp] theorem addPriv_seq (s : State) (a : PrivAct) : (addPriv s a).seq = s.seq := rfl
@[simp] theorem addPriv_shifts (s : State) (a : PrivAct) : (addPriv s a).shifts = s.shifts := rfl
@[simp] theorem addPriv_morders (s : State) (a : PrivAct) : (addPriv s a).morders = s.morders := rfl
@[simp] theorem addPriv_sbq (s : State) (a : PrivAct) : (addPriv s a).sbq = s.sbq := rfl
@[simp] theorem addPriv_eng (s : State) (a : PrivAct) : (addPriv s a).eng = s.eng := rfl
@[simp] theorem addPriv_vault (s : State) (a : PrivAct) : (addPriv s a).vault = s.vault := rfl
@[simp] theorem addPriv_sec (s : State) (a : PrivAct) : (addPriv s a).sec = s.sec := rfl
@[simp] theorem addPriv_log (s : State) (a : PrivAct) : (addPriv s a).log = s.log := rfl
@[simp] theorem addPriv_err (s : State) (a : PrivAct) : (addPriv s a).err = s.err := rfl
@[simp] theorem addPriv_frz (s : State) (a : PrivAct) : (addPriv s a).frz = s.frz := rfl
@[simp] theorem addPriv_cx (s : State) (a : PrivAct) : (addPriv s a).cx = s.cx := rfl
@[simp] theorem addPriv_priv (s : State) (a : PrivAct) : (addPriv s a).gate.priv =
    s.gate.priv ++ [{ act := a, frame := obsFrame s, epoch := s.cx.epoch, cx := s.cx.holder, orphan := false }] := rfl
@[simp] theorem addPriv_test (s : State) (a : PrivAct) : (addPriv s a).test = s.test := rfl
@[simp] theorem addPriv_scanIr (s : State) (a : PrivAct) : (addPriv s a).scanIr = s.scanIr := rfl
@[simp] theorem addPriv_scanCells (s : State) (a : PrivAct) : (addPriv s a).scanCells = s.scanCells := rfl
@[simp] theorem addPriv_scanHold (s : State) (a : PrivAct) : (addPriv s a).scanHold = s.scanHold := rfl

/-! ## Ports and rings -/

@[simp] theorem State.setPort_same (s : State) (p : Port) (q : PortSt) : (s.setPort p q).port p = q := by cases p <;> rfl
theorem State.setPort_other (s : State) (p r : Port) (q : PortSt) (h : r ≠ p) : (s.setPort p q).port r = s.port r := by
  cases p <;> cases r <;> first | rfl | exact absurd rfl h
@[simp] theorem State.setPort_self (s : State) (p : Port) : s.setPort p (s.port p) = s := by cases p <;> rfl
@[simp] theorem State.setPort_setPort (s : State) (p : Port) (q r : PortSt) : (s.setPort p q).setPort p r = s.setPort p r := by
  cases p <;> rfl
@[simp] theorem State.modPort_same (s : State) (p : Port) (f : PortSt → PortSt) : (s.modPort p f).port p = f (s.port p) := by
  simp [State.modPort]
theorem State.modPort_other (s : State) (p r : Port) (f : PortSt → PortSt) (h : r ≠ p) : (s.modPort p f).port r = s.port r :=
  State.setPort_other s p r _ h
@[simp] theorem State.modPort_modPort (s : State) (p : Port) (f g : PortSt → PortSt) :
    (s.modPort p f).modPort p g = s.modPort p fun q => g (f q) := by
  simp [State.modPort]

@[simp] theorem State.setPort_pending (s : State) (p : Port) (q : PortSt) : (s.setPort p q).pending = s.pending := by cases p <;> rfl
@[simp] theorem State.setPort_out (s : State) (p : Port) (q : PortSt) : (s.setPort p q).out = s.out := by cases p <;> rfl
@[simp] theorem State.setPort_free (s : State) (p : Port) (q : PortSt) : (s.setPort p q).free = s.free := by cases p <;> rfl
@[simp] theorem State.setPort_clock (s : State) (p : Port) (q : PortSt) : (s.setPort p q).clock = s.clock := by cases p <;> rfl
@[simp] theorem State.setPort_supply (s : State) (p : Port) (q : PortSt) : (s.setPort p q).supply = s.supply := by cases p <;> rfl
@[simp] theorem State.setPort_fuse (s : State) (p : Port) (q : PortSt) : (s.setPort p q).fuse = s.fuse := by cases p <;> rfl
@[simp] theorem State.setPort_root (s : State) (p : Port) (q : PortSt) : (s.setPort p q).root = s.root := by cases p <;> rfl
@[simp] theorem State.setPort_fw (s : State) (p : Port) (q : PortSt) : (s.setPort p q).fw = s.fw := by cases p <;> rfl
@[simp] theorem State.setPort_start (s : State) (p : Port) (q : PortSt) : (s.setPort p q).start = s.start := by cases p <;> rfl
@[simp] theorem State.setPort_mode (s : State) (p : Port) (q : PortSt) : (s.setPort p q).mode = s.mode := by cases p <;> rfl
@[simp] theorem State.setPort_array (s : State) (p : Port) (q : PortSt) : (s.setPort p q).array = s.array := by cases p <;> rfl
@[simp] theorem State.setPort_slots (s : State) (p : Port) (q : PortSt) : (s.setPort p q).slots = s.slots := by cases p <;> rfl
@[simp] theorem State.setPort_keys (s : State) (p : Port) (q : PortSt) : (s.setPort p q).keys = s.keys := by cases p <;> rfl
@[simp] theorem State.setPort_tags (s : State) (p : Port) (q : PortSt) : (s.setPort p q).tags = s.tags := by cases p <;> rfl
@[simp] theorem State.setPort_jnl (s : State) (p : Port) (q : PortSt) : (s.setPort p q).jnl = s.jnl := by cases p <;> rfl
@[simp] theorem State.setPort_cache (s : State) (p : Port) (q : PortSt) : (s.setPort p q).cache = s.cache := by cases p <;> rfl
@[simp] theorem State.setPort_staging (s : State) (p : Port) (q : PortSt) : (s.setPort p q).staging = s.staging := by cases p <;> rfl
@[simp] theorem State.setPort_bulk (s : State) (p : Port) (q : PortSt) : (s.setPort p q).bulk = s.bulk := by cases p <;> rfl
@[simp] theorem State.setPort_seq (s : State) (p : Port) (q : PortSt) : (s.setPort p q).seq = s.seq := by cases p <;> rfl
@[simp] theorem State.setPort_shifts (s : State) (p : Port) (q : PortSt) : (s.setPort p q).shifts = s.shifts := by cases p <;> rfl
@[simp] theorem State.setPort_morders (s : State) (p : Port) (q : PortSt) : (s.setPort p q).morders = s.morders := by cases p <;> rfl
@[simp] theorem State.setPort_sbq (s : State) (p : Port) (q : PortSt) : (s.setPort p q).sbq = s.sbq := by cases p <;> rfl
@[simp] theorem State.setPort_eng (s : State) (p : Port) (q : PortSt) : (s.setPort p q).eng = s.eng := by cases p <;> rfl
@[simp] theorem State.setPort_vault (s : State) (p : Port) (q : PortSt) : (s.setPort p q).vault = s.vault := by cases p <;> rfl
@[simp] theorem State.setPort_sec (s : State) (p : Port) (q : PortSt) : (s.setPort p q).sec = s.sec := by cases p <;> rfl
@[simp] theorem State.setPort_log (s : State) (p : Port) (q : PortSt) : (s.setPort p q).log = s.log := by cases p <;> rfl
@[simp] theorem State.setPort_err (s : State) (p : Port) (q : PortSt) : (s.setPort p q).err = s.err := by cases p <;> rfl
@[simp] theorem State.setPort_frz (s : State) (p : Port) (q : PortSt) : (s.setPort p q).frz = s.frz := by cases p <;> rfl
@[simp] theorem State.setPort_cx (s : State) (p : Port) (q : PortSt) : (s.setPort p q).cx = s.cx := by cases p <;> rfl
@[simp] theorem State.setPort_gate (s : State) (p : Port) (q : PortSt) : (s.setPort p q).gate = s.gate := by cases p <;> rfl
@[simp] theorem State.setPort_test (s : State) (p : Port) (q : PortSt) : (s.setPort p q).test = s.test := by cases p <;> rfl
@[simp] theorem State.setPort_scanIr (s : State) (p : Port) (q : PortSt) : (s.setPort p q).scanIr = s.scanIr := by cases p <;> rfl
@[simp] theorem State.setPort_scanCells (s : State) (p : Port) (q : PortSt) : (s.setPort p q).scanCells = s.scanCells := by cases p <;> rfl
@[simp] theorem State.setPort_scanHold (s : State) (p : Port) (q : PortSt) : (s.setPort p q).scanHold = s.scanHold := by cases p <;> rfl

@[simp] theorem State.modPort_pending (s : State) (p : Port) (f : PortSt → PortSt) : (s.modPort p f).pending = s.pending := State.setPort_pending s p _
@[simp] theorem State.modPort_out (s : State) (p : Port) (f : PortSt → PortSt) : (s.modPort p f).out = s.out := State.setPort_out s p _
@[simp] theorem State.modPort_free (s : State) (p : Port) (f : PortSt → PortSt) : (s.modPort p f).free = s.free := State.setPort_free s p _
@[simp] theorem State.modPort_clock (s : State) (p : Port) (f : PortSt → PortSt) : (s.modPort p f).clock = s.clock := State.setPort_clock s p _
@[simp] theorem State.modPort_supply (s : State) (p : Port) (f : PortSt → PortSt) : (s.modPort p f).supply = s.supply := State.setPort_supply s p _
@[simp] theorem State.modPort_fuse (s : State) (p : Port) (f : PortSt → PortSt) : (s.modPort p f).fuse = s.fuse := State.setPort_fuse s p _
@[simp] theorem State.modPort_root (s : State) (p : Port) (f : PortSt → PortSt) : (s.modPort p f).root = s.root := State.setPort_root s p _
@[simp] theorem State.modPort_fw (s : State) (p : Port) (f : PortSt → PortSt) : (s.modPort p f).fw = s.fw := State.setPort_fw s p _
@[simp] theorem State.modPort_start (s : State) (p : Port) (f : PortSt → PortSt) : (s.modPort p f).start = s.start := State.setPort_start s p _
@[simp] theorem State.modPort_mode (s : State) (p : Port) (f : PortSt → PortSt) : (s.modPort p f).mode = s.mode := State.setPort_mode s p _
@[simp] theorem State.modPort_array (s : State) (p : Port) (f : PortSt → PortSt) : (s.modPort p f).array = s.array := State.setPort_array s p _
@[simp] theorem State.modPort_slots (s : State) (p : Port) (f : PortSt → PortSt) : (s.modPort p f).slots = s.slots := State.setPort_slots s p _
@[simp] theorem State.modPort_keys (s : State) (p : Port) (f : PortSt → PortSt) : (s.modPort p f).keys = s.keys := State.setPort_keys s p _
@[simp] theorem State.modPort_tags (s : State) (p : Port) (f : PortSt → PortSt) : (s.modPort p f).tags = s.tags := State.setPort_tags s p _
@[simp] theorem State.modPort_jnl (s : State) (p : Port) (f : PortSt → PortSt) : (s.modPort p f).jnl = s.jnl := State.setPort_jnl s p _
@[simp] theorem State.modPort_cache (s : State) (p : Port) (f : PortSt → PortSt) : (s.modPort p f).cache = s.cache := State.setPort_cache s p _
@[simp] theorem State.modPort_staging (s : State) (p : Port) (f : PortSt → PortSt) : (s.modPort p f).staging = s.staging := State.setPort_staging s p _
@[simp] theorem State.modPort_bulk (s : State) (p : Port) (f : PortSt → PortSt) : (s.modPort p f).bulk = s.bulk := State.setPort_bulk s p _
@[simp] theorem State.modPort_seq (s : State) (p : Port) (f : PortSt → PortSt) : (s.modPort p f).seq = s.seq := State.setPort_seq s p _
@[simp] theorem State.modPort_shifts (s : State) (p : Port) (f : PortSt → PortSt) : (s.modPort p f).shifts = s.shifts := State.setPort_shifts s p _
@[simp] theorem State.modPort_morders (s : State) (p : Port) (f : PortSt → PortSt) : (s.modPort p f).morders = s.morders := State.setPort_morders s p _
@[simp] theorem State.modPort_sbq (s : State) (p : Port) (f : PortSt → PortSt) : (s.modPort p f).sbq = s.sbq := State.setPort_sbq s p _
@[simp] theorem State.modPort_eng (s : State) (p : Port) (f : PortSt → PortSt) : (s.modPort p f).eng = s.eng := State.setPort_eng s p _
@[simp] theorem State.modPort_vault (s : State) (p : Port) (f : PortSt → PortSt) : (s.modPort p f).vault = s.vault := State.setPort_vault s p _
@[simp] theorem State.modPort_sec (s : State) (p : Port) (f : PortSt → PortSt) : (s.modPort p f).sec = s.sec := State.setPort_sec s p _
@[simp] theorem State.modPort_log (s : State) (p : Port) (f : PortSt → PortSt) : (s.modPort p f).log = s.log := State.setPort_log s p _
@[simp] theorem State.modPort_err (s : State) (p : Port) (f : PortSt → PortSt) : (s.modPort p f).err = s.err := State.setPort_err s p _
@[simp] theorem State.modPort_frz (s : State) (p : Port) (f : PortSt → PortSt) : (s.modPort p f).frz = s.frz := State.setPort_frz s p _
@[simp] theorem State.modPort_cx (s : State) (p : Port) (f : PortSt → PortSt) : (s.modPort p f).cx = s.cx := State.setPort_cx s p _
@[simp] theorem State.modPort_gate (s : State) (p : Port) (f : PortSt → PortSt) : (s.modPort p f).gate = s.gate := State.setPort_gate s p _
@[simp] theorem State.modPort_test (s : State) (p : Port) (f : PortSt → PortSt) : (s.modPort p f).test = s.test := State.setPort_test s p _
@[simp] theorem State.modPort_scanIr (s : State) (p : Port) (f : PortSt → PortSt) : (s.modPort p f).scanIr = s.scanIr := State.setPort_scanIr s p _
@[simp] theorem State.modPort_scanCells (s : State) (p : Port) (f : PortSt → PortSt) : (s.modPort p f).scanCells = s.scanCells := State.setPort_scanCells s p _
@[simp] theorem State.modPort_scanHold (s : State) (p : Port) (f : PortSt → PortSt) : (s.modPort p f).scanHold = s.scanHold := State.setPort_scanHold s p _

@[simp] theorem State.setRing_pending (s : State) (p : Port) (r : RingN) (x : Ring) : (s.setRing p r x).pending = s.pending := State.modPort_pending s p _
@[simp] theorem State.setRing_out (s : State) (p : Port) (r : RingN) (x : Ring) : (s.setRing p r x).out = s.out := State.modPort_out s p _
@[simp] theorem State.setRing_free (s : State) (p : Port) (r : RingN) (x : Ring) : (s.setRing p r x).free = s.free := State.modPort_free s p _
@[simp] theorem State.setRing_clock (s : State) (p : Port) (r : RingN) (x : Ring) : (s.setRing p r x).clock = s.clock := State.modPort_clock s p _
@[simp] theorem State.setRing_supply (s : State) (p : Port) (r : RingN) (x : Ring) : (s.setRing p r x).supply = s.supply := State.modPort_supply s p _
@[simp] theorem State.setRing_fuse (s : State) (p : Port) (r : RingN) (x : Ring) : (s.setRing p r x).fuse = s.fuse := State.modPort_fuse s p _
@[simp] theorem State.setRing_root (s : State) (p : Port) (r : RingN) (x : Ring) : (s.setRing p r x).root = s.root := State.modPort_root s p _
@[simp] theorem State.setRing_fw (s : State) (p : Port) (r : RingN) (x : Ring) : (s.setRing p r x).fw = s.fw := State.modPort_fw s p _
@[simp] theorem State.setRing_start (s : State) (p : Port) (r : RingN) (x : Ring) : (s.setRing p r x).start = s.start := State.modPort_start s p _
@[simp] theorem State.setRing_mode (s : State) (p : Port) (r : RingN) (x : Ring) : (s.setRing p r x).mode = s.mode := State.modPort_mode s p _
@[simp] theorem State.setRing_array (s : State) (p : Port) (r : RingN) (x : Ring) : (s.setRing p r x).array = s.array := State.modPort_array s p _
@[simp] theorem State.setRing_slots (s : State) (p : Port) (r : RingN) (x : Ring) : (s.setRing p r x).slots = s.slots := State.modPort_slots s p _
@[simp] theorem State.setRing_keys (s : State) (p : Port) (r : RingN) (x : Ring) : (s.setRing p r x).keys = s.keys := State.modPort_keys s p _
@[simp] theorem State.setRing_tags (s : State) (p : Port) (r : RingN) (x : Ring) : (s.setRing p r x).tags = s.tags := State.modPort_tags s p _
@[simp] theorem State.setRing_jnl (s : State) (p : Port) (r : RingN) (x : Ring) : (s.setRing p r x).jnl = s.jnl := State.modPort_jnl s p _
@[simp] theorem State.setRing_cache (s : State) (p : Port) (r : RingN) (x : Ring) : (s.setRing p r x).cache = s.cache := State.modPort_cache s p _
@[simp] theorem State.setRing_staging (s : State) (p : Port) (r : RingN) (x : Ring) : (s.setRing p r x).staging = s.staging := State.modPort_staging s p _
@[simp] theorem State.setRing_bulk (s : State) (p : Port) (r : RingN) (x : Ring) : (s.setRing p r x).bulk = s.bulk := State.modPort_bulk s p _
@[simp] theorem State.setRing_seq (s : State) (p : Port) (r : RingN) (x : Ring) : (s.setRing p r x).seq = s.seq := State.modPort_seq s p _
@[simp] theorem State.setRing_shifts (s : State) (p : Port) (r : RingN) (x : Ring) : (s.setRing p r x).shifts = s.shifts := State.modPort_shifts s p _
@[simp] theorem State.setRing_morders (s : State) (p : Port) (r : RingN) (x : Ring) : (s.setRing p r x).morders = s.morders := State.modPort_morders s p _
@[simp] theorem State.setRing_sbq (s : State) (p : Port) (r : RingN) (x : Ring) : (s.setRing p r x).sbq = s.sbq := State.modPort_sbq s p _
@[simp] theorem State.setRing_eng (s : State) (p : Port) (r : RingN) (x : Ring) : (s.setRing p r x).eng = s.eng := State.modPort_eng s p _
@[simp] theorem State.setRing_vault (s : State) (p : Port) (r : RingN) (x : Ring) : (s.setRing p r x).vault = s.vault := State.modPort_vault s p _
@[simp] theorem State.setRing_sec (s : State) (p : Port) (r : RingN) (x : Ring) : (s.setRing p r x).sec = s.sec := State.modPort_sec s p _
@[simp] theorem State.setRing_log (s : State) (p : Port) (r : RingN) (x : Ring) : (s.setRing p r x).log = s.log := State.modPort_log s p _
@[simp] theorem State.setRing_err (s : State) (p : Port) (r : RingN) (x : Ring) : (s.setRing p r x).err = s.err := State.modPort_err s p _
@[simp] theorem State.setRing_frz (s : State) (p : Port) (r : RingN) (x : Ring) : (s.setRing p r x).frz = s.frz := State.modPort_frz s p _
@[simp] theorem State.setRing_cx (s : State) (p : Port) (r : RingN) (x : Ring) : (s.setRing p r x).cx = s.cx := State.modPort_cx s p _
@[simp] theorem State.setRing_gate (s : State) (p : Port) (r : RingN) (x : Ring) : (s.setRing p r x).gate = s.gate := State.modPort_gate s p _
@[simp] theorem State.setRing_test (s : State) (p : Port) (r : RingN) (x : Ring) : (s.setRing p r x).test = s.test := State.modPort_test s p _
@[simp] theorem State.setRing_scanIr (s : State) (p : Port) (r : RingN) (x : Ring) : (s.setRing p r x).scanIr = s.scanIr := State.modPort_scanIr s p _
@[simp] theorem State.setRing_scanCells (s : State) (p : Port) (r : RingN) (x : Ring) : (s.setRing p r x).scanCells = s.scanCells := State.modPort_scanCells s p _
@[simp] theorem State.setRing_scanHold (s : State) (p : Port) (r : RingN) (x : Ring) : (s.setRing p r x).scanHold = s.scanHold := State.modPort_scanHold s p _

@[simp] theorem State.modRing_pending (s : State) (p : Port) (r : RingN) (f : Ring → Ring) : (s.modRing p r f).pending = s.pending := State.setRing_pending s p r _
@[simp] theorem State.modRing_out (s : State) (p : Port) (r : RingN) (f : Ring → Ring) : (s.modRing p r f).out = s.out := State.setRing_out s p r _
@[simp] theorem State.modRing_free (s : State) (p : Port) (r : RingN) (f : Ring → Ring) : (s.modRing p r f).free = s.free := State.setRing_free s p r _
@[simp] theorem State.modRing_clock (s : State) (p : Port) (r : RingN) (f : Ring → Ring) : (s.modRing p r f).clock = s.clock := State.setRing_clock s p r _
@[simp] theorem State.modRing_supply (s : State) (p : Port) (r : RingN) (f : Ring → Ring) : (s.modRing p r f).supply = s.supply := State.setRing_supply s p r _
@[simp] theorem State.modRing_fuse (s : State) (p : Port) (r : RingN) (f : Ring → Ring) : (s.modRing p r f).fuse = s.fuse := State.setRing_fuse s p r _
@[simp] theorem State.modRing_root (s : State) (p : Port) (r : RingN) (f : Ring → Ring) : (s.modRing p r f).root = s.root := State.setRing_root s p r _
@[simp] theorem State.modRing_fw (s : State) (p : Port) (r : RingN) (f : Ring → Ring) : (s.modRing p r f).fw = s.fw := State.setRing_fw s p r _
@[simp] theorem State.modRing_start (s : State) (p : Port) (r : RingN) (f : Ring → Ring) : (s.modRing p r f).start = s.start := State.setRing_start s p r _
@[simp] theorem State.modRing_mode (s : State) (p : Port) (r : RingN) (f : Ring → Ring) : (s.modRing p r f).mode = s.mode := State.setRing_mode s p r _
@[simp] theorem State.modRing_array (s : State) (p : Port) (r : RingN) (f : Ring → Ring) : (s.modRing p r f).array = s.array := State.setRing_array s p r _
@[simp] theorem State.modRing_slots (s : State) (p : Port) (r : RingN) (f : Ring → Ring) : (s.modRing p r f).slots = s.slots := State.setRing_slots s p r _
@[simp] theorem State.modRing_keys (s : State) (p : Port) (r : RingN) (f : Ring → Ring) : (s.modRing p r f).keys = s.keys := State.setRing_keys s p r _
@[simp] theorem State.modRing_tags (s : State) (p : Port) (r : RingN) (f : Ring → Ring) : (s.modRing p r f).tags = s.tags := State.setRing_tags s p r _
@[simp] theorem State.modRing_jnl (s : State) (p : Port) (r : RingN) (f : Ring → Ring) : (s.modRing p r f).jnl = s.jnl := State.setRing_jnl s p r _
@[simp] theorem State.modRing_cache (s : State) (p : Port) (r : RingN) (f : Ring → Ring) : (s.modRing p r f).cache = s.cache := State.setRing_cache s p r _
@[simp] theorem State.modRing_staging (s : State) (p : Port) (r : RingN) (f : Ring → Ring) : (s.modRing p r f).staging = s.staging := State.setRing_staging s p r _
@[simp] theorem State.modRing_bulk (s : State) (p : Port) (r : RingN) (f : Ring → Ring) : (s.modRing p r f).bulk = s.bulk := State.setRing_bulk s p r _
@[simp] theorem State.modRing_seq (s : State) (p : Port) (r : RingN) (f : Ring → Ring) : (s.modRing p r f).seq = s.seq := State.setRing_seq s p r _
@[simp] theorem State.modRing_shifts (s : State) (p : Port) (r : RingN) (f : Ring → Ring) : (s.modRing p r f).shifts = s.shifts := State.setRing_shifts s p r _
@[simp] theorem State.modRing_morders (s : State) (p : Port) (r : RingN) (f : Ring → Ring) : (s.modRing p r f).morders = s.morders := State.setRing_morders s p r _
@[simp] theorem State.modRing_sbq (s : State) (p : Port) (r : RingN) (f : Ring → Ring) : (s.modRing p r f).sbq = s.sbq := State.setRing_sbq s p r _
@[simp] theorem State.modRing_eng (s : State) (p : Port) (r : RingN) (f : Ring → Ring) : (s.modRing p r f).eng = s.eng := State.setRing_eng s p r _
@[simp] theorem State.modRing_vault (s : State) (p : Port) (r : RingN) (f : Ring → Ring) : (s.modRing p r f).vault = s.vault := State.setRing_vault s p r _
@[simp] theorem State.modRing_sec (s : State) (p : Port) (r : RingN) (f : Ring → Ring) : (s.modRing p r f).sec = s.sec := State.setRing_sec s p r _
@[simp] theorem State.modRing_log (s : State) (p : Port) (r : RingN) (f : Ring → Ring) : (s.modRing p r f).log = s.log := State.setRing_log s p r _
@[simp] theorem State.modRing_err (s : State) (p : Port) (r : RingN) (f : Ring → Ring) : (s.modRing p r f).err = s.err := State.setRing_err s p r _
@[simp] theorem State.modRing_frz (s : State) (p : Port) (r : RingN) (f : Ring → Ring) : (s.modRing p r f).frz = s.frz := State.setRing_frz s p r _
@[simp] theorem State.modRing_cx (s : State) (p : Port) (r : RingN) (f : Ring → Ring) : (s.modRing p r f).cx = s.cx := State.setRing_cx s p r _
@[simp] theorem State.modRing_gate (s : State) (p : Port) (r : RingN) (f : Ring → Ring) : (s.modRing p r f).gate = s.gate := State.setRing_gate s p r _
@[simp] theorem State.modRing_test (s : State) (p : Port) (r : RingN) (f : Ring → Ring) : (s.modRing p r f).test = s.test := State.setRing_test s p r _
@[simp] theorem State.modRing_scanIr (s : State) (p : Port) (r : RingN) (f : Ring → Ring) : (s.modRing p r f).scanIr = s.scanIr := State.setRing_scanIr s p r _
@[simp] theorem State.modRing_scanCells (s : State) (p : Port) (r : RingN) (f : Ring → Ring) : (s.modRing p r f).scanCells = s.scanCells := State.setRing_scanCells s p r _
@[simp] theorem State.modRing_scanHold (s : State) (p : Port) (r : RingN) (f : Ring → Ring) : (s.modRing p r f).scanHold = s.scanHold := State.setRing_scanHold s p r _

@[simp] theorem State.modTaken_pending (s : State) (f : Ref) (g : Taken → Taken) : (s.modTaken f g).pending = s.pending := State.modRing_pending s f.p f.r _
@[simp] theorem State.modTaken_out (s : State) (f : Ref) (g : Taken → Taken) : (s.modTaken f g).out = s.out := State.modRing_out s f.p f.r _
@[simp] theorem State.modTaken_free (s : State) (f : Ref) (g : Taken → Taken) : (s.modTaken f g).free = s.free := State.modRing_free s f.p f.r _
@[simp] theorem State.modTaken_clock (s : State) (f : Ref) (g : Taken → Taken) : (s.modTaken f g).clock = s.clock := State.modRing_clock s f.p f.r _
@[simp] theorem State.modTaken_supply (s : State) (f : Ref) (g : Taken → Taken) : (s.modTaken f g).supply = s.supply := State.modRing_supply s f.p f.r _
@[simp] theorem State.modTaken_fuse (s : State) (f : Ref) (g : Taken → Taken) : (s.modTaken f g).fuse = s.fuse := State.modRing_fuse s f.p f.r _
@[simp] theorem State.modTaken_root (s : State) (f : Ref) (g : Taken → Taken) : (s.modTaken f g).root = s.root := State.modRing_root s f.p f.r _
@[simp] theorem State.modTaken_fw (s : State) (f : Ref) (g : Taken → Taken) : (s.modTaken f g).fw = s.fw := State.modRing_fw s f.p f.r _
@[simp] theorem State.modTaken_start (s : State) (f : Ref) (g : Taken → Taken) : (s.modTaken f g).start = s.start := State.modRing_start s f.p f.r _
@[simp] theorem State.modTaken_mode (s : State) (f : Ref) (g : Taken → Taken) : (s.modTaken f g).mode = s.mode := State.modRing_mode s f.p f.r _
@[simp] theorem State.modTaken_array (s : State) (f : Ref) (g : Taken → Taken) : (s.modTaken f g).array = s.array := State.modRing_array s f.p f.r _
@[simp] theorem State.modTaken_slots (s : State) (f : Ref) (g : Taken → Taken) : (s.modTaken f g).slots = s.slots := State.modRing_slots s f.p f.r _
@[simp] theorem State.modTaken_keys (s : State) (f : Ref) (g : Taken → Taken) : (s.modTaken f g).keys = s.keys := State.modRing_keys s f.p f.r _
@[simp] theorem State.modTaken_tags (s : State) (f : Ref) (g : Taken → Taken) : (s.modTaken f g).tags = s.tags := State.modRing_tags s f.p f.r _
@[simp] theorem State.modTaken_jnl (s : State) (f : Ref) (g : Taken → Taken) : (s.modTaken f g).jnl = s.jnl := State.modRing_jnl s f.p f.r _
@[simp] theorem State.modTaken_cache (s : State) (f : Ref) (g : Taken → Taken) : (s.modTaken f g).cache = s.cache := State.modRing_cache s f.p f.r _
@[simp] theorem State.modTaken_staging (s : State) (f : Ref) (g : Taken → Taken) : (s.modTaken f g).staging = s.staging := State.modRing_staging s f.p f.r _
@[simp] theorem State.modTaken_bulk (s : State) (f : Ref) (g : Taken → Taken) : (s.modTaken f g).bulk = s.bulk := State.modRing_bulk s f.p f.r _
@[simp] theorem State.modTaken_seq (s : State) (f : Ref) (g : Taken → Taken) : (s.modTaken f g).seq = s.seq := State.modRing_seq s f.p f.r _
@[simp] theorem State.modTaken_shifts (s : State) (f : Ref) (g : Taken → Taken) : (s.modTaken f g).shifts = s.shifts := State.modRing_shifts s f.p f.r _
@[simp] theorem State.modTaken_morders (s : State) (f : Ref) (g : Taken → Taken) : (s.modTaken f g).morders = s.morders := State.modRing_morders s f.p f.r _
@[simp] theorem State.modTaken_sbq (s : State) (f : Ref) (g : Taken → Taken) : (s.modTaken f g).sbq = s.sbq := State.modRing_sbq s f.p f.r _
@[simp] theorem State.modTaken_eng (s : State) (f : Ref) (g : Taken → Taken) : (s.modTaken f g).eng = s.eng := State.modRing_eng s f.p f.r _
@[simp] theorem State.modTaken_vault (s : State) (f : Ref) (g : Taken → Taken) : (s.modTaken f g).vault = s.vault := State.modRing_vault s f.p f.r _
@[simp] theorem State.modTaken_sec (s : State) (f : Ref) (g : Taken → Taken) : (s.modTaken f g).sec = s.sec := State.modRing_sec s f.p f.r _
@[simp] theorem State.modTaken_log (s : State) (f : Ref) (g : Taken → Taken) : (s.modTaken f g).log = s.log := State.modRing_log s f.p f.r _
@[simp] theorem State.modTaken_err (s : State) (f : Ref) (g : Taken → Taken) : (s.modTaken f g).err = s.err := State.modRing_err s f.p f.r _
@[simp] theorem State.modTaken_frz (s : State) (f : Ref) (g : Taken → Taken) : (s.modTaken f g).frz = s.frz := State.modRing_frz s f.p f.r _
@[simp] theorem State.modTaken_cx (s : State) (f : Ref) (g : Taken → Taken) : (s.modTaken f g).cx = s.cx := State.modRing_cx s f.p f.r _
@[simp] theorem State.modTaken_gate (s : State) (f : Ref) (g : Taken → Taken) : (s.modTaken f g).gate = s.gate := State.modRing_gate s f.p f.r _
@[simp] theorem State.modTaken_test (s : State) (f : Ref) (g : Taken → Taken) : (s.modTaken f g).test = s.test := State.modRing_test s f.p f.r _
@[simp] theorem State.modTaken_scanIr (s : State) (f : Ref) (g : Taken → Taken) : (s.modTaken f g).scanIr = s.scanIr := State.modRing_scanIr s f.p f.r _
@[simp] theorem State.modTaken_scanCells (s : State) (f : Ref) (g : Taken → Taken) : (s.modTaken f g).scanCells = s.scanCells := State.modRing_scanCells s f.p f.r _
@[simp] theorem State.modTaken_scanHold (s : State) (f : Ref) (g : Taken → Taken) : (s.modTaken f g).scanHold = s.scanHold := State.modRing_scanHold s f.p f.r _

@[simp] theorem PortSt.setRing_same (q : PortSt) (r : RingN) (x : Ring) : (q.setRing r x).ring r = x := by
  simp [PortSt.setRing, PortSt.ring]

theorem PortSt.setRing_other (q : PortSt) (r r' : RingN) (x : Ring) (h : r' ≠ r) : (q.setRing r x).ring r' = q.ring r' := by
  have h' : r.val ≠ r'.val := fun e => h (Fin.ext e.symm)
  simp [PortSt.setRing, PortSt.ring, h']

@[simp] theorem State.setRing_same (s : State) (p : Port) (r : RingN) (x : Ring) : (s.setRing p r x).ring p r = x := by
  simp [State.setRing, State.ring]

@[simp] theorem State.modRing_same (s : State) (p : Port) (r : RingN) (f : Ring → Ring) :
    (s.modRing p r f).ring p r = f (s.ring p r) := by
  simp [State.modRing]

/-- A change of one ring leaves every other ring. -/
theorem State.setRing_other (s : State) (p p' : Port) (r r' : RingN) (x : Ring) (h : p' ≠ p ∨ r' ≠ r) :
    (s.setRing p r x).ring p' r' = s.ring p' r' := by
  unfold State.setRing State.ring
  by_cases hp : p' = p
  · subst hp
    rw [State.modPort_same]
    exact PortSt.setRing_other _ _ _ _ (h.resolve_left fun e => e rfl)
  · rw [State.modPort_other _ _ _ _ hp]

theorem State.modRing_other (s : State) (p p' : Port) (r r' : RingN) (f : Ring → Ring) (h : p' ≠ p ∨ r' ≠ r) :
    (s.modRing p r f).ring p' r' = s.ring p' r' := State.setRing_other s p p' r r' _ h

/-- A ring's change leaves everything of its port but its rings. -/
theorem State.modRing_port (s : State) (p : Port) (r : RingN) (f : Ring → Ring) :
    (s.modRing p r f).port p = (s.port p).setRing r (f (s.ring p r)) := by
  simp [State.modRing, State.setRing]

/-! ## Taken entries -/

/-- The entry a reference names, after its change. -/
theorem State.modTaken_same (s : State) (f : Ref) (g : Taken → Taken) (h : ∀ t, (g t).i = t.i) :
    (s.modTaken f g).taken? f = (s.taken? f).map g := by
  have key : ∀ l : List Taken, (l.map fun t => if t.i == f.i then g t else t).find? (fun t => t.i == f.i) =
      (l.find? fun t => t.i == f.i).map g := by
    intro l
    induction l with
    | nil => rfl
    | cons a l ih =>
      by_cases ha : (a.i == f.i) = true
      · have hg : ((g a).i == f.i) = true := by rw [h]; exact ha
        simp only [List.map_cons, ha, if_true, List.find?_cons, hg, Option.map_some]
      · have hb : (a.i == f.i) = false := by simpa using ha
        simp only [List.map_cons, hb, List.find?_cons, Bool.false_eq_true, if_false]
        exact ih
  unfold State.taken? State.modTaken
  rw [State.modRing_same]
  exact key _

/-- Every other reference names the entry it named. -/
theorem State.modTaken_other (s : State) (f f' : Ref) (g : Taken → Taken) (h : ∀ t, (g t).i = t.i) (hf : f' ≠ f) :
    (s.modTaken f g).taken? f' = s.taken? f' := by
  by_cases hr : f'.p ≠ f.p ∨ f'.r ≠ f.r
  · unfold State.taken? State.modTaken
    rw [State.modRing_other _ _ _ _ _ _ hr]
  · obtain ⟨p, r, i⟩ := f
    obtain ⟨p', r', i'⟩ := f'
    have hp : p' = p := Decidable.byContradiction fun e => hr (.inl e)
    have hq : r' = r := Decidable.byContradiction fun e => hr (.inr e)
    subst hp hq
    have hi : i' ≠ i := fun e => hf (by rw [e])
    have key : ∀ l : List Taken, (l.map fun t => if t.i == i then g t else t).find? (fun t => t.i == i') =
        l.find? fun t => t.i == i' := by
      intro l
      induction l with
      | nil => rfl
      | cons a l ih =>
        by_cases ha : (a.i == i) = true
        · have e : a.i = i := by simpa using ha
          have n1 : ((g a).i == i') = false := by rw [h, e]; simpa using fun q => hi q.symm
          have n2 : (a.i == i') = false := by rw [e]; simpa using fun q => hi q.symm
          simp only [List.map_cons, ha, if_true, List.find?_cons, n1, n2]
          exact ih
        · have hb : (a.i == i) = false := by simpa using ha
          simp only [List.map_cons, hb, Bool.false_eq_true, if_false, List.find?_cons, ih]
    unfold State.taken? State.modTaken
    simp only [State.modRing_same]
    exact key _

/-! ## Slots -/

@[simp] theorem State.modSlot_same (s : State) (m : SlotN) (f : SlotSt → SlotSt) : (s.modSlot m f).slot m = f (s.slot m) := by
  simp [State.modSlot, State.slot]

theorem State.modSlot_other (s : State) (m n : SlotN) (f : SlotSt → SlotSt) (h : n ≠ m) :
    (s.modSlot m f).slot n = s.slot n := by
  have h' : m.val ≠ n.val := fun e => h (Fin.ext e.symm)
  simp [State.modSlot, State.slot, h']

end Sys2Proof.Machine
end

