-- ==== Sys2Proof/Laws/Ops.lean ====
section
/-! SUPPORT. What the named operations can do, said once each: the small ones exactly, those that publish a commit point by
the parts of State they can touch at all. Every part not named stands. -/
namespace Sys2Proof.Machine

/-- The buffer table as the list of its entries. -/
theorem bufs_toList (s : State) : s.staging.bufs.toList = (List.finRange 384).map fun i => s.staging.bufs[i] := by
  apply List.ext_getElem
  · simp
  · intro i h1 h2; simp

/-- The owner's buffers are as many as the buffer table shows. -/
theorem ownedIdx_length (s : State) (o : BufOwner) :
    (ownedIdx s o).length = (s.staging.bufs.toList.filter fun b => b.owner == o).length := by
  rw [bufs_toList, List.filter_map, List.length_map, ownedIdx, List.length_map]; rfl

/-- The free buffers are as many as the buffer table shows. -/
theorem freeIdx_length (s : State) :
    (freeIdx s).length = (s.staging.bufs.toList.filter fun b => b.owner == .free).length := by
  rw [bufs_toList, List.filter_map, List.length_map, freeIdx, List.length_map]; rfl

/-- A free first buffer is the lowest free one. -/
theorem freeIdx_head (s : State) (h : (s.staging.bufs[0]).owner = .free) : (freeIdx s).head? = some 128 := by
  rw [freeIdx, List.finRange_succ]
  simp [h]

/-- A relation every element's step keeps is kept by the fold. -/
theorem foldl_keeps {α : Type} {R : State → State → Prop} (refl : ∀ s, R s s)
    (trans : ∀ s t u, R s t → R t u → R s u) (f : State → α → State) (step : ∀ s x, R s (f s x)) (l : List α) (s : State) :
    R s (l.foldl f s) := by
  induction l generalizing s with
  | nil => exact refl s
  | cons x l ih => exact trans _ _ _ (step s x) (ih (f s x))

/-! ## What a part of the block can touch -/

/-- Only the two ports' state and what was sent may differ. -/
def TouchesPorts (s t : State) : Prop := ∃ a b o, t = { s with portA := a, portB := b, out := o }

/-- Only the ports, what was sent, the event log and the record numbers of open handlings may differ. -/
def TouchesPublish (s t : State) : Prop :=
  ∃ a b o l e c, t = { s with portA := a, portB := b, out := o, log := l, err := e, sec := { s.sec with record := c } }

theorem TouchesPorts.refl (s : State) : TouchesPorts s s := ⟨_, _, _, rfl⟩
theorem TouchesPorts.trans {s t u : State} (h : TouchesPorts s t) (k : TouchesPorts t u) : TouchesPorts s u := by
  obtain ⟨a, b, o, rfl⟩ := h
  obtain ⟨a', b', o', rfl⟩ := k
  exact ⟨a', b', o', rfl⟩

theorem TouchesPublish.refl (s : State) : TouchesPublish s s := ⟨_, _, _, _, _, _, rfl⟩
theorem TouchesPublish.trans {s t u : State} (h : TouchesPublish s t) (k : TouchesPublish t u) : TouchesPublish s u := by
  obtain ⟨a, b, o, l, e, c, rfl⟩ := h
  obtain ⟨a', b', o', l', e', c', rfl⟩ := k
  exact ⟨a', b', o', l', e', c', rfl⟩
theorem TouchesPorts.publish {s t : State} (h : TouchesPorts s t) : TouchesPublish s t := by
  obtain ⟨a, b, o, rfl⟩ := h
  exact ⟨a, b, o, _, _, _, rfl⟩

theorem setPort_touches (s : State) (p : Port) (q : PortSt) : TouchesPorts s (s.setPort p q) := by
  cases p
  · exact ⟨q, s.portB, s.out, rfl⟩
  · exact ⟨s.portA, q, s.out, rfl⟩
theorem modPort_touches (s : State) (p : Port) (f : PortSt → PortSt) : TouchesPorts s (s.modPort p f) := setPort_touches s p _
theorem modRing_touches (s : State) (p : Port) (r : RingN) (f : Ring → Ring) : TouchesPorts s (s.modRing p r f) :=
  modPort_touches s p fun q => q.setRing r (f (s.ring p r))
theorem modTaken_touches (s : State) (f : Ref) (g : Taken → Taken) : TouchesPorts s (s.modTaken f g) :=
  modRing_touches s f.p f.r _
theorem emit_touches (s : State) (o : Out) : TouchesPorts s (s.emit o) := ⟨s.portA, s.portB, _, rfl⟩
theorem raise_touches (s : State) (r : LogRec) : TouchesPublish s (s.raise r) := ⟨_, _, _, _, s.err, s.sec.record, rfl⟩

/-! ## What is sent -/

theorem sendHost_touches (s : State) (p : Port) (w : HostWrite) : TouchesPorts s (sendHost s p w) := by
  unfold sendHost
  dsimp only
  split
  · exact TouchesPorts.refl s
  · split
    · exact modPort_touches _ _ _
    · exact (modPort_touches _ _ _).trans ⟨_, _, _, rfl⟩

/-- A write of at most 128 bytes that crosses no 4 KiB boundary goes out whole, whatever Max_Payload_Size is. -/
theorem writePieces_short (c : CfgSpace) (w : HostWrite) (h : w.data ≠ []) (hl : w.data.length ≤ 128)
    (hb : w.data.length ≤ 4096 - w.addr % 4096) : writePieces c w = [w] := by
  have hp : 0 < w.data.length := List.length_pos_iff.mpr h
  have hm : 128 ≤ writeLimit c := by
    have := Nat.one_le_two_pow (n := c.mps.toNat)
    unfold writeLimit
    omega
  have h1 : min w.data.length (min (writeLimit c) (4096 - w.addr % 4096)) = w.data.length := by omega
  have h0 : w.data.length ≠ 0 := by omega
  have h2 : readPieces (writeLimit c) (w.data.length / 64 + 2) w.addr w.data.length = [(w.addr, w.data.length)] := by
    simp [readPieces, h1, h]
  simp [writePieces, h2, slice]

/-- A port that is open, not contained and behind with nothing sends its write at once, in its pieces. -/
theorem sendHost_sends (s : State) (p : Port) (w : HostWrite) (he : portEnabled s p = true)
    (h1 : (s.port p).perst = false) (h2 : (s.port p).crs = false) (h3 : (s.port p).cstate = .run)
    (h4 : masters (s.port p) s.clock.frame = true) (h5 : (s.port p).withheld = []) :
    (sendHost s p w).out =
      s.out ++ (writePieces (s.port p).cfg w).map fun x => .hostWrite p x (tlpAttr (s.port p).cfg) := by
  unfold sendHost
  simp [he, h1, h2, h3, h4, h5]

/-- A contained port, one that may not master, or one that withholds already, withholds its write: nothing is sent. -/
theorem sendHost_withholds (s : State) (p : Port) (w : HostWrite) (he : portEnabled s p = true)
    (h1 : (s.port p).perst = false) (h2 : (s.port p).crs = false)
    (h3 : (s.port p).cstate ≠ .run ∨ masters (s.port p) s.clock.frame = false ∨ (s.port p).withheld ≠ []) :
    sendHost s p w = s.modPort p fun q => { q with withheld := q.withheld ++ [w] } := by
  unfold sendHost
  rcases h3 with h3 | h3 | h3 <;> simp [he, h1, h2, h3]

theorem pumpReads_touches (s : State) (p : Port) : TouchesPorts s (pumpReads s p) := by
  unfold pumpReads
  dsimp only
  split
  · exact TouchesPorts.refl s
  · split
    · exact TouchesPorts.refl s
    · exact (modPort_touches _ _ _).trans ⟨_, _, _, rfl⟩

theorem readHost_touches (s : State) (p : Port) (o : ReadOwner) (addr len : Nat) : TouchesPorts s (readHost s p o addr len) :=
  (modPort_touches _ _ _).trans (pumpReads_touches _ _)

theorem readsBack_touches (s : State) (p : Port) (o : ReadOwner) : TouchesPorts s (readsBack s p o) :=
  (modPort_touches _ _ _).trans (pumpReads_touches _ _)

theorem postEvent_touches (s : State) (p : Port) (e : Event) : TouchesPorts s (postEvent s p e) := by
  unfold postEvent
  split
  · exact TouchesPorts.refl s
  · exact modPort_touches _ _ _

theorem writeEvent_touches (s : State) (p : Port) (e : Event) : TouchesPorts s (writeEvent s p e) := by
  unfold writeEvent
  exact ((sendHost_touches _ _ _).trans (sendHost_touches _ _ _)).trans (modPort_touches _ _ _)

theorem writeEvents_touches (p : Port) (n : Nat) (s : State) : TouchesPorts s (writeEvents p n s) := by
  induction n generalizing s with
  | zero => exact TouchesPorts.refl s
  | succ n ih =>
    unfold writeEvents
    dsimp only
    split
    · exact TouchesPorts.refl s
    · split
      · exact ((modPort_touches _ _ _).trans (writeEvent_touches _ _ _)).trans (ih _)
      · split
        · exact TouchesPorts.refl s
        · exact ((modPort_touches _ _ _).trans (writeEvent_touches _ _ _)).trans (ih _)

theorem flushEvents_touches (s : State) (p : Port) : TouchesPorts s (flushEvents s p) := by
  unfold flushEvents
  dsimp only
  split
  · exact (writeEvents_touches _ _ _).trans (modPort_touches _ _ _)
  · exact modPort_touches _ _ _

/-! ## Entries -/

/-- An entry that has its status keeps it; any other has the status and the reply given. -/
theorem finishEntry_taken (s : State) (f : Ref) (st : Status) (reply : Bytes) (t : Taken) (h : s.taken? f = some t) :
    (finishEntry s f st reply).taken? f =
      some (if t.stage = .finished then t else { t with stage := .finished, status := st, reply := reply }) := by
  unfold finishEntry
  rw [State.modTaken_same]
  · rw [h]
    rfl
  · intro t
    split <;> rfl

theorem finishEntry_other (s : State) (f f' : Ref) (st : Status) (reply : Bytes) (h : f' ≠ f) :
    (finishEntry s f st reply).taken? f' = s.taken? f' := by
  unfold finishEntry
  refine State.modTaken_other s f f' _ (fun t => ?_) h
  split <;> rfl

theorem finishEntry_touches (s : State) (f : Ref) (st : Status) (reply : Bytes) :
    TouchesPorts s (finishEntry s f st reply) := modTaken_touches s f _

theorem setStage_taken (s : State) (f : Ref) (g : EStage) : (setStage s f g).taken? f = (s.taken? f).map fun t => { t with stage := g } :=
  State.modTaken_same s f _ fun _ => rfl

theorem setStage_other (s : State) (f f' : Ref) (g : EStage) (h : f' ≠ f) : (setStage s f g).taken? f' = s.taken? f' :=
  State.modTaken_other s f f' _ (fun _ => rfl) h

theorem setStage_touches (s : State) (f : Ref) (g : EStage) : TouchesPorts s (setStage s f g) := modTaken_touches s f _

theorem replyEntry_touches (s : State) (p : Port) (r : RingN) (t : Taken) : TouchesPorts s (replyEntry s p r t) := by
  unfold replyEntry
  split
  · exact sendHost_touches _ _ _
  · split
    · exact postEvent_touches _ _ _
    · exact TouchesPorts.refl s

theorem freezeRing_touches (s : State) (p : Port) (r : RingN) (st : Status) (i : Nat) (tag : BitVec 16) (op : Nat) :
    TouchesPublish s (freezeRing s p r st i tag op) := by
  unfold freezeRing
  exact (((modRing_touches _ _ _ _).publish.trans (raise_touches _ _)).trans (postEvent_touches _ _ _).publish).trans
    (modPort_touches _ _ _).publish

theorem settleEntry_touches (p : Port) (r : RingN) (s : State) (t : Taken) : TouchesPublish s (settleEntry p r s t) := by
  unfold settleEntry
  dsimp only
  split
  · exact TouchesPublish.refl s
  · split
    · exact TouchesPublish.refl s
    · have h := (replyEntry_touches s p r t).publish
      split
      · exact h.trans (freezeRing_touches _ _ _ _ _ _ _)
      · split
        · exact (h.trans (raise_touches _ _)).trans ((modTaken_touches _ _ _).trans (modRing_touches _ _ _ _)).publish
        · exact h.trans ((modTaken_touches _ _ _).trans (modRing_touches _ _ _ _)).publish

theorem settleRing_touches (s : State) (p : Port) (r : RingN) : TouchesPublish s (settleRing s p r) := by
  unfold settleRing
  have h : TouchesPublish s ((s.ring p r).taken.foldl (settleEntry p r) s) :=
    foldl_keeps TouchesPublish.refl (fun _ _ _ => TouchesPublish.trans) _ (fun s t => settleEntry_touches p r s t) _ _
  dsimp only
  split
  · exact h
  · exact h.trans (modRing_touches _ _ _ _).publish

theorem publishHead_touches (s : State) (p : Port) (r : RingN) : TouchesPorts s (publishHead s p r) := by
  unfold publishHead
  dsimp only
  split
  · exact TouchesPorts.refl s
  · exact (sendHost_touches _ _ _).trans (modPort_touches _ _ _)

/-! ## The log's intake -/

theorem noteRecord_touches (s : State) (r : LogRec) : TouchesPublish s (noteRecord s r) := by
  unfold noteRecord
  dsimp only
  split
  · split
    · exact (modRing_touches _ _ _ _).publish
    · exact TouchesPublish.refl s
  · exact (modPort_touches _ _ _).publish
  · exact ⟨_, _, _, _, _, _, rfl⟩
  · exact ⟨_, _, _, _, _, _, rfl⟩
  · split
    · exact ⟨_, _, _, _, _, r.seq, rfl⟩
    · exact TouchesPublish.refl s

theorem countAdded_touches (s : State) (r : LogRec) : TouchesPublish s (countAdded s r) := by
  unfold countAdded
  split
  · exact TouchesPublish.refl s
  · exact ⟨_, _, _, _, _, _, rfl⟩

/-- A new log leaves all but the log. -/
theorem withLog_touches (s : State) (l : LogSt) : TouchesPublish s { s with log := l } := ⟨_, _, _, l, _, _, rfl⟩

theorem placeRec_touches (s : State) (r : LogRec) : TouchesPublish s (placeRec s r) := by
  unfold placeRec
  dsimp only
  have h : TouchesPublish s (if r.adds = 0 then noteRecord (countAdded s r) { r with seq := s.log.next, frame := (countAdded s r).clock.frame, rtc := (countAdded s r).clock.rtc, adds := if r.adds = 0 then 0 else openRecord (countAdded s r) r } else countAdded s r) := by
    split
    · exact (countAdded_touches s r).trans (noteRecord_touches _ _)
    · exact countAdded_touches s r
  revert h
  generalize (if r.adds = 0 then noteRecord (countAdded s r) _ else countAdded s r) = x
  intro h
  repeat' (first | exact h.trans (withLog_touches _ _) | split)

theorem placeRaised_touches (s : State) : TouchesPublish s (placeRaised s) := by
  unfold placeRaised
  split
  · exact (withLog_touches s _).trans
      (foldl_keeps TouchesPublish.refl (fun _ _ _ => TouchesPublish.trans) _ (fun s t => placeRec_touches s t) _ _)
  · exact TouchesPublish.refl s

theorem placeLost_touches (s : State) : TouchesPublish s (placeLost s) := by
  unfold placeLost
  dsimp only
  split
  · exact (withLog_touches s _).trans (placeRec_touches _ _)
  · exact TouchesPublish.refl s

/-! ## A commit point's publishing -/

theorem publishPort_touches (s : State) (p : Port) : TouchesPublish s (publishPort s p) := by
  unfold publishPort
  split
  · exact TouchesPublish.refl s
  · have h : TouchesPublish s (allRings.foldl (fun s r => settleRing s p r) s) :=
      foldl_keeps TouchesPublish.refl (fun _ _ _ => TouchesPublish.trans) _ (fun s r => settleRing_touches s p r) _ _
    dsimp only
    split
    · refine (h.trans (TouchesPorts.publish ?_)).trans (flushEvents_touches _ _).publish
      exact foldl_keeps TouchesPorts.refl (fun _ _ _ => TouchesPorts.trans) _ (fun s r => publishHead_touches s p r) _ _
    · exact h.trans (flushEvents_touches _ _).publish

/-- A commit point's replies, heads, events and records touch the ports, what is sent, the log and the record numbers. -/
theorem publish_touches (s : State) : TouchesPublish s (publish s) := by
  unfold publish
  exact ((publishPort_touches _ _).trans (publishPort_touches _ _)).trans (placeRaised_touches _)

/-! ## Numbers and planned transitions -/

theorem freshId_fst (s : State) : (freshId s).1 = s.gate.nextId := rfl
theorem freshId_snd (s : State) : (freshId s).2 = { s with gate := { s.gate with nextId := s.gate.nextId + 1 } } := rfl

/-- Planning a transition touches the planned transition only. -/
theorem planMode_touches (s : State) (target : Mode) (kind : PlanKind) (cause src slot : Nat) (ref : Option Ref) (w : Bool) :
    ∃ p, planMode s target kind cause src slot ref w = { s with mode := { s.mode with plan := p } } := by
  unfold planMode
  dsimp only
  split
  · exact ⟨_, rfl⟩
  · split
    · exact ⟨_, rfl⟩
    · exact ⟨s.mode.plan, rfl⟩

/-- With no transition planned, the one asked for is. -/
theorem planMode_plan (s : State) (target : Mode) (kind : PlanKind) (cause src slot : Nat) (ref : Option Ref) (w : Bool)
    (h : s.mode.plan = none) : (planMode s target kind cause src slot ref w).mode.plan =
      some { target := target, kind := kind, rank := planRank kind target, cause := BitVec.ofNat 8 cause,
             src := BitVec.ofNat 4 src, slot := BitVec.ofNat 3 slot, frame := obsFrame s, ref := ref, waitIo := w } := by
  unfold planMode
  simp [h]

/-- Writing a new mode touches the mode block, the log and the events of the ports. -/
theorem enterMode_touches (s : State) (target : Mode) (cause src slot : Nat) :
    ∃ m, TouchesPublish { s with mode := m } (enterMode s target cause src slot) := by
  unfold enterMode
  dsimp only
  refine ⟨(s.modMode fun m =>
    { m with prior := m.mode, mode := target, cause := BitVec.ofNat 8 cause, src := BitVec.ofNat 4 src,
             slot := BitVec.ofNat 3 slot, entry := s.clock.frame, chg := true, pend := false, plan := none,
             idleSince := none }).mode, ?_⟩
  refine TouchesPublish.trans (raise_touches _ _) (foldl_keeps TouchesPublish.refl (fun _ _ _ => TouchesPublish.trans) _ (fun s p => ?_) _ _)
  split
  · exact (postEvent_touches _ _ _).publish
  · exact TouchesPublish.refl s

/-! ## The log's records and its commits -/

theorem logNote_touches (s : State) (src cause obj : Nat) : TouchesPublish s (logNote s src cause obj) := raise_touches s _
theorem logCase_touches (s : State) (src : Nat) (c : Logged) (obj : Nat) : TouchesPublish s (logCase s src c obj) := raise_touches s _
theorem logComplex_touches (s : State) (c : Cx) (row : Nat) : TouchesPublish s (logComplex s c row) := raise_touches s _
theorem logConflict_touches (s : State) (res win lose : Nat) : TouchesPublish s (logConflict s res win lose) := raise_touches s _
theorem logIntegrity_touches (s : State) (vol lbn row : Nat) (st : Status) : TouchesPublish s (logIntegrity s vol lbn row st) :=
  raise_touches s _

/-- Releasing the log's writes touches the log and adds at most one commit behind those in flight. -/
theorem logRelease_touches (s : State) : ∃ l c, logRelease s =
    { s with log := l, jnl := { s.jnl with inflight := s.jnl.inflight ++ c } } ∧ c.length ≤ 1 := by
  unfold logRelease
  split
  · exact ⟨s.log, [], by simp, by simp⟩
  · dsimp only
    split
    · exact ⟨s.log, [], by simp, by simp⟩
    · exact ⟨_, [_], rfl, by simp⟩

/-- The log's part of a commit point adds at most one journal commit; all else it touches, publishing may touch. -/
theorem logCommit_touches (s : State) : ∃ c : List JCommit, c.length ≤ 1 ∧
    TouchesPublish { s with jnl := { s.jnl with inflight := s.jnl.inflight ++ c } } (logCommit s) := by
  unfold logCommit
  obtain ⟨l, c, h, hc⟩ := logRelease_touches (logFree s)
  refine ⟨c, hc, ?_⟩
  dsimp only
  rw [h]
  have h1 : TouchesPublish { s with jnl := { s.jnl with inflight := s.jnl.inflight ++ c } }
      { logFree s with log := l, jnl := { (logFree s).jnl with inflight := (logFree s).jnl.inflight ++ c } } :=
    ⟨_, _, _, l, _, _, rfl⟩
  split
  · exact (h1.trans (placeLost_touches _)).trans (placeRaised_touches _)
  · exact h1

/-! ## The always-on clock -/

/-- A tick of the always-on clock touches the real-time counter only, and keeps it within its 48 bits. -/
theorem aonTick_touches (s : State) : aonTick s = { s with clock := { s.clock with rtc := (aonTick s).clock.rtc } } := by
  unfold aonTick
  split <;> rfl

theorem aonTick_rtc_lt (s : State) (h : s.clock.rtc < 2 ^ 48) : (aonTick s).clock.rtc < 2 ^ 48 := by
  unfold aonTick
  split
  · exact h
  · exact Nat.mod_lt _ (by decide)

end Sys2Proof.Machine
end

