-- ==== Sys2Proof/WellFormed.lean ====
section
/-! DEFINITION. Which commands are well formed: each outside datum a command brings has the size its rule gives it. -/
namespace Sys2Proof

/-- A ring entry is 64 bytes: 16 dwords (05 R134). -/
def Entry.wf (e : Entry) : Bool := e.dw.length == 16

/-- A slot of a ring of at most 4096 slots (05 R132). -/
def slotWf (i : Nat) : Bool := decide (i < 4096)

/-- A block is 4096 bytes (00, "Numbers and notation"). -/
def blockWf (b : Bytes) : Bool := b.length == 4096
def readWf (b : Option Bytes) : Bool := match b with
  | some x => blockWf x
  | none => true
def mediaWf (m : List MediaRead) : Bool := m.all fun r => readWf r.data

/-- A superblock copy is 16 KiB (09 Table 9-4). -/
def copyWf (b : Option Bytes) : Bool := match b with
  | some x => x.length == 16384
  | none => true

/-- What completing a bring-up step brings: a 20-byte serial (09 Table 9-4), two 16 KiB copies. -/
def stepInfoWf : StepInfo → Bool
  | .plain => true
  | .identified d => d.serial.length == 20
  | .superblocks c => copyWf c.a && copyWf c.b

/-- A cache error lies in one of 1024 sets, 16 ways and 4 sectors (08 R244). -/
def faultWf : CacheFault → Bool
  | .single s w | .tag s w => decide (s < 1024) && decide (w < 16)
  | .double s w i => decide (s < 1024) && decide (w < 16) && decide (i < 4)

/-- Each operand has the size its rule gives it. -/
def Instr.wf : Instr → Bool
  | .pollData _ _ w _ => decide (w.length ≤ 8) && w.all Entry.wf
  | .drowsePoll _ _ e => Entry.wf e
  | .journalReplayEnd v => mediaWf v.media
  | .unlock _ i m | .vaultGet _ i m | .vaultSetPolicy _ i m => slotWf i && mediaWf m
  | .read _ _ i v => slotWf i && v.cache.all faultWf
  | .shiftCompute _ fs => fs.all faultWf
  | .write _ _ i _ | .writeThrough _ _ i _ | .flush _ _ i | .deallocate _ _ i | .verify _ _ i
  | .journalWaitEnd _ _ i => slotWf i
  | .hostDmaReadCompletion _ _ i d => slotWf i && (match d with | some x => decide (x.length ≤ 1048576) | none => true)
  | .registerWrite _ (.bar0 o) _ => decide (o < 65536) && o % 4 == 0
  | .registerWrite _ (.config o) _ => decide (o < 4096) && o % 4 == 0
  | .bar0UnsupportedRequest _ o d _ _ => decide (o < 65536) && decide (1 ≤ d)
  | .portError _ _ h => h.length == 4
  | .bringupStepDone _ i => stepInfoWf i
  | .ladderRungDone _ _ s => s.length == 20
  | .memberReadCompletion _ _ d => d.all readWf
  | .foldStart _ m | .rekeyStep m => mediaWf m
  | .discrepancyRunEnd _ d _ => decide (1 ≤ d)
  | .coolDownExpiry o => decide (o < 4096)
  | .windowsClose w => decide (w.coreMin ≤ w.coreMax) && decide (w.tjMin ≤ w.tjMax)
  | _ => true

end Sys2Proof
end

