-- ==== Sys2Proof/Tests/Slice0.lean ====
section
/-! SUPPORT. Tests of this model: an ill-formed command for each check of WellFormed, a witness for the hypotheses of each
statement, and single steps whose expected results are taken from spec/. -/
namespace Sys2Proof.Tests
set_option Elab.async false
open Sys2Proof Sys2Proof.Machine

/-! ## Small states -/

def drive : DriveId :=
  { formatOk := true, offers := true, needMeta := false, queues := 2, blocks := 100064, dlfeat := true, serial := zeros 20,
    mpCentiW := 900 }

/-- A slot whose drive is a member. -/
def ready : SlotSt :=
  { SlotSt.init with state := .member, present := true, rail := true, limit := 10, perst := false, refclk := true, step := 8,
                     drive := some drive }

def posAt (m : SlotN) : PEntry := { state := .current, slot := m, lostAg := 0, serial := zeros 20 }

def vol (isSealed : Bool) (base size : Nat) (key : Fin 64) : Volume :=
  { present := true, isSealed := isSealed, base := base, size := size, key := key, grantA := 3, grantB := 3, wrap := [],
    stale := false, deleting := false }

def keys : VolKeys := { xts1 := zeros 32, xts2 := zeros 32, tag := zeros 32, tree := zeros 32 }

/-- Three members with one parity, u = 4: the sealed volume 0 and the unsealed volume 1. -/
def arr : ArraySt :=
  { uuid := 1, ag := 1, n := 3, layout := 3, su := 0, dsz := 100000, ptab := #v[posAt 0, posAt 1, posAt 2, posAt 3, posAt 4, posAt 5],
    rbKind := .none, rbTarget := 0, queued := none, w := 0, qw := 0, scRow := 0, scPasses := 0, mkeyFormat := 1,
    home := zeros 48, fleet := zeros 48, rekey := { vol := 0, state := 0, b := 0, wrap := [] },
    vtab := ((Vector.replicate 64 { vol true 0 0 0 with present := false }).set 0 (vol true 0 4096 0)).set 1 (vol false 1000 4096 1),
    pgen := 1, prog := romParity1 }

/-- The descriptors of the three rows of that layout (07 Table 7-4). -/
def table : List Descriptor :=
  [{ lanes := [.data 0, .data 1, .red 0], c0 := [1, 1], c1 := [] },
   { lanes := [.data 1, .red 0, .data 0], c0 := [1, 1], c1 := [] },
   { lanes := [.red 0, .data 0, .data 1], c0 := [1, 1], c1 := [] }]

def running : Ring := { Ring.init with state := .run, cfg := 0x2021 }

/-- A port whose link is up; rings 0 and 1 run. -/
def host : PortSt :=
  { PortSt.init with
    phy := true, perst := false, linkUp := true, refclk := true, bmeSince := some 0,
    cfg := { (CfgSpace.init 0x1D9B 0x0636) with mse := true, bme := true },
    rings := ((Vector.replicate 64 Ring.init).set 0 running).set 1 running }

/-- Online, both complexes in TWIN, in the Plan phase of frame 100. -/
def on : State :=
  { State.reset with
    clock := { State.reset.clock with frame := 100, phase := .plan },
    start := { StartSt.init with stage := .released },
    mode := { ModeSt.init with mode := .online, prior := .locked, cond := .online },
    portA := host, portB := host, array := some arr, slots := #v[ready, ready, ready, SlotSt.init, SlotSt.init, SlotSt.init],
    keys := { KeySt.init with prim := ((Vector.replicate 64 none).set 0 (some keys)).set 1 (some keys), amk := some (zeros 32) },
    seq := { SeqSt.init with bank0 := romParity1, active := some false, table := table },
    cx := { CxSt.init with umber := .twin, slate := .twin, holder := some .umber, expiry := 1000 } }

def modeOf (s : State) (m : Mode) : State := { s with mode := { s.mode with mode := m } }
def phaseOf (s : State) (p : Phase) : State := { s with clock := { s.clock with phase := p } }
/-- At the commit point of its frame. -/
def due : State := phaseOf on .commit
def grey (s : State) : State := { s with fuse := { s.fuse with g := true } }
def black (s : State) : State := { s with fuse := { s.fuse with g := true, b := true } }
def startAt (st : Stage) : State := { State.reset with start := { StartSt.init with stage := st } }
def planFor (m : Mode) (k : PlanKind) : ModePlan :=
  { target := m, kind := k, rank := planRank k m, cause := 0x05, src := 0, slot := 7, frame := 99, ref := none, waitIo := false }
def withPlan (s : State) (m : Mode) (k : PlanKind) : State := { s with mode := { s.mode with plan := some (planFor m k) } }

/-! ## Entries -/

/-- A management entry: opcode, argument word, parameter length, reply limit and the words from dword 8 on. -/
def entry (op : Nat) (arg : W32) (a : List W32) : Entry := { dw := [BitVec.ofNat 32 op, arg, 0, 0, 0, 0, 0, 0] ++ (a ++ List.replicate 8 0).take 8 }
/-- An I/O entry of one block at LBN `lbn` of volume `v`. -/
def ioEntry (op v lbn : Nat) : Entry :=
  { dw := [BitVec.ofNat 32 op, BitVec.ofNat 32 v, 0, 0, BitVec.ofNat 32 lbn, 0, 0, 0, 0, 0, 0, 0, 0, 0, 0, 0] }
def took (e : Entry) : Taken :=
  { i := 0, entries := [e], stage := .waiting, frame := 100, param := none, data := [], items := [], seqs := [], status := 0,
    reply := [], committed := false, done := false, pressed := false, issued := none, vols := [1], grant0 := 3,
    charged := false, wfail := false, ord := 0 }
def at_ (k : Taken) (g : EStage) : Taken := { k with stage := g }
/-- The entry stands at slot 0 of ring `r` of port A. -/
def withEntry (s : State) (r : RingN) (k : Taken) : State := s.modRing .a r fun x => { x with taken := [k] }
def mgmt (s : State) (k : Taken) : State := withEntry s 0 k
def f0 : Ref := { p := .a, r := 0, i := 0 }
def f1 : Ref := { p := .a, r := 1, i := 0 }

/-- The state after a planned effect met its commit point. -/
def released (s : State) (a : CommitAct) : State := releaseOrder s (.act f0 a)

/-- An entry of ring 0 that waits for its commit point has its effect there. -/
theorem acts_mgmt (s : State) (k : Taken) (a : CommitAct) (h : k.i = 0) :
    ActsOn (mgmt s (at_ k .commit)) (released (mgmt s (at_ k .commit)) a) .a 0 (at_ k .commit) a := by
  refine ⟨?_, rfl, rfl⟩
  simp [mgmt, withEntry, State.taken?, State.modRing, State.setRing, State.modPort, State.setPort, PortSt.setRing, PortSt.ring,
    State.ring, State.port, at_, h]
/-- The state a step answers. -/
def after (o : Host.Outcome State Fault Refusal) : State :=
  match o with
  | .next t => t
  | _ => State.reset
def answers (o : Host.Outcome State Fault Refusal) : Bool :=
  match o with
  | .next _ => true
  | _ => false

/-! ## Well-formedness: an ill-formed command for each check -/

theorem test_wf_accepts : Instr.wf (.pollData .a 1 [ioEntry 1 1 0] false) = true ∧ Instr.wf (.release false) = true := by decide
theorem test_wf_window : Instr.wf (.pollData .a 1 (List.replicate 9 (ioEntry 1 1 0)) false) = false := by decide
theorem test_wf_entry : Instr.wf (.pollData .a 1 [{ dw := [] }] false) = false := by decide
theorem test_wf_drowsePoll : Instr.wf (.drowsePoll .a 0 { dw := [1] }) = false := by decide
theorem test_wf_replay : Instr.wf (.journalReplayEnd { altered := false, bad := [], media := [{ pos := 0, d := 0, data := some [] }] }) = false := by
  decide
theorem test_wf_unlock : Instr.wf (.unlock .a 4096 []) = false ∧ Instr.wf (.vaultGet .a 0 [{ pos := 0, d := 0, data := some [1] }]) = false ∧
    Instr.wf (.vaultSetPolicy .b 5000 []) = false := by decide
theorem test_wf_slot : Instr.wf (.read .a 1 4096 .clean) = false ∧ Instr.wf (.journalWaitEnd .a 1 4096) = false := by decide
theorem test_wf_hostData : Instr.wf (.hostDmaReadCompletion .a 1 4096 none) = false := by decide
theorem test_wf_registerWrite : Instr.wf (.registerWrite .a (.bar0 0x10000) 0) = false ∧
    Instr.wf (.registerWrite .a (.config 0x1000) 0) = false ∧ Instr.wf (.registerWrite .a (.bar0 2) 0) = false := by decide
theorem test_wf_fault : Instr.wf (.shiftCompute 0 [.double 0 0 4]) = false ∧ Instr.wf (.shiftCompute 0 [.single 1024 0]) = false ∧
    Instr.wf (.read .a 1 0 { ReadView.clean with cache := [.tag 0 16] }) = false := by decide
theorem test_wf_bar0 : Instr.wf (.bar0UnsupportedRequest .a 0 0 true true) = false := by decide
theorem test_wf_portError : Instr.wf (.portError .a .ecrc [0, 0, 0]) = false := by decide
theorem test_wf_identified : Instr.wf (.bringupStepDone 0 (.identified { drive with serial := [] })) = false := by decide
theorem test_wf_superblocks : Instr.wf (.bringupStepDone 0 (.superblocks { a := some [0], b := none })) = false := by decide
theorem test_wf_ladder : Instr.wf (.ladderRungDone 0 true [1]) = false := by decide
theorem test_wf_memberRead : Instr.wf (.memberReadCompletion 0 .ok [some [1]]) = false := by decide
theorem test_wf_fold : Instr.wf (.foldStart 0 [{ pos := 0, d := 0, data := some [1] }]) = false ∧
    Instr.wf (.rekeyStep [{ pos := 0, d := 0, data := some [1] }]) = false := by decide
theorem test_wf_run : Instr.wf (.discrepancyRunEnd .lid 0 (⟨false, true⟩, ⟨false, false⟩)) = false := by decide
theorem test_wf_coolDown : Instr.wf (.coolDownExpiry 4096) = false := by decide
def okWin : WindowSample :=
  { cycles := 3118750, coreMin := 7275, coreMax := 7725, ioMin := 17100, ioMax := 18900, memMin := 9975, memMax := 11025,
    vinMin := 4400, vinMax := 24000, tjMin := -5, tjMax := 105 }
theorem test_wf_sample : Instr.wf (.windowsClose okWin) = true ∧ Instr.wf (.windowsClose { okWin with coreMin := 7726 }) = false := by
  decide

/-! ## Witnesses: for each statement, states and operands that meet the hypotheses of each of its clauses, in their order -/

theorem witness_StagesOfStartFollowOneAnother :
    (let s := { State.reset with start := { StartSt.init with takedown := true } }
     s.mode.mode = .start ∧ s.start.takedown = true ∧ (∀ m, (s.slot m).rail = false ∧ (s.slot m).pd = none) ∧ s.jnl.inflight = []) ∧
    (inStage (startAt .s1) .s1 = true ∧ windowOk (startAt .s1) okWin = true) ∧
    (windowOk (startAt .s1) { okWin with cycles := 3118749 } = false ∧ windowOk (startAt .s1) { okWin with tjMax := 106 } = false) ∧
    (inStage (startAt .s2) .s2 = true ∧ (startAt .s2).start.failedUmber = false ∧ (startAt .s2).start.failedPortA = false ∧
      ∀ id ∈ logicIds, sigFails (startAt .s2).fuse id 0 = false) ∧
    (let fs : List MemFault := [{ id := 0x16, way := 3, rows := [7], cols := [], lost := [] }]
     inStage (startAt .s3) .s3 = true ∧ (startAt .s3).start.failedUmber = false ∧ (startAt .s3).start.failedPortA = false ∧
      (mergeFaults fs).filter (failing (startAt .s3)) ≠ [] ∧
      ∀ f ∈ (mergeFaults fs).filter (failing (startAt .s3)), covered (startAt .s3) f = true ∧ f.id ≠ 0x17) ∧
    (inStage (startAt .s5) .s5 = true ∧ (startAt .s5).start.s5 = false ∧ (List.range 256).eraseDups.length ≤ 256) := by
  and_intros <;> decide +kernel

/-- An image of no bytes with its AES-CMAC under the reset FWK. -/
def img : FwImage := { version := 1, cmac := BitVec.ofNat 128 (leNat (cmac (fwk State.reset.fuse) [])), data := [] }
def booting : State := { startAt .s4 with fw := { a := some img, b := none, active := .a, booted := .a } }
/-- The image is older than the rollback counter. -/
def rolledBack (s : State) : State := { s with root := Memory.write s.root 0x10 (leBytes 4 2) }
theorem leBytes_leNat (bs : Bytes) : leBytes bs.length (leNat bs) = bs := by
  induction bs with
  | nil => rfl
  | cons b bs ih =>
    have h1 : BitVec.ofNat 8 (b.toNat + 256 * leNat bs) = b := by
      apply BitVec.eq_of_toNat_eq; simp [Nat.add_mul_mod_self_left]; omega
    have h2 : (b.toNat + 256 * leNat bs) / 256 = leNat bs := by have := b.isLt; omega
    simp [leBytes, leNat, h1, h2, ih]

theorem leNat_lt (bs : Bytes) : leNat bs < 2 ^ (8 * bs.length) := by
  induction bs with
  | nil => decide
  | cons b bs ih =>
    have := b.isLt
    simp only [leNat, List.length_cons, Nat.mul_add, Nat.pow_add]
    omega

theorem leBytes_ofNat (bs : Bytes) (h : bs.length = 16) : bs = leBytes 16 (BitVec.ofNat 128 (leNat bs)).toNat := by
  have h2 := leNat_lt bs
  rw [h] at h2
  rw [BitVec.toNat_ofNat, Nat.mod_eq_of_lt h2, ← h, leBytes_leNat]

/-- The image's CMAC as the boot ROM computes it. -/
theorem img_cmac : cmac (fwk State.reset.fuse) [] = leBytes 16 img.cmac.toNat :=
  leBytes_ofNat _ (Laws.cmac_length _ _ (Laws.kdf_length _ _ _ (Laws.kdf_length _ _ _ (by decide))))

/-- What a complex meets in S4: what it reads of slot A, and its digests. -/
def trial (x : Option Bytes) (c d : W32) : BootTrial := { readA := x, readB := none, digest1 := c, digest2 := d }

theorem witness_SecureBootMakesTheHolder :
    inStage booting .s4 = true ∧ testMonitor booting = false ∧ booting.start.failedUmber = false ∧
    booting.start.failedSlate = false ∧ bootSlot (rolledBack booting) (trial none 3 4) = none ∧
    (trial none 3 4).digest1 ≠ (trial none 5 6).digest1 ∧ (trial none 3 4).digest2 ≠ (trial none 5 6).digest2 ∧
    (inStage (rolledBack booting) .s4 = true ∧ testMonitor (rolledBack booting) = false ∧
      (rolledBack booting).start.failedUmber = false ∧ (rolledBack booting).start.failedSlate = false) ∧
    (inStage (startAt .s4) .s4 = true ∧ testMonitor (startAt .s4) = true ∧ (startAt .s4).start.failedUmber = false ∧
      (startAt .s4).start.failedSlate = false) := by and_intros <;> decide +kernel

theorem witness_SecureBootMakesTheHolder_boots : bootSlot booting (trial none 3 4) = some .a := by
  have h : trialVerdict booting (trial none 3 4) .a = Status.success := by
    have r : ¬ img.version.toNat < rollback booting := by decide +kernel
    show (if img.version.toNat < rollback booting then Status.imageRollback
      else if cmac (fwk State.reset.fuse) [] ≠ leBytes 16 img.cmac.toNat then Status.imageAuth else Status.success) = _
    rw [if_neg r, if_neg fun h => h img_cmac]
  rw [bootSlot, show booting.fw.active = .a from rfl, if_pos h]

def twin : CxSt := { CxSt.init with umber := .twin, slate := .twin, holder := some .umber, expiry := 1000 }
def inStart (st : Stage) (ph : Phase) : State := { phaseOf (startAt st) ph with cx := twin }

theorem witness_StartEndsInItsReleaseTransition :
    (runsS6 (inStart .s6 .intake) = true ∧ (inStart .s6 .intake).mode.plan = none ∧ (inStart .s6 .intake).start.halt = false ∧
      (inStart .s6 .intake).cx.holder.isSome = true ∧ bringupsDone (inStart .s6 .intake) = true) ∧
    (inStage (inStart .s7 .intake) .s7 = true ∧ (inStart .s7 .intake).start.redo = false ∧
      (replay (inStart .s7 .intake) { altered := true, bad := [], media := [] }).isNone = true) ∧
    (let s := inStart .s7 .intake
     let s := { s with start := { s.start with redo := true } }
     inStage s .s7 = true ∧ s.start.redo = true ∧ redoing s = false) ∧
    (inStage (inStart .s8 .plan) .s8 = true ∧ (inStart .s8 .plan).clock.phase = .plan ∧ (inStart .s8 .plan).cx.holder.isSome = true ∧
      anyPlanning (inStart .s8 .plan).cx = true ∧ rekeyFinishing (inStart .s8 .plan) = false ∧
      openLifecycle (inStart .s8 .plan) = true ∧ openLifecycle (grey (inStart .s8 .plan)) = false) ∧
    (inStage (startAt .s2) .s2 = true ∧ (startAt .s2).start.failedPortA = false ∧ (startAt .s2).start.failedUmber = false ∧
      (startAt .s2).start.parityOut0 = false ∧ (startAt .s2).start.parityOut1 = false) ∧
    (blocksFail (startAt .s7) Status.stageTimeout [0x0D]).2 = true := by
  and_intros <;> decide +kernel

/-- S7 over a journal of these records, whose root the root store holds for commit 1. -/
def journalOf (rs : List IntentRec) : State :=
  let s := inStart .s7 .intake
  { s with
    array := on.array, seq := on.seq, slots := on.slots,
    root := Memory.write [] 0x50 (leBytes 8 1 ++ [0x68, 0xFE, 0xBA, 0x75, 0x7A, 0xFF, 0x07]),
    jnl := { s.jnl with mem := ((ctlA, ctlBytes 1 1 0) :: rs.flatMap intentWrites).foldl (fun m w => Memory.write m w.1 w.2) [] } }
def rowRec : IntentRec := { IntentRec.base .row with seq := 2, count := 1, at_ := 1000 }
/-- A WRITE of one block of row 1000, which lies in slot 0. -/
def heldRec : IntentRec := { IntentRec.base .write with seq := 1, vol := 1, count := 1 }

/-- The root of a journal whose counters are all 0, for commit 1. -/
def rootHere : Bytes := [0x68, 0xFE, 0xBA, 0x75, 0x7A, 0xFF, 0x07]
theorem journalRoot_here : journalRoot State.reset.fuse State.reset.jnl.rootCtr.toList 1 = rootHere := by decide +kernel
theorem topRoot_here (s : State) (h : s.root = (journalOf []).root) :
    topRoot s none = (1, rootHere) ∧ topRoot s (some 1) = (0, []) := by
  have e : rootEntry s = rootEntry (journalOf []) := by funext i; simp only [rootEntry, h]
  simp only [topRoot, e]
  decide +kernel
theorem accepted_journalOf (rs : List IntentRec) : acceptedCommit (journalOf rs) = some 1 := by
  have ⟨h1, h2⟩ := topRoot_here (journalOf rs) rfl
  simp only [acceptedCommit, h1, h2, rootEquals, show (journalOf rs).fuse = State.reset.fuse from rfl,
    show (journalOf rs).jnl.rootCtr = State.reset.jnl.rootCtr from rfl, journalRoot_here]
  decide

theorem witness_StartEndsInItsReleaseTransition_replay :
    (∀ rs ∈ [[], [heldRec, rowRec]], inStage (journalOf rs) .s7 = true ∧ (journalOf rs).start.redo = false) ∧
    (replay (journalOf []) { altered := false, bad := [], media := [] }).map redoing = some false ∧
    (replay (journalOf [heldRec, rowRec]) { altered := false, bad := [], media := [] }).map redoing = some true := by
  refine ⟨by decide +kernel, ?_, ?_⟩ <;> (rw [replay, accepted_journalOf]; decide +kernel)

def prepOf (s : State) (a : PrivAct) (frame : Nat) : Priv :=
  { act := a, frame := frame, epoch := s.cx.epoch, cx := s.cx.holder, orphan := false }
def withPrivs (s : State) (as : List Priv) : State := { s with gate := { s.gate with priv := as } }
def withPriv (s : State) (a : PrivAct) : State := withPrivs s [prepOf s a 99]
def shares : State := withPriv (mgmt due (at_ (took (entry 0x28 0 [0x466])) .exec)) (.shares f0 0x466)

theorem witness_PrivilegedActionIsCarriedOutOnce :
    (shares.gate.priv = [prepOf shares (.shares f0 0x466) 99] ∧ ExecDue shares (prepOf shares (.shares f0 0x466) 99) ∧
      gateOpen shares = true ∧ shares.clock.cancelled = false) ∧
    (∀ a ∈ [PrivAct.split f0 0x224, .identity f0 1, .hlthCfg 0x20],
      ExecDue (withPriv shares a) (prepOf shares a 99) ∧ gateOpen (withPriv shares a) = true) ∧
    gateOpen { due with cx := { due.cx with expiry := 99 } } = false ∧
    (let s := withPrivs due [prepOf due (.hlthCfg 0x20) 99, prepOf due (.hlthCfg 0x30) 98]
     ∀ a ∈ s.gate.priv, ExecDue s a ∧ a.epoch = s.cx.epoch ∧ a.cx = s.cx.holder) ∧
    (let s := withPrivs due [prepOf due (.hlthCfg 0x20) 99, prepOf due (.hlthCfg 0x30) 100]
     (∀ b ∈ s.gate.priv.tail, s.clock.frame ≤ b.frame) ∧ ExecDue s (prepOf due (.hlthCfg 0x20) 99)) ∧
    ({ prepOf due (.hlthCfg 0x20) 99 with epoch := 0 }.epoch ≠ due.cx.epoch) ∧
    (∀ a ∈ (withPrivs due [prepOf due (.hlthCfg 0x20) 100]).gate.priv, due.clock.frame ≤ a.frame) := by
  and_intros <;> decide +kernel

def idle : State :=
  { phaseOf on .intake with portA := { host with l12 := true, vote := true }, portB := { host with l12 := true, vote := true } }
def idleLong : State :=
  { idle with clock := { idle.clock with frame := 302400 }, mode := { idle.mode with idleSince := some 200000 } }

theorem witness_TransitionsTakeEffectAsPlanned :
    (planReady (withPlan due .locked .lock) (planFor .locked .lock) = true ∧
      planReady (withPlan due .lockdown .plain) (planFor .lockdown .plain) = true ∧
      planReady (withPlan on .locked .lock) (planFor .locked .lock) = false ∧
      retarget (withPlan due .locked .lock) (planFor .locked .lock) = some (planFor .locked .lock) ∧
      (planFor .online .unlock).kind = .unlock ∧ due.mode.cond ≠ .none ∧
      (let s := withPlan { due with mode := { due.mode with cond := .none } } .online .unlock
       planReady s (planFor .online .unlock) = true ∧ retarget s (planFor .online .unlock) = none)) ∧
    (let s := { due with mode := { due.mode with keyClear := [1] } }
     s.clock.phase = .commit ∧ s.mode.keyClear.contains 1 = true ∧ volumeBusy s 1 = false ∧ volOf s 1 = some (vol false 1000 4096 1)) ∧
    (drowseReady idle = true ∧ idle.mode.plan = none ∧ (idle.port .a).vote = true ∧ (idle.port .b).vote = true) ∧
    (drowseReady idleLong = true ∧ idleLong.mode.idleSince = some 200000 ∧
      200000 + 1024 * idleLong.mode.drowseIdle.toNat ≤ idleLong.clock.frame) := by decide +kernel

theorem witness_TokenPassesByResignationClaimAndHandover :
    (on.cx.umber = .twin ∧ on.cx.slate = .twin) ∧
    (let s := { due with cx := { due.cx with holder := none, vacant := 100 } }
     s.clock.phase = .commit ∧ plans (s.cx.of .slate) = true ∧ s.cx.holder = none ∧ s.cx.vacant ≤ s.clock.frame ∧
      claimYields s.cx .slate = false ∧ claimYields s.cx .umber = true) ∧
    (let s := { phaseOf on .intake with cx := { on.cx with expiry := 99 } }
     s.clock.phase = .intake ∧ s.cx.holder.isSome = true ∧ s.cx.expiry < s.clock.frame) ∧
    (let s := { on with cx := { on.cx with holder := some .slate } }
     s.clock.phase = .plan ∧ s.cx.of s.cx.pref = .twin ∧ s.cx.holder = some (otherCx s.cx.pref) ∧ handingOver s = false ∧
      s.cx.susp = none) ∧
    (let s := withPriv due .handover
     s.cx.holder = some .umber ∧ s.cx.of (otherCx .umber) = .twin ∧ s.mode.plan = none ∧ gateOpen s = true ∧
      s.clock.cancelled = false ∧ 99 < s.clock.frame ∧ s.gate.priv = [prepOf s .handover 99]) := by decide +kernel

theorem witness_DivergenceIsSettledByTheSelfCheck :
    (let s := phaseOf on .dispatch
     s.clock.phase = .dispatch ∧ s.cx.umber = .twin ∧ s.cx.slate = .twin ∧ s.cx.susp = none ∧ s.test = none ∧
      (let g : GateView := { umber := true, slate := true, agree := true, inputsAgree := true, words := [], twinWords := [(1, 2)] }
       (g.agree && recordOk g) = false)) ∧
    (let s := { due with cx := { due.cx with susp := some 100 } }
     s.cx.susp = some 100 ∧ 100 ≤ s.clock.frame ∧ s.clock.phase = .commit ∧ s.cx.umber = .twin ∧
      s.cx.slate = .twin ∧ s.cx.holder = some s.cx.last ∧ s.test = none) := by
  decide +kernel

def solo (c : CxState) (copied : Bool) : State :=
  { on with cx := { on.cx with umber := .sole, slate := c, copied := copied, clean := 1024 } }

/-- The reloading complex finds the image of no bytes in slot A. -/
def reloading : State := { solo .reload false with fw := booting.fw }

theorem witness_RecoveryGoesThroughCopyAndProbation_image :
    slotVerdict reloading reloading.fw.active none = Status.success ∧ imageOf reloading.fw reloading.fw.active = some img := by
  refine ⟨?_, rfl⟩
  have r : ¬ img.version.toNat < rollback reloading := by decide +kernel
  show (if img.version.toNat < rollback reloading then Status.imageRollback
    else if cmac (fwk State.reset.fuse) [] ≠ leBytes 16 img.cmac.toNat then Status.imageAuth else Status.success) = _
  rw [if_neg r, if_neg fun h => h img_cmac]

theorem witness_RecoveryGoesThroughCopyAndProbation :
    ((solo .reload false).cx.of .slate = .reload ∧ (solo .reload false).mode.mode ≠ .start ∧
      anyPlanning (solo .reload false).cx = true ∧ reloading.cx.of .slate = .reload ∧ reloading.mode.mode ≠ .start ∧
      anyPlanning reloading.cx = true ∧ reloadTakes (solo .reload false) false = false) ∧
    ((solo .copy false).cx.of .slate = .copy ∧ (solo .copy false).cx.copied = false ∧ (solo .copy true).cx.copied = true ∧
      (solo .copy false).cx.copyAt < stateWords ∧ (solo .copy false).cx.holder.isSome = true ∧
      (let s := solo .copy false
       stateWords ≤ { s.cx with copyAt := 32768 }.copyAt ∧ anyPlanning s.cx = true)) ∧
    ((phaseOf (solo .copy true) .commit).clock.phase = .commit ∧ (solo .copy true).cx.of .slate = .copy ∧
      anyPlanning (solo .copy true).cx = true) ∧
    (let s := phaseOf (solo .probation true) .commit
     s.cx.of .slate = .probation ∧ 1024 ≤ s.cx.clean ∧ s.clock.phase = .commit) := by and_intros <;> decide +kernel

theorem witness_FramesFollowOneAnotherUpToTheLimit :
    (due.clock.phase = .commit ∧ frameRuns due = true) ∧
    ((phaseOf on .intake).clock.phase = .intake ∧ on.clock.phase = .plan ∧ (phaseOf on .dispatch).clock.phase = .dispatch ∧
      anyPlanning on.cx = true ∧ on.gate.tags.length < 256 ∧ (Order.reg .a 0 0).counted = false ∧ (Order.act f0 .invalidate).counted = true) ∧
    (let s := { on with clock := { on.clock with frame := 0xFFFFFFFFF } }
     0xFF0000000 ≤ s.clock.frame ∧ 0xFFFF00000 ≤ s.clock.frame ∧ 0xFFFFFFFFF ≤ s.clock.frame ∧ s.cx.flim = false ∧ s.cx.fstop = false) := by
  decide +kernel

def service : State := modeOf on .service
def greyService : State := grey service
def noRings : PortSt := { host with rings := host.rings.set 0 Ring.init }

theorem witness_RegisterWriteIsAnOrderOfItsFrame :
    (regOpen on .b 0x0110 = true ∧ field (0x5A01 : W32) 8 8 = 0x5A ∧ field (0x5B01 : W32) 8 8 ≠ 0x5A) ∧
    (regOpen service .b 0x0114 = true ∧ regOpen service .b 0x0118 = true ∧ cfgOpen service = true ∧
      service.mode.mode ≠ .start ∧ regOpen { startAt .s8 with portA := host } .a 0x0114 = true ∧ regOpen on .b 0x0118 = true ∧ cfgOpen on = false) ∧
    (regOpen service .b 0x012C = true ∧ stgLimitOk service 0x00C000A0 = true ∧ stgLimitOk service 0x00C100A0 = false) ∧
    (regOpen on .a 0x000C = true ∧ field (8 : W32) 0 8 = 8 ∧ field (128 : W32) 0 8 = 128) ∧
    (regOpen on .a 0x0020 = true ∧ field (1 : W32) 0 8 = 1 ∧ field (0 : W32) 0 8 = 0) ∧
    (regOpen on .a 0x2000 = true ∧ regOpen on .a 0x2004 = true ∧ regOpen on .a (0x2040 + 4 * 31) = true ∧
      regOpen on .a (0x3000 + 16 * 31 + 8) = true) ∧
    (regOpen service .a (0x5010 + 4 * 5) = true ∧ regOpen on .a 0x102C = true) ∧
    (regOpen on .a 0x1028 = true ∧ evEnabled (on.port .a) = false ∧ field (0x10 : W32) 1 4 = 8) ∧
    (regOpen on .a 0x1108 = true ∧ (on.ring .a 0).cfg.getLsbD 0 = true ∧ (noRings.ring 0).cfg.getLsbD 0 = false) ∧
    (regOpen on .a (0x3000 + 16 * 31) = true ∧ regOpen on .a (0x3000 + 16 * 31 + 12) = true ∧ configOpen on .a = true) ∧
    regOpen on .a 0x1014 = true ∧ regOpen State.reset .a 0x1014 = false := by decide +kernel

theorem witness_GuardedRegistersActUnderTheirGuards :
    (regOpen greyService .a 0x6010 = true ∧ regOpen greyService .a 0x6014 = true ∧ regOpen greyService .a 0x6018 = true ∧
      greyService.mode.mode = .service ∧ lifecycle greyService.fuse = .grey ∧ lidCfgOk 4 = true ∧ lidCfgOk 250 = true ∧
      confCfgOk 0x010014 = true ∧ confCfgOk 0xFF01F4 = true) ∧
    (on.mode.mode ≠ .service ∧ lifecycle service.fuse ≠ .grey ∧ regOpen on .a 0x6010 = true ∧ regOpen on .a 0x6014 = true ∧
      regOpen on .a 0x6018 = true) ∧
    (let s := { on with portA := { host with cstate := .hold } }
     regOpen s .a 0x0008 = true ∧ field (0x1A55A : W32) 0 16 = 0xA55A ∧ (0x1A55A : W32).getLsbD 16 = true ∧ relOk s .a = true ∧
      intakePast { s with clock := { s.clock with phase := .intake } } = false ∧ intakePast s = true) ∧
    (field (0x1A55B : W32) 0 16 ≠ 0xA55A) ∧
    (regOpen on .a 0x5040 = true ∧ field (0x9601 : W32) 8 8 = 0x96 ∧ (0x9601 : W32).getLsbD 0 = true) ∧
    (regOpen service .a 0x700C = true ∧ cfgOpen service = true ∧ field (8 : W32) 0 8 = 8 ∧ field (7 : W32) 0 8 = 7) ∧
    (linkLive on .a = true ∧ barAccepts 2 1 true = false ∧ barAccepts 0 2 true = false) := by decide +kernel

/-- Both sides of the mode check of RegisterTakesItsValueAtTheCommitPoint's clauses. -/
theorem witness_RegisterTakesItsValueAtTheCommitPoint :
    on.supply.strap = true ∧ (1 : W32).getLsbD 0 = true ∧ Port.b ≠ .a ∧ (0x0110 : Nat) < 0x6000 := by decide +kernel

def ring1 (s : State) (x : RState) : State :=
  s.modRing .a 1 fun q => { q with state := x, errIndex := 0, taken := [at_ (took (ioEntry 1 1 0)) .finished] }

theorem witness_RingOperationsFollowTheRingState :
    regOpen (ring1 on .frozen) .a (qctlOff 1) = true ∧ field (0xC301 : W32) 8 8 = 0xC3 ∧ field (0xC301 : W32) 0 2 = 1 ∧
    field (0xC302 : W32) 0 2 = 2 ∧ field (0xC303 : W32) 0 2 = 3 ∧ ((ring1 on .frozen).ring .a 1).state = .frozen ∧
    (on.ring .a 1).state = .run ∧ ((ring1 on .frozen).ring .a 1).taken ≠ [] := by decide +kernel

/-- An entry of phase 1 with a correct check byte (05 R134, R137). -/
def sound : Entry := { dw := [1, 1, 0, 0, 0, 0, 0, 0, 0, 0, 0, 0, 0, 0, 0, 0xA5000000] }
def taking : State := phaseOf on .intake
/-- Every ring but the last has eight known entries: no prefetch room is left. -/
def crowded : State :=
  { taking with
    portA := { host with
      rings := Vector.ofFn fun (i : Fin 64) =>
        if i.val = 63 then running else { running with known := List.replicate 8 { e := sound, bad := false, aborted := false } } } }
def polled : State := taking.modRing .a 1 fun x => { x with polling := some (2, 99) }

theorem witness_PollsMakeEntriesKnown :
    (taking.clock.phase = .intake ∧ pollDue taking .a 1 = true ∧ pollWidth taking .a 1 ≠ 0) ∧
    (pollDue crowded .a 63 = true ∧ pollWidth crowded .a 63 = 0) ∧ pollDue taking .a 5 = false ∧
    ((polled.ring .a 1).polling = some (2, 99) ∧ observes polled = true ∧ 99 < obsFrame polled ∧
      readsWait (polled.port .a) (.poll 1) = false ∧ (polled.ring .a 1).state = .run ∧
      (refetchAt (polled.ring .a 1).taken (polled.ring .a 1).passed).isNone = true ∧
      goodRun (Ring.depth (polled.ring .a 1)) (Ring.fetchAt (polled.ring .a 1)) [sound] = ([sound], false) ∧
      goodRun (Ring.depth (polled.ring .a 1)) (Ring.fetchAt (polled.ring .a 1)) [entry 0 0 []] = ([], false)) ∧
    (let bad : Entry := { dw := [1, 1, 0, 0, 0, 0, 0, 0, 0, 0, 0, 0, 0, 0, 0, 0xA4000000] }
     goodRun (Ring.depth (polled.ring .a 1)) (Ring.fetchAt (polled.ring .a 1)) [bad] = ([], true) ∧
      (polled.ring .a 1).badCheck ≠ some (Ring.fetchAt (polled.ring .a 1))) ∧
    ((polled.ring .a 1).poisonOnce = false ∧
      ((polled.modRing .a 1 fun x => { x with poisonOnce := true }).ring .a 1).poisonOnce = true ∧
      ((polled.modRing .a 1 fun x => { x with state := .frozen }).ring .a 1).state ≠ .run ∧
      (taking.ring .a 1).polling = none ∧
      strayPoll { host with reads := [{ owner := .poll 1, addr := 0, len := 64, tag := some 0 }] } 1 = true) ∧
    (observes crowded = true ∧ 3 < (crowded.ring .a 1).known.length) := by and_intros <;> decide +kernel

/-- 05 R144: a parity error on the fourth known entry leaves the three before it. -/
theorem test_prefetch_parity :
    ((after (exec (.portError .a (.prefetchParity 1 3) [0, 0, 0, 0]) crowded)).ring .a 1).known.length = 3 := by decide +kernel

def drowsing : State :=
  { phaseOf on .intake with
    clock := { on.clock with frame := 4096, phase := .intake },
    mode := { on.mode with mode := .drowse, drowseFrom := .online, drowseFrame := 2048 } }

theorem witness_DrowsePollWakesAndResetEmptiesTheRing :
    (drowsePollDue drowsing .a 1 = true ∧ drowsing.mode.plan = none ∧
      (goodRun (Ring.depth (drowsing.ring .a 1)) (Ring.fetchAt (drowsing.ring .a 1)) [sound]).1 = [sound] ∧
      Ring.held (drowsing.ring .a 1) < 8 ∧
      Ring.fetchAt (drowsing.ring .a 1) - (drowsing.ring .a 1).passed < Ring.depth (drowsing.ring .a 1)) ∧
    (let s := due.modRing .a 1 fun x => { x with state := .resetting }
     s.clock.phase = .commit ∧ resetReady (s.ring .a 1) s.clock.frame = true ∧ (s.ring .a 1).deleting = false) ∧
    (let s := due.modRing .a 1 fun x => { x with state := .resetting, deleting := true }
     resetReady (s.ring .a 1) s.clock.frame = true ∧ (s.ring .a 1).deleting = true) := by decide +kernel

def one : Volume := vol false 1000 4096 1
def itemAt (pos : PosN) (b : Byte) : Item :=
  { vol := 1, lbn := 0, pos := pos, d := 4000, data := some [b], lost := false, solved := false }
def readK : Taken := at_ { took (ioEntry 1 1 0) with items := [itemAt 2 0] } .reads
def readS : State := withEntry on 1 readK
def missK : Taken := took (ioEntry 1 1 5)
def missS : State := withEntry on 1 missK

/-- What the first item of this block brought, and whether a solve made it. -/
def brings (s : State) (k : Taken) (v : VolN) (lbn : Nat) : Option (Option Bytes × Bool) :=
  let q := blockPlace s v lbn
  (k.items.find? fun y => some y.pos == rolePos s q.row (.data q.j) && y.d == areaBlock s q.row q.b && y.data.isSome).map
    fun it => (it.data, it.solved)

theorem brought_of_brings {s k v lbn bs fresh} (h : newestRec s v lbn = none) (h' : brings s k v lbn = some (some bs, !fresh)) :
    Brought s k v lbn bs fresh := by
  refine ⟨h, ?_⟩
  simp only [brings, Option.map_eq_some_iff, Prod.mk.injEq] at h'
  exact h'

theorem witness_ReadsGatherAndDecryptTheirBlocks :
    (IoReady readS f1 1 readK one ∧ one.isSealed = false ∧ earlierWrite readS 1 0 1 readK.ord = false ∧ Entry.nblk readK.head = 1 ∧
      newestRec readS 1 0 = none ∧ brings readS readK 1 0 = some (some [0], !true) ∧ blockKeys readS 1 0 = some keys) ∧
    (IoReady missS f1 1 missK one ∧ Entry.nblk missK.head = 1 ∧ earlierWrite missS 1 5 1 missK.ord = false ∧
      newestRec missS 1 5 = none ∧ missK.items = [] ∧ blockKeys missS 1 5 = some keys ∧
      rolePos missS (blockPlace missS 1 5).row (.data (blockPlace missS 1 5).j) = some 0 ∧
      heldBlock missS 0 (areaBlock missS (blockPlace missS 1 5).row (blockPlace missS 1 5).b) = none ∧
      posOut missS 0 (blockPlace missS 1 5).row (blockPlace missS 1 5).b = false ∧
      blockLost missS (blockPlace missS 1 5).row 0 (blockPlace missS 1 5).b = false ∧ slotOf missS 0 = some 0) ∧
    (let o : MOrder := { id := 5, slot := 0, cmd := .read 64 1, owner := .item f1 0, retried := false, held := false, sent := none }
     let s := { on with morders := [o] }
     o ∈ s.morders ∧ slotHolds s o.slot = false ∧
      (s.morders.filter fun q => q.sent.isNone && !q.held && !slotHolds s q.slot).length ≤ orderRoom s.gate) := by
  and_intros <;> decide +kernel

/-- An entry of opcode `op` whose data is in staging. -/
def staged (op : Nat) : State := withEntry on 1 (at_ (took (ioEntry op 1 0)) (.engine 1))
/-- A WRITE of LBNs 5 to 8 has its blocks in the journal, and a READ asks for block 5. -/
def slotS : State :=
  { missS with jnl := { missS.jnl with recs := [{ IntentRec.base .write with seq := 1, vol := 1, count := 4, at_ := 5, durable := true }],
                                       nextSeq := 2, wcUsed := 4, wcHead := 4 } }

theorem witness_ReadsGatherAndDecryptTheirBlocks_errors :
    (∀ op ∈ [1, 2, 3], ∃ k ∈ (staged op).taken? f1, k.stage = .engine 1 ∧ Entry.opcode k.head = op) ∧
    (IoReady slotS f1 1 missK one ∧ earlierWrite slotS 1 5 1 missK.ord = false ∧
      (newestRec slotS 1 5).map (·.type) = some .write ∧ slotS.jnl.lost = [] ∧
      (∀ e ∈ (slotS.ring .a 1).taken, e.i = 0 → e = missK) ∧
      rolePos slotS (blockPlace slotS 1 5).row (.data (blockPlace slotS 1 5).j) = some 0) ∧
    (IoReady missS f1 1 missK one ∧ missS.array = some arr ∧ missS.seq.active = some false) := by decide +kernel

/-- Block 0 of the sealed volume 0 stands at counter `ctr` in the tag log; `sk op` reads it and has been brought 5. -/
def sealedVol : Volume := vol true 0 4096 0
def tagAt (ctr : Nat) (tag : Bytes) : TagEnt := { line := 0, seq := 1, vol := 0, lbn := 0, ctr := ctr, tag := tag, frame := 90 }
def sk (op : Nat) (pos : PosN) (d : Nat) (solved : Bool) : Taken :=
  at_ { took (ioEntry op 0 0) with items := [{ vol := 0, lbn := 0, pos := pos, d := d, data := some [5], lost := false, solved := solved }] }
    .reads
def sealedS (op ctr : Nat) (tag : Bytes) (solved : Bool) : State :=
  { withEntry on 1 (sk op 0 0 solved) with tags := { on.tags with tagLog := [tagAt ctr tag] } }
def staleS (op : Nat) : State :=
  { withEntry on 1 (sk op 0 0 false) with
    array := some { arr with vtab := arr.vtab.set 0 { sealedVol with stale := true } } }

theorem witness_ReadsGatherAndDecryptTheirBlocks_sealed :
    (∀ solved, IoReady (sealedS 1 1 [] solved) f1 1 (sk 1 0 0 solved) sealedVol ∧ tagEntry (sealedS 1 1 [] solved) 0 0 = some (tagAt 1 []) ∧
      earlierWrite (sealedS 1 1 [] solved) 0 0 1 0 = false ∧ blockKeys (sealedS 1 1 [] solved) 0 0 = some keys ∧
      newestRec (sealedS 1 1 [] solved) 0 0 = none ∧ brings (sealedS 1 1 [] solved) (sk 1 0 0 solved) 0 0 = some (some [5], solved) ∧
      (∃ y ∈ (sk 1 0 0 solved).items, y.vol = Entry.vol (sk 1 0 0 solved).head ∧ y.lbn = Entry.lbn (sk 1 0 0 solved).head)) ∧
    (∀ op ∈ [1, 2, 3, 5, 6], IoVisit (staleS op) f1 op (sk op 0 0 false) { sealedVol with stale := true }) ∧
    (partOf (sk 5 0 0 false) sealedVol).1 = 0 := by and_intros <;> decide +kernel

theorem witness_ReadsGatherAndDecryptTheirBlocks_tag (lbn ctr : Nat) (bs : Bytes) : blockTag keys lbn ctr bs ≠ [] := by
  intro h
  have := congrArg List.length h
  rw [blockTag, List.length_take, Laws.cmac_length _ _ (by simp [keys])] at this
  simp at this

def writeK (op : Nat) : Taken := took (ioEntry op 1 7)
def dataK : Taken := { writeK 2 with stage := .hostData, issued := some 99 }
def paramK : Taken := { took (entry 0x22 0 []) with stage := .param, issued := some 99 }

theorem witness_WritesTakeTheirDataFromTheHost_sealed :
    (∀ op ∈ [2, 3, 5], IoReady (sealedS op 1 [] false) f1 op (sk op 0 0 false) sealedVol) ∧
    (∀ op ∈ [2, 3], (partOf (sk op 0 0 false) sealedVol) = (0, 1)) ∧ partOf { sk 5 0 0 false with entries := [{ dw := [5, 0, 0, 0, 0, 0, 1] }] } sealedVol = (0, 1) ∧
    (tagEntry (sealedS 2 1 [] false) 0 0).isSome = true := by decide +kernel

theorem witness_WritesTakeTheirDataFromTheHost :
    IoReady (withEntry on 1 (writeK 2)) f1 2 (writeK 2) one ∧ IoReady (withEntry on 1 (writeK 3)) f1 3 (writeK 3) one ∧
    (let s := withEntry due 1 dataK
     s.taken? f1 = some dataK ∧ readBegun s dataK = true ∧ (s.port .a).cstate = .run ∧ dataK.stage = .hostData ∧
      readsWait (s.port .a) (.entry f1) = false) ∧
    (let s := mgmt due paramK
     s.taken? f0 = some paramK ∧ readBegun s paramK = true ∧ paramK.stage = .param ∧ readsWait (s.port .a) (.entry f0) = false) ∧
    (let s := (withEntry due 1 dataK).modPort .a fun q => { q with reads := [{ owner := .entry f1, addr := 0, len := 512, tag := none }] }
     s.taken? f1 = some dataK ∧ readBegun s dataK = true ∧ readsWait (s.port .a) (.entry f1) = true) := by
  and_intros <;> decide +kernel

def dropK : Taken := took { dw := [5, 1, 0, 0, 8, 0, 16, 0, 0, 0, 0, 0, 0, 0, 0, 0] }
def dropS : State := withEntry on 1 dropK
def fullJnl : JnlSt := { JnlSt.init with nextSeq := 24577 }
def commit (o : JOwner) : JCommit := { writes := [(0x100, zeros 64)], owner := o, frame := 99 }
def flying (o : JOwner) : State := { due with jnl := { JnlSt.init with inflight := [commit o, commit .none] } }

theorem witness_JournalTakesRecordsAndLandsCommits :
    (IoReady dropS f1 5 dropK one ∧ writeRoom dropS 0 0 = true ∧ roomAhead dropS f1 dropK.ord = false) ∧
    (writeRoom { dropS with jnl := fullJnl } 0 0 = false) ∧
    (let s := withEntry on 1 (at_ dropK .room)
     s.taken? f1 = some (at_ dropK .room) ∧ heldByRekey s (at_ dropK .room) = false ∧ anyPlanning s.cx = true) ∧
    (∀ op ∈ [2, 3], let s := withEntry on 1 (at_ (writeK op) (.engine 0))
     s.taken? f1 = some (at_ (writeK op) (.engine 0)) ∧ volOf s 1 = some one ∧ writeRoom s 1 0 = true ∧
      roomAhead s f1 0 = false ∧ ioCount (writeK op).head = 1 ∧ blockKeys s 1 7 = some keys) ∧
    ((flying .none).jnl.inflight = [commit .none, commit .none] ∧ (commit .none).owner = .none ∧
      (commit .none).answered (flying .none) = true) ∧
    (let s := withEntry (flying (.entry f1)) 1 (at_ (writeK 3) .journal)
     s.jnl.inflight = [commit (.entry f1), commit .none] ∧ s.taken? f1 = some (at_ (writeK 3) .journal) ∧
      Entry.opcode (writeK 3).head = 3 ∧ isIoOp (Entry.opcode (writeK 3).head) = true ∧ s.jnl.recs = []) := by
  and_intros <;> decide +kernel

def rec1 : IntentRec :=
  { seq := 1, type := .dealloc, vol := 1, isSealed := false, through := false, count := 4, at_ := 0, slot := 0, b0 := 0,
    positions := 0, dirty := 0, frame := 90, port := some .a, durable := true, done := [] }
def withRec (s : State) : State := { s with jnl := { s.jnl with recs := [rec1], nextSeq := 2 } }
def flushK : Taken := { took (ioEntry 4 1 0) with ord := 9 }

theorem witness_FlushWaitsForTheRecordsItCovers :
    let covered := fun s : State => (s.jnl.recs.filter fun q => q.names && flushK.vols.contains q.vol &&
      !(laterSeqs s flushK.ord).contains q.seq).map (·.seq)
    (let s := withEntry on 1 flushK
     s.taken? f1 = some flushK ∧ Entry.opcode flushK.head = 4 ∧ planned s flushK = true ∧ one.stale = false ∧
      Entry.all flushK.head = false ∧ flushAhead s flushK = false ∧ flushLost s flushK = none ∧ covered s = []) ∧
    (let s := { withEntry on 1 flushK with jnl := { on.jnl with lost := [{ row := 1000, pos := 0, good := [1, 2, 3] }] } }
     flushAhead s flushK = false ∧ (flushLost s flushK).isSome = true ∧ covered s = []) ∧
    (let s := on.modRing .a 1 fun q => { q with taken := [at_ { writeK 2 with i := 1 } .hostData, flushK] }
     s.taken? f1 = some flushK ∧ flushAhead s flushK = true) ∧
    (let s := withEntry (withRec on) 1 flushK
     s.taken? f1 = some flushK ∧ planned s flushK = true ∧ flushAhead s flushK = false ∧ covered s = [1]) := by
  and_intros <;> decide +kernel

/-- A block for every position and block position of a row, from block `d` of the member area. -/
def rowItems (v : VolN) (d : Nat) (b : PosN → Byte) (solved : Bool) : List Item :=
  (List.range 4).flatMap fun i => (List.finRange 6).map fun p =>
    { vol := v, lbn := 0, pos := p, d := d + i, data := some [b p], lost := false, solved := solved }
def verifyK (b : PosN → Byte) : Taken := at_ { took (ioEntry 6 1 0) with items := rowItems 1 4000 b false } .reads

/-- A VERIFY whose entry has an item for every position at these blocks asks for nothing more. -/
theorem verifyAsk_same {s f v ls t} (h : s.taken? f = some t)
    (h1 : ∀ l ∈ ls, ∀ q : PosN, (t.items.any fun k => k.pos == q && k.d == areaBlock s (blockPlace s v l).row (blockPlace s v l).b) = true)
    (h2 : ∀ l ∈ ls, ∀ b < arrayU s, ∀ q : PosN, (t.items.any fun k => k.pos == q && k.d == areaBlock s (blockPlace s v l).row b) = true) :
    verifyAsk s f v ls = s := by
  have at_same : ∀ l row b home, (∀ q : PosN, (t.items.any fun k => k.pos == q && k.d == areaBlock s row b) = true) →
      verifyAt s f v l row b home = s := by
    intro l row b home hq
    unfold verifyAt
    generalize ((List.range (rowDesc s row).lanes.length).filterMap fun l => if h : l < 6 then some (⟨l, h⟩ : PosN) else none) = ps
    induction ps with
    | nil => rfl
    | cons q ps ih => simp only [List.foldl_cons, h, hq q, if_true]; exact ih
  have fold_same : ∀ {α : Type} (g : State → α → State) (xs : List α), (∀ x ∈ xs, g s x = s) → xs.foldl g s = s := by
    intro α g xs hx
    induction xs with
    | nil => rfl
    | cons x xs ih => rw [List.foldl_cons, hx x (by simp)]; exact ih fun y hy => hx y (by simp [hy])
  unfold verifyAsk
  rw [fold_same _ ls fun l hl => at_same _ _ _ _ (h1 l hl)]
  apply fold_same
  intro r hr
  obtain ⟨l, hl, e⟩ : ∃ l ∈ ls, (blockPlace s v l).row = r := by simpa using hr
  apply fold_same
  intro b hb
  apply at_same
  intro q
  obtain ⟨l', hf⟩ : ∃ l', ls.find? (fun l => (blockPlace s v l).row == r) = some l' :=
    Option.isSome_iff_exists.mp (List.find?_isSome.mpr ⟨l, hl, by simp [e]⟩)
  have h' := List.find?_some hf
  simp only [beq_iff_eq] at h'
  rw [← h']
  exact h2 l' (List.mem_of_find?_eq_some hf) b (List.mem_range.mp hb) q

theorem witness_VerifyComparesTheParityOfItsRows :
    ∀ b ∈ ([0, 7] : List Byte),
      let k := verifyK fun _ => b
      let s := withEntry on 1 k
      IoReady s f1 6 k one ∧ earlierWrite s 1 0 1 0 = false ∧ (∀ it ∈ k.items, it.data.isSome = true) ∧ k.items ≠ [] ∧
      (∀ pos, blockLost s 1000 pos 0 = false) ∧ blockPlace s 1 0 = { row := 1000, j := 0, b := 0 } := by decide +kernel

theorem witness_VerifyComparesTheParityOfItsRows_asked :
    ∀ b ∈ ([0, 7] : List Byte), verifyAsk (withEntry on 1 (verifyK fun _ => b)) f1 1 [0] = withEntry on 1 (verifyK fun _ => b) := by
  intro b hb
  rcases (by simpa using hb : b = 0 ∨ b = 7) with rfl | rfl
  · exact verifyAsk_same (t := verifyK fun _ => 0) rfl (by decide +kernel) (by decide +kernel)
  · exact verifyAsk_same (t := verifyK fun _ => 7) rfl (by decide +kernel) (by decide +kernel)

theorem witness_VerifyComparesTheParityOfItsRows_differs :
    parityDiffers (withEntry on 1 (verifyK fun _ => 7)) (verifyK fun _ => 7) 1 0 = true ∧
    parityDiffers (withEntry on 1 (verifyK fun _ => 0)) (verifyK fun _ => 0) 1 0 = false := by decide +kernel

def vk (solved : Bool) : Taken := { sk 6 0 0 solved with items := rowItems 0 0 (fun _ => 5) solved }
def vsS (tag : Bytes) : State := { withEntry on 1 (vk false) with tags := { on.tags with tagLog := [tagAt 1 tag] } }

theorem witness_VerifyComparesTheParityOfItsRows_sealed :
    IoReady (vsS []) f1 6 (vk false) sealedVol ∧ earlierWrite (vsS []) 0 0 1 0 = false ∧ newestRec (vsS []) 0 0 = none ∧
    tagEntry (vsS []) 0 0 = some (tagAt 1 []) ∧ blockKeys (vsS []) 0 0 = some keys ∧
    brings (vsS []) (vk false) 0 0 = some (some [5], !true) ∧ verifyAsk (vsS []) f1 0 [0] = vsS [] ∧
    (∀ pos, blockLost (vsS []) 0 pos 0 = false) := by
  and_intros <;> first | exact verifyAsk_same (t := vk false) rfl (by decide +kernel) (by decide +kernel) | decide +kernel

def cmd (op : Nat) (arg : W32) (a : List W32) : Taken := took (entry op arg a)

theorem witness_QueriesReplyFromTheState :
    AtVisit (mgmt on (cmd 0x10 0 [])) .a 0 0x10 (cmd 0x10 0 []) ∧ AtVisit (mgmt on (cmd 0x11 0 [])) .a 0 0x11 (cmd 0x11 0 []) ∧
    AtVisit (mgmt on (cmd 0x12 33 [])) .a 0 0x12 (cmd 0x12 33 []) ∧ field (Entry.arg (cmd 0x12 0 []).head) 0 6 = 0 ∧
    32 < field (Entry.arg (cmd 0x12 33 []).head) 0 6 ∧
    (let k := cmd 0x12 32 [1]
     AtVisit (mgmt on k) .a 0 0x12 k ∧ 1 ≤ field (Entry.arg k.head) 0 6 ∧ field (Entry.arg k.head) 0 6 ≤ 32 ∧
      (Entry.a k.head 2).getLsbD 0 = false ∧ 1 ≤ on.log.next ∧ on.log.next ≤ (Entry.a k.head 0).toNat) := by decide +kernel

def ringK (sub ring cfg : W32) : Taken := cmd 0x13 (sub + ring <<< 16) [0x4000, 0, cfg, 1]

/-- A QUEUE_CTL command of this subcommand on ring 1 is in its visit. -/
def ringVisit (sub : W32) (n : Nat) : Prop :=
  AtVisit (mgmt on (ringK sub 1 0)) .a 0 0x13 (ringK sub 1 0) ∧ Entry.subop (ringK sub 1 0).head = n ∧
    ringArg (ringK sub 1 0).head = 1

theorem witness_QueueControlActsOnTheNamedRing :
    (AtVisit (mgmt on (ringK 1 63 0x2020)) .a 0 0x13 (ringK 1 63 0x2020) ∧ Entry.subop (ringK 1 63 0x2020).head = 1 ∧
      ringArg (ringK 1 0 0).head = 0 ∧ ringArg (ringK 1 63 0).head = 63 ∧ (on.ring .a 63).state = .disabled ∧
      (on.ring .a 1).state ≠ .disabled ∧ qcfgOk 0x2020 = true ∧ baseOk 0x4000 0x2020 = true) ∧
    (AtVisit (mgmt on (ringK 2 1 0x2020)) .a 0 0x13 (ringK 2 1 0x2020) ∧ Entry.subop (ringK 2 1 0x2020).head = 2 ∧
      field (Entry.a (ringK 2 1 0x2020).head 2) 1 4 = Ring.dcode (on.ring .a 1)) ∧
    (ringVisit 3 3 ∧ ringVisit 4 4 ∧ ringVisit 5 5 ∧ ringVisit 6 6) ∧
    ((ring1 on .frozen).ring .a 1).state = .frozen ∧ ((ring1 on .resetting).ring .a 1).state = .resetting := by
  unfold ringVisit
  decide +kernel

def abortS : State :=
  (mgmt on (cmd 0x14 1 [])).modRing .a 1 fun q =>
    { q with taken := [took (ioEntry 1 1 0), { took (ioEntry 2 1 0) with i := 1, committed := true }] }

theorem witness_AbortEndsEntriesWithoutCommittedOrders :
    (AtVisit (mgmt on (cmd 0x14 0 [])) .a 0 0x14 (cmd 0x14 0 []) ∧ sixtyFour (field (Entry.arg (cmd 0x14 0 []).head) 0 6) = 0) ∧
    (AtVisit abortS .a 0 0x14 (cmd 0x14 1 []) ∧ sixtyFour (field (Entry.arg (cmd 0x14 1 []).head) 0 6) = 1 ∧
      (abortS.ring .a 1).state = .run ∧
      (∃ e ∈ (abortS.ring .a 1).taken, e.committed = true) ∧
      (∃ e ∈ (abortS.ring .a 1).taken, e.committed = false ∧ e.done = false ∧ e.stage ≠ .finished ∧
        Entry.tag e.head = (Entry.a (cmd 0x14 1 []).head 0).extractLsb' 0 16)) := by decide +kernel

def withBuf (s : State) (o : BufOwner) : State :=
  { s with staging := { s.staging with bufs := s.staging.bufs.set 0 { owner := o, gen := 1 } } }
/-- The handle of buffer 128, generation 1, port A (06 Table 6-11). -/
def handle : W32 := 128 + (1 <<< 9)
def held : State := withBuf on (.held .a)
def copyK (dir : W32) : Taken := cmd 0x1A dir [handle, 64, 64, 0x1000, 0]

theorem witness_BuffersPassThroughTheGateToTheirHolder :
    (AtVisit (mgmt on (cmd 0x18 0 [])) .a 0 0x18 (cmd 0x18 0 []) ∧ portBufs on.staging .a < stgLimit on .a) ∧
    (let s := { on with mode := { on.mode with lima := 0 } }
     AtVisit (mgmt s (cmd 0x18 0 [])) .a 0 0x18 (cmd 0x18 0 []) ∧ stgLimit s .a ≤ portBufs s.staging .a) ∧
    (let k := at_ (cmd 0x18 0 []) .reclaim
     (mgmt on k).taken? f0 = some k ∧ ring0At (mgmt on k) (fun u => u.stage == .reclaim && decide (u.ord < k.ord)) = 0) ∧
    (AtVisit (mgmt held (cmd 0x19 0 [handle])) .a 0 0x19 (cmd 0x19 0 [handle]) ∧ handleCheck held .a handle = Status.success ∧
      bufInUse (mgmt held (cmd 0x19 0 [handle])) .a handle 0 = false ∧ bufOf held 128 = some { owner := .held .a, gen := 1 }) ∧
    ((mgmt held (at_ (cmd 0x19 0 [handle]) .exec)).taken? f0 = some (at_ (cmd 0x19 0 [handle]) .exec)) ∧
    (handleIndex (127 : W32) < 128 ∧ handleRest (0x02000080 : W32) ≠ 0 ∧ handleRest (0x01000080 : W32) = 0 ∧
      handleIndex (0x01000080 : W32) = 128 ∧ handlePort (0x01000080 : W32) = .b) ∧
    (handleGen handle = 1 ∧ handleGen (128 : W32) ≠ 1 ∧ handleRest handle = 0 ∧ handlePort handle = .a ∧
      bufOf on 128 = some { owner := .free, gen := 0 } ∧ handleGen (128 : W32) = 0) ∧
    (handleCheck held .a 128 = Status.bufStale ∧ handleCheck held .a 0x01000080 = Status.bufNotOwner) ∧
    (AtVisit (mgmt held (copyK 1)) .a 0 0x1A (copyK 1) ∧ (Entry.arg (copyK 1).head).getLsbD 0 = true ∧
      copyCheck (copyK 1).head = Status.success ∧ AtVisit (mgmt held (copyK 0)) .a 0 0x1A (copyK 0) ∧
      (Entry.arg (copyK 0).head).getLsbD 0 = false) ∧
    (let k := { copyK 0 with stage := .exec, data := List.replicate 64 7 }
     (mgmt held k).taken? f0 = some k ∧ k.data.length = (Entry.a k.head 2).toNat ∧ Memory.wf held.staging.mem = true) := by
  and_intros <;> decide +kernel



/-- The first `n` buffers belong to `o`, the others to `rest`. -/
def pool (s : State) (n : Nat) (hn : n ≤ 384) (o rest : BufOwner) : State :=
  let l := List.replicate n { owner := o, gen := 0 } ++ List.replicate (384 - n) { owner := rest, gen := 0 }
  { s with staging := { s.staging with bufs := ⟨l.toArray, by simp [l]; omega⟩ } }
def pool8 (s : State) (o rest : BufOwner) : State := pool s 8 (by decide) o rest
def pool7 (s : State) (o rest : BufOwner) : State := pool s 7 (by decide) o rest
def pool9 (s : State) (o rest : BufOwner) : State := pool s 9 (by decide) o rest
def pool32 (s : State) (o rest : BufOwner) : State := pool s 32 (by decide) o rest

/-- An allocation stands in its visit with free buffers, with none but scrub's, with none at all; or waits for one. -/
def allocS (s : State) : State := mgmt s (cmd 0x18 0 [])

theorem witness_BuffersPassThroughTheGateToTheirHolder_pool :
    (freeIdx (allocS on)).head? = some 128 ∧ hostWaits (allocS on) < (freeIdx (allocS on)).length ∧
    (let s := allocS (pool8 on (.engine .scrub) (.held .b))
     (freeIdx s).length ≤ hostWaits s ∧ hostWaits s < hostReach s ∧ portBufs s.staging .a < stgLimit s .a) ∧
    (let s := allocS (pool8 on (.held .b) (.held .b))
     (freeIdx s).length ≤ hostWaits s ∧ hostReach s ≤ hostWaits s ∧ portBufs s.staging .a < stgLimit s .a) := by
  refine ⟨freeIdx_head _ rfl, ?_⟩
  simp only [hostReach, engOwn, freeIdx_length, ownedIdx_length]
  and_intros <;> decide +kernel

def line (lock : Bool) (way d : Nat) : CLine :=
  { set := 3, way := way, pos := 2, d := d, key := 1, sv := 15, sd := 0, lock := lock, data := [] }
def cached (lock : Bool) : State := { on with cache := { on.cache with lines := [line lock 1 4000, line false 2 9] } }
def maintK (sub : W32) (a : List W32) : Taken := cmd 0x1B sub a
def range : List W32 := [1, 0, 0, 4]

/-- A CACHE_MAINT command of this subcommand is in its visit. -/
def maintVisit (sub : W32) (n : Nat) (a : List W32) : Prop :=
  AtVisit (mgmt (cached false) (maintK sub a)) .a 0 0x1B (maintK sub a) ∧ Entry.subop (maintK sub a).head = n

theorem witness_CacheMaintenanceAndErrors :
    (maintVisit 1 1 range ∧ maintVisit 2 2 range ∧ maintVisit 3 3 range) ∧
    (rangeCheck (cached false) (maintK 1 range).head = Status.success ∧ maintVol (maintK 1 range).head = 1 ∧
      maintLbn (maintK 1 range).head = 0 ∧ maintCount (maintK 1 range).head = 4) ∧
    (maintVisit 4 4 [0x10003] ∧ maintVisit 5 5 [0x10003] ∧ maintVisit 6 6 [0x10003] ∧ maintVisit 7 7 [5]) ∧
    ((∀ x ∈ (cached false).cache.lines, x.sd = 0 ∧ x.lock = false) ∧ ∃ x ∈ (cached true).cache.lines, x.lock = true) ∧
    (field (Entry.a (maintK 7 [5]).head 0) 0 3 = (5 : ClassN).val ∧ 6 ≤ field (Entry.a (maintK 7 [6]).head 0) 0 3) ∧
    on.cache.wayRet.getLsbD 15 = false := by
  unfold maintVisit
  decide +kernel

theorem witness_CacheMaintenanceAndErrors_recs :
    recsIn on (volBase on 1) (volBase on 1 + 4) = [] ∧ recsIn (withRec on) (volBase on 1) (volBase on 1 + 4) = [1] := by decide +kernel

theorem witness_CacheMaintenanceAndErrors_lines :
    lockedLine (cached false) (invalNames (cached false) (maintK 5 [0x10003]).head) = false ∧
    lockedLine (cached true) (invalNames (cached true) (maintK 5 [0x10003]).head) = true := by decide +kernel

theorem witness_CacheMaintenanceAndErrors_acts (lock : Bool) :
    (let k := maintK 5 [0x10003]
     let s := mgmt (cached lock) (at_ k .commit)
     ActsOn s (released s .invalidate) .a 0 (at_ k .commit) .invalidate ∧ Entry.subop (at_ k .commit).head = 5) ∧
    (let s := mgmt on (at_ (maintK 7 [5]) .commit)
     ActsOn s (released s (.setMask 5 0x000F)) .a 0 (at_ (maintK 7 [5]) .commit) (.setMask 5 0x000F)) :=
  ⟨⟨acts_mgmt _ _ _ rfl, by decide +kernel⟩, acts_mgmt _ _ _ rfl⟩

theorem witness_CacheMaintenanceAndErrors_ways :
    (let s := { due with cache := { due.cache with wayErr := due.cache.wayErr.set 3 4 } }
     s.clock.phase = .commit ∧ s.clock.cancelled = false ∧ s.cache.wayRet.getLsbD 3 = false ∧ sessionWays s ≤ 8 ∧
      4 ≤ s.cache.wayErr[3]) ∧
    on.cache.wayErr[(15 : Fin 16).val] < 4 := by decide +kernel

def noKeys : State := { modeOf on .locked with keys := KeySt.init }
def throttledS (s : State) : State :=
  { s with mode := { s.mode with acmp := s.mode.acmp.set 0 (some { user := 1, target := some 9, obj := 0 }) } }
def unlockK : Taken := { cmd 0x20 0 [] with param := some [] }
/-- The attempt is counted. -/
def counted (k : Taken) : Taken := { k with counted := true }
def noWrap : ArraySt := { arr with mkeyFormat := 0 }
def wrapped (f : Fuses) (cred : Bytes) : ArraySt := { arr with home := homeWrap f arr.uuid cred (zeros 32) }
/-- The array whose home wrap the credential of this entry opens. -/
def homeOf (k : Taken) : ArraySt := wrapped on.fuse (Taken.block k)

theorem witness_UnlockCountsTheAttemptBeforeItCompares :
    (let s := mgmt (throttledS noKeys) unlockK
     AtVisit s .a 0 0x20 unlockK ∧ s.mode.cond ≠ .none ∧ s.mode.plan = none ∧ s.array = some arr ∧ throttled s = true) ∧
    (let s := mgmt noKeys unlockK
     AtVisit s .a 0 0x20 unlockK ∧ s.mode.cond ≠ .none ∧ s.mode.plan = none ∧ unlockK.counted = false ∧ throttled s = false ∧
      attemptOpen s f0 = false) ∧
    (let s := noKeys.modRing .a 0 fun q => { q with taken := [unlockK, { counted (cmd 0x22 0 []) with i := 1 }] }
     AtVisit s .a 0 0x20 unlockK ∧ s.mode.plan = none ∧ throttled s = false ∧ attemptOpen s f0 = true) ∧
    (let s := mgmt { noKeys with array := some noWrap } (counted unlockK)
     AtVisit s .a 0 0x20 (counted unlockK) ∧ s.mode.cond ≠ .none ∧ s.mode.plan = none ∧ s.array = some noWrap ∧
      openWraps s.fuse noWrap (Taken.block (counted unlockK)) = none) ∧
    (let s := mgmt { noKeys with array := some (homeOf (counted unlockK)) } (counted unlockK)
     AtVisit s .a 0 0x20 (counted unlockK) ∧ s.mode.cond ≠ .none ∧ s.mode.plan = none) := by decide +kernel

theorem witness_UnlockCountsTheAttemptBeforeItCompares_opens :
    (mgmt { noKeys with array := some (homeOf (counted unlockK)) } (counted unlockK)).array = some (homeOf (counted unlockK)) ∧
    openWraps noKeys.fuse (homeOf (counted unlockK)) (Taken.block (counted unlockK)) = some (zeros 32, false) :=
  ⟨rfl, Laws.openWraps_home _ _ _ _ (Laws.kdf_length _ _ _ (by decide)) rfl (Laws.zeros_length 32) rfl⟩

theorem witness_UnlockCountsTheAttemptBeforeItCompares_acts :
    (let s := mgmt noKeys (at_ unlockK .commit)
     ActsOn s (released s .countAttempt) .a 0 (at_ unlockK .commit) .countAttempt) ∧
    (let s := mgmt noKeys (at_ (counted unlockK) .commit)
     ActsOn s (released s .failedAttempt) .a 0 (at_ (counted unlockK) .commit) .failedAttempt ∧ throttleDelay (unlockCount s.root) = 0 ∧
      s.sec.tampCfg.getLsbD 17 = false) ∧
    (let s := mgmt { noKeys with root := Memory.write noKeys.root 0x1490 (leBytes 4 9) } (at_ (counted unlockK) .commit)
     ActsOn s (released s .failedAttempt) .a 0 (at_ (counted unlockK) .commit) .failedAttempt ∧ throttleDelay (unlockCount s.root) ≠ 0 ∧
      s.mode.acmp = Vector.replicate 4 none) := by
  refine ⟨acts_mgmt _ _ _ rfl, ⟨acts_mgmt _ _ _ rfl, ?_⟩, acts_mgmt _ _ _ rfl, ?_⟩ <;> decide +kernel

def lowGrant : State := { on with array := some { arr with vtab := arr.vtab.set 0 { vol true 0 4096 0 with grantA := 2 } } }
def fac : State :=
  { modeOf on .factory with
    fuse := { on.fuse with seedFused := true, helper := true, pkgFused := true, sigRef := logicIds.map fun i => (i, 1) } }
def lcK (l : W32) : Taken := cmd 0x4A l [0x1FCA]

/-- MODE_SET Service with a credential of no bytes. -/
def serviceK : Taken := { took { dw := [0x48, 8, 0, 0, 0, 0, 4, 0, 0, 0, 0, 0, 0, 0, 0, 0] } with param := some (zeros 4) }

theorem witness_ModeAndLifecycleCommandsPlanTransitions :
    (AtVisit (mgmt on (cmd 0x21 0 [])) .a 0 0x21 (cmd 0x21 0 []) ∧ (mgmt on (cmd 0x21 0 [])).mode.plan = none) ∧
    (let s := mgmt (modeOf on .service) (cmd 0x48 2 [])
     AtVisit s .a 0 0x48 (cmd 0x48 2 []) ∧ Entry.subop (cmd 0x48 2 []).head = 2 ∧ Entry.plen (cmd 0x48 2 []).head = 0 ∧
      s.mode.mode = .service ∧ s.mode.cond ≠ .none) ∧
    (AtVisit (mgmt on (cmd 0x48 2 [])) .a 0 0x48 (cmd 0x48 2 []) ∧ on.mode.mode ≠ .service) ∧
    (AtVisit (mgmt on (cmd 0x48 8 [])) .a 0 0x48 (cmd 0x48 8 []) ∧ Entry.subop (cmd 0x48 8 []).head = 8 ∧
      isCondition on.mode.mode = true ∧ Entry.plen (cmd 0x48 8 []).head = 0 ∧ 3 ≤ (cmd 0x48 8 []).grant0 ∧
      (let k := { cmd 0x48 8 [] with grant0 := 2 }
       AtVisit (mgmt on k) .a 0 0x48 k ∧ k.grant0 < 3)) ∧
    (let k := serviceK
     let s := mgmt noKeys k
     AtVisit s .a 0 0x48 k ∧ Entry.subop k.head = 8 ∧ s.mode.mode = .locked ∧ s.mode.plan = none ∧ Entry.plen k.head ≠ 0 ∧
      s.array = some arr ∧ k.counted = false ∧ throttled s = false ∧ attemptOpen s f0 = false) ∧
    (let s := mgmt { noKeys with array := some noWrap } (counted serviceK)
     AtVisit s .a 0 0x48 (counted serviceK) ∧ s.array = some noWrap ∧ openWraps s.fuse noWrap (Taken.block (counted serviceK)) = none) ∧
    (let s := mgmt { noKeys with array := some (homeOf (counted serviceK)) } (counted serviceK)
     AtVisit s .a 0 0x48 (counted serviceK) ∧ s.mode.plan = none) ∧
    (AtVisit (mgmt on (cmd 0x4A 2 [0x1FCB])) .a 0 0x4A (cmd 0x4A 2 [0x1FCB]) ∧
      Entry.a (cmd 0x4A 2 [0x1FCB]).head 0 ≠ 0x1FCA ∧ field (Entry.arg (cmd 0x4A 2 [0x1FCB]).head) 0 2 = 2) := by
  and_intros <;> decide +kernel

theorem witness_ModeAndLifecycleCommandsPlanTransitions_opens :
    openWraps noKeys.fuse (homeOf (counted serviceK)) (Taken.block (counted serviceK)) = some (zeros 32, false) :=
  Laws.openWraps_home _ _ _ _ (Laws.kdf_length _ _ _ (by decide)) rfl (Laws.zeros_length 32) rfl

theorem witness_ModeAndLifecycleCommandsPlanTransitions_latch :
    (let s := mgmt on (at_ (cmd 0x49 0 []) .transition)
     s.taken? f0 = some (at_ (cmd 0x49 0 []) .transition) ∧ resetPlanned s = false ∧
      resetPlanned (withPlan s .start .reset) = true ∧ (withPlan s .start .reset).taken? f0 = s.taken? f0) := by decide +kernel

theorem witness_ModeAndLifecycleCommandsPlanTransitions_start :
    (AtVisit (mgmt on (cmd 0x49 0 [])) .a 0 0x49 (cmd 0x49 0 []) ∧ on.mode.mode ≠ .lockdown ∧
      sourceStands (mgmt (modeOf on .lockdown) (cmd 0x49 0 [])) 0 = false ∧
      sourceStands (mgmt (modeOf on .lockdown) (cmd 0x49 0 [])) 0x1FF = true ∧
      AtVisit (mgmt (modeOf on .lockdown) (cmd 0x49 0 [])) .a 0 0x49 (cmd 0x49 0 [])) ∧
    (AtVisit (mgmt on (cmd 0x42 0 [])) .a 0 0x42 (cmd 0x42 0 []) ∧ imageOf on.fw .a = none ∧
      (imageOf { on.fw with a := some img } .a).isSome = true) := by decide +kernel

theorem witness_ModeAndLifecycleCommandsPlanTransitions_steps :
    (AtVisit (mgmt fac (lcK 1)) .a 0 0x4A (lcK 1) ∧ Entry.a (lcK 1).head 0 = 0x1FCA ∧
      field (Entry.arg (lcK 1).head) 0 2 = 1 ∧ lifecycle fac.fuse = .white ∧ fac.mode.mode = .factory ∧
      greyReady fac.fuse = true ∧ lifecycle (grey fac).fuse ≠ .white ∧ AtVisit (mgmt (grey fac) (lcK 1)) .a 0 0x4A (lcK 1)) ∧
    (let s := mgmt (grey (modeOf on .service)) (lcK 2)
     AtVisit s .a 0 0x4A (lcK 2) ∧ field (Entry.arg (lcK 2).head) 0 2 = 2 ∧ lifecycle s.fuse = .grey ∧ s.mode.mode = .service ∧
      AtVisit (mgmt on (lcK 2)) .a 0 0x4A (lcK 2) ∧ lifecycle on.fuse ≠ .grey) ∧
    (let s := black (modeOf on .service)
     AtVisit (mgmt s (lcK 3)) .a 0 0x4A (lcK 3) ∧ field (Entry.arg (lcK 3).head) 0 2 = 3 ∧ lifecycle s.fuse = .black ∧
      (lcK 3).pressed = false ∧ AtVisit (mgmt s { lcK 3 with pressed := true }) .a 0 0x4A { lcK 3 with pressed := true }) := by
  decide +kernel

def credK : Taken :=
  { took { dw := [0x22, 0, 0, 0, 0, 0, 260, 0, 0, 0, 0, 0, 0, 0, 0, 0] } with param := some ([1, 1, 0, 0] ++ zeros 256) }

theorem witness_PrivilegedCommandsPlanOnePrep :
    (let s := mgmt { on with array := some (wrapped on.fuse [0]) } (counted credK)
     AtVisit s .a 0 0x22 (counted credK) ∧
      credPair (Taken.block (counted credK)) = some ([0], [0])) ∧
    (let s := mgmt { on with array := some noWrap } (counted credK)
     AtVisit s .a 0 0x22 (counted credK) ∧ s.array = some noWrap ∧ openWraps s.fuse noWrap [0] = none) ∧
    (let s := mgmt on credK
     AtVisit s .a 0 0x22 credK ∧ credPair (Taken.block credK) = some ([0], [0]) ∧ credK.counted = false ∧ throttled s = false ∧
      attemptOpen s f0 = false) ∧
    (AtVisit (mgmt on (cmd 0x26 0x10001 [])) .a 0 0x26 (cmd 0x26 0x10001 []) ∧
      sixtyFour (field (Entry.arg (cmd 0x26 0x10001 []).head) 0 6) = 1 ∧ (volOf on 1).isSome = true ∧
      adminLeft on 1 .a 1 = true ∧ Entry.arg (cmd 0x26 0x10001 []).head = 0x10001) ∧
    (AtVisit (mgmt lowGrant (cmd 0x26 0x102 [])) .a 0 0x26 (cmd 0x26 0x102 []) ∧ (volOf lowGrant 0).isSome = true ∧
      sixtyFour (field (Entry.arg (cmd 0x26 0x100 []).head) 0 6) = 0 ∧ adminLeft lowGrant 0 .b 0 = false) ∧
    (AtVisit (mgmt on (cmd 0x28 0 [0x466])) .a 0 0x28 (cmd 0x28 0 [0x466]) ∧
      field (0x466 : W32) 0 4 + field (0x466 : W32) 4 4 + field (0x466 : W32) 8 4 = 16 ∧
      field (0x467 : W32) 0 4 + field (0x467 : W32) 4 4 + field (0x467 : W32) 8 4 ≠ 16) ∧
    (AtVisit (mgmt on (cmd 0x39 5 [0x224])) .a 0 0x39 (cmd 0x39 5 [0x224]) ∧ Entry.subop (cmd 0x39 5 [0x224]).head = 5 ∧
      field (0x224 : W32) 0 4 + field (0x224 : W32) 4 4 + field (0x224 : W32) 8 4 = 8 ∧
      field (0x225 : W32) 0 4 + field (0x225 : W32) 4 4 + field (0x225 : W32) 8 4 ≠ 8) ∧
    AtVisit (mgmt on (cmd 0x4C 0 [0x12345678])) .a 0 0x4C (cmd 0x4C 0 [0x12345678]) := by
  and_intros <;> decide +kernel

theorem witness_PrivilegedCommandsPlanOnePrep_opens : openWraps on.fuse (wrapped on.fuse [0]) [0] = some (zeros 32, false) :=
  Laws.openWraps_home _ _ _ _ (Laws.kdf_length _ _ _ (by decide)) rfl (Laws.zeros_length 32) rfl

def spare : SlotSt := { ready with state := .spare }
def blank (n : Nat) : State :=
  { modeOf on .service with
    array := none, seq := SeqSt.init, keys := KeySt.init
    slots := Vector.ofFn fun (i : Fin 6) => if i.val < n then spare else SlotSt.init }
def createK (d : W32) : Taken := cmd 0x23 0x070003 [d]

theorem witness_ArrayCreationClearsThenWritesSuperblocks :
    (AtVisit (mgmt (blank 3) (createK 4096)) .a 0 0x23 (createK 4096) ∧
      createCheck (mgmt (blank 3) (createK 4096)) f0 (createK 4096).head = Status.success ∧
      (createSlots (createK 4096).head).all (fun m => !needsFormat (blank 3) m) = true) ∧
    (AtVisit (mgmt (blank 3) (createK 4095)) .a 0 0x23 (createK 4095) ∧
      createCheck (mgmt (blank 3) (createK 4095)) f0 (createK 4095).head ≠ Status.success) ∧
    (let k := at_ (createK 4096) .init
     ((mgmt (blank 3) k).ring .a 0).taken = [k] ∧ k.i = 0 ∧
      (createSlots k.head).all (readyMember (mgmt (blank 3) k)) = true ∧
      (createSlots k.head).all (readyMember (mgmt (blank 2) k)) = false) := by decide +kernel

def volK (arg : W32) : Taken := cmd 0x24 arg [4095, 0]
def rekeying : ArraySt := { arr with rekey := { vol := 1, state := 1, b := 0, wrap := [] } }
def sbK : Taken := at_ (volK 0x020002) .superblock
def sbFor (e : SbEffect) : State := { mgmt on sbK with sbq := [{ effect := e }] }

theorem witness_VolumeCommandsTakeEffectWithTheSuperblocks :
    (AtVisit (mgmt on (volK 0x020002)) .a 0 0x24 (volK 0x020002) ∧ on.array = some arr ∧ on.keys.amk = some (zeros 32) ∧
      createVol (volK 0x020002).head = 2 ∧ createKey (volK 0x020002).head = 2 ∧
      (claimedVols on).any (fun x => x.1 == 2) = false ∧ (claimedVols on).any (fun x => x.2.key == 2) = false) ∧
    ((freeRange on (volRows on (createSize (volK 0x020002).head + 1) false)).isSome = true ∧
      (Entry.arg (volK 0x020002).head).getLsbD 8 = false) ∧
    (AtVisit (mgmt on (volK 0x010002)) .a 0 0x24 (volK 0x010002) ∧ createKey (volK 0x010002).head = 1 ∧
      arr.vtab[1].present = true ∧ arr.vtab[1].key = 1) ∧
    (AtVisit (mgmt on (cmd 0x25 1 [])) .a 0 0x25 (cmd 0x25 1 []) ∧ createVol (cmd 0x25 1 []).head = 1 ∧
      volOf on 1 = some one ∧ volBusy on 1 = false ∧ volBusy (withRec on) 1 = true) ∧
    (AtVisit (mgmt on (cmd 0x27 1 [])) .a 0 0x27 (cmd 0x27 1 []) ∧ arr.rekey.state = 0 ∧
      sixtyFour (field (Entry.arg (cmd 0x27 1 []).head) 0 6) = 1 ∧ (volOf on 1).isSome = true ∧ rekeying.rekey.state ≠ 0 ∧
      rekeyStarting on = false) ∧
    (let s := sbFor (.volumeCreate f0 2 (vol false 6000 4096 2) keys)
     sbOutstanding s = false ∧ s.array = some arr ∧ s.taken? f0 = some sbK ∧ sbK.stage = .superblock ∧
      (vol false 6000 4096 2).present = true ∧ (vol false 6000 4096 2).isSealed = false) ∧
    ((mgmt on (at_ (volK 0x020002) .exec)).taken? f0 = some (at_ (volK 0x020002) .exec)) ∧
    (sbOutstanding (sbFor (.rekeyStart f0 1 keys [])) = false ∧ sbOutstanding (sbFor (.volumeDelete f0 1)) = false ∧
      sbOutstanding (sbFor (.creds f0 [1] [2])) = false ∧ sbOutstanding (sbFor (.adopt f0 [1] [])) = false ∧
      (mgmt on (at_ (volK 0x020002) .exec)).mode.plan = none) := by
  and_intros <;> decide +kernel

theorem witness_VolumeCommandsTakeEffectWithTheSuperblocks_acts :
    let s := mgmt on (at_ credK .commit)
    ActsOn s (released s .credsDone) .a 0 (at_ credK .commit) .credsDone := acts_mgmt _ _ _ rfl

theorem witness_VolumeCommandsTakeEffectWithTheSuperblocks_pool :
    8 ≤ spareBufs on ∧
    (let s := pool7 on .free (.held .b)
     spareBufs s + releasing s + engOwn s .scrub < 8) ∧
    (let s := pool8 on (.engine .scrub) (.held .b)
     8 ≤ spareBufs s + releasing s + engOwn s .scrub ∧ spareBufs s < 8 - engOwn s .rekey) := by
  simp only [spareBufs, engOwn, freeIdx_length, ownedIdx_length]
  have f : ∀ s ∈ [(on, 384, 0), (pool7 on .free (.held .b), 7, 0), (pool8 on (.engine .scrub) (.held .b), 0, 8)],
      (s.1.staging.bufs.toList.filter fun b => b.owner == .free).length = s.2.1 ∧
      (s.1.staging.bufs.toList.filter fun b => b.owner == .engine .scrub).length = s.2.2 := by decide +kernel
  simp only [List.mem_cons, List.not_mem_nil, or_false, forall_eq_or_imp, forall_eq] at f
  simp only [f.1.1, f.2.1.1, f.2.1.2, f.2.2.1, f.2.2.2]
  and_intros <;> decide +kernel

def obj (pol : W32) : VaultObj := { id := 1, len := 32, policy := pol }
def vault (pol : W32) (k : Taken) : State := mgmt { on with vault := { index := [obj pol], loaded := true } } k
/-- The command has had its charge. -/
def paid (k : Taken) : Taken := { k with charged := true }
def vol0 : Volume := vol true 0 4096 0
def listK : Taken := took { dw := [0x30, 1, 0, 0, 0, 0, 0, 64, 0, 0, 0, 0, 0, 0, 0, 0] }
def getK (id : W32) : Taken := cmd 0x30 (2 + id <<< 16) []
def putK (id pol : W32) : Taken := took { dw := [0x30, 3 + id <<< 16, 0, 0, 0, 0, 64, 0, pol, 0, 0, 0, 0, 0, 0, 0] }
def delK (id : W32) : Taken := cmd 0x30 (4 + id <<< 16) []
def polK : Taken := cmd 0x30 (5 + 1 <<< 16) [1]
/-- The read of an object's block gives its bytes. -/
def reads (r : Except Status (Nat × Bytes) × State) : Bool :=
  match r.1 with
  | .ok _ => true
  | .error _ => false
/-- The tree gives block `id` of volume 0 a counter below the limit. -/
def counts (s : State) (k : Taken) (id : Nat) : Bool :=
  match (sealedInfo s 0 4096 (metaHere s k 0) id).1 with
  | .counter c _ => decide (c + 1 < 2 ^ 56)
  | _ => false

theorem witness_VaultObjectsAreDeliveredAndChanged_get :
    VaultReady (vault 3 listK) .a 0 1 listK vol0 ∧
    (VaultReady (vault 3 (getK 2)) .a 0 2 (getK 2) vol0 ∧ vaultObj (vault 3 (getK 2)) (vaultId (getK 2).head) = none) ∧
    (VaultReady (vault 2 (getK 1)) .a 0 2 (getK 1) vol0 ∧ vaultObj (vault 2 (getK 1)) (vaultId (getK 1).head) = some (obj 2) ∧
      polGet (2 : W32) .a = false) ∧
    (VaultReady (vault 7 (getK 1)) .a 0 2 (getK 1) vol0 ∧ vaultObj (vault 7 (getK 1)) (vaultId (getK 1).head) = some (obj 7) ∧
      polGet (7 : W32) .a = true ∧ cooling (vault 7 (getK 1)) 1 = false ∧ polOnce (7 : W32) = false ∧
      Entry.reply (getK 1).head = 0 ∧ vol0.stale = false ∧ polCool (7 : W32) = 0 ∧ polCget (7 : W32) = true ∧
      (getK 1).pressed = false) ∧
    (let s := vault 0x23 (paid (getK 1))
     VaultReady s .a 0 2 (paid (getK 1)) vol0 ∧ vaultObj s (vaultId (getK 1).head) = some (obj 0x23) ∧ polGet (0x23 : W32) .a = true ∧
      cooling s 1 = false ∧ s.mode.mode ≠ .salvage ∧ coolPlanned s f0 (obj 0x23) = some s ∧ polCget (0x23 : W32) = false ∧
      writeRoom s 0 1 = true ∧ reads (vaultBlock s [] vol0 1) = true) ∧
    (let s := vault 3 (getK 1)
     VaultReady s .a 0 2 (getK 1) vol0 ∧ vaultObj s (vaultId (getK 1).head) = some (obj 3) ∧ polGet (3 : W32) .a = true ∧
      cooling s 1 = false ∧ polOnce (3 : W32) = false ∧ polCool (3 : W32) = 0 ∧ polCget (3 : W32) = false ∧
      (getK 1).charged = false) := by
  and_intros <;> decide +kernel

theorem witness_VaultObjectsAreDeliveredAndChanged_change :
    (let k := paid (putK 5 3)
     let s := vault 3 k
     VaultReady s .a 0 3 k vol0 ∧ vaultObj s (vaultId k.head) = none ∧
      polOk (Entry.a k.head 0) = true ∧ s.vault.index.length < 4096 ∧ vaultId k.head < vol0.size ∧
      polCmod (3 : W32) = false ∧ blockKeys s 0 5 = some keys ∧ counts s k 5 = true ∧ writeRoom s 1 1 = true) ∧
    (VaultReady (vault 3 (putK 1 0)) .a 0 3 (putK 1 0) vol0 ∧
      vaultObj (vault 3 (putK 1 0)) (vaultId (putK 1 0).head) = some (obj 3) ∧ polFixed (3 : W32) = false ∧
      polFixed (0x13 : W32) = true ∧ VaultReady (vault 0x13 (putK 1 0)) .a 0 3 (putK 1 0) vol0) ∧
    (let k := paid (delK 1)
     VaultReady (vault 3 k) .a 0 4 k vol0 ∧ counts (vault 3 k) k 1 = true ∧
      blockKeys (vault 3 k) 0 1 = some keys ∧ writeRoom (vault 3 k) 0 1 = true ∧
      VaultReady (vault 3 (delK 2)) .a 0 4 (delK 2) vol0 ∧ vaultObj (vault 3 (delK 2)) (vaultId (delK 2).head) = none) ∧
    (let k := paid polK
     VaultReady (vault 3 k) .a 0 5 k vol0 ∧ polOk (Entry.a k.head 0) = true ∧ polCmod (Entry.a k.head 0) = false ∧
      reads (vaultBlock (vault 3 k) [] vol0 (vaultId k.head)) = true ∧ writeRoom (vault 3 k) 1 1 = true ∧
      VaultReady (vault 0x13 polK) .a 0 5 polK vol0) := by
  and_intros <;> decide +kernel

def slotIs (s : State) (m : Fin 6) (x : SlotSt) : State := { s with slots := s.slots.set m.val x }
def memberK (sub slot : W32) : Taken := cmd 0x38 (sub + slot <<< 8) []
def detached : State := slotIs on 3 { ready with state := .detached }
/-- The array with position 1 missing, or a target in this state. -/
def pos1 (st : PState) : ArraySt := { arr with ptab := arr.ptab.set 1 { posAt 1 with state := st } }
def lessOne : State := { on with array := some (pos1 .missing) }
def replaceK : Taken := cmd 0x38 0x1303 []
def replacing : State := slotIs (slotIs lessOne 3 spare) 1 { ready with state := .failed }

theorem witness_MemberCommandsActOnTheNamedSlot :
    (AtVisit (mgmt detached (memberK 1 3)) .a 0 0x38 (memberK 1 3) ∧ argSlot (Entry.arg (memberK 1 3).head) 8 = some 3 ∧
      Entry.subop (memberK 1 3).head = 1 ∧ (detached.slot 3).present = true ∧ slotBad detached 3 = false ∧ (detached.slot 3).pd = none ∧
      (detached.slot 3).state = .detached ∧ (on.slot 0).state = .member ∧ AtVisit (mgmt on (memberK 1 0)) .a 0 0x38 (memberK 1 0) ∧
      argSlot (Entry.arg (memberK 1 0).head) 8 = some 0) ∧
    (let s := slotIs on 3 { ready with state := .detached, pd := some { step := 1, due := none } }
     AtVisit (mgmt s (memberK 1 3)) .a 0 0x38 (memberK 1 3) ∧ (s.slot 3).pd ≠ none ∧ (s.slot 3).state = .detached ∧
      (s.slot 3).present = true ∧ slotBad s 3 = false) ∧
    (AtVisit (mgmt on (memberK 2 0)) .a 0 0x38 (memberK 2 0) ∧ argSlot (Entry.arg (memberK 2 0).head) 8 = some 0 ∧
      posOfSlot on 0 = some 0 ∧ detachExceeds on 0 = false ∧ posOfSlot lessOne 0 = some 0 ∧ detachExceeds lessOne 0 = true) ∧
    (AtVisit (mgmt on (memberK 4 5)) .a 0 0x38 (memberK 4 5) ∧ argSlot (Entry.arg (memberK 4 5).head) 8 = some 5 ∧
      AtVisit (mgmt on (memberK 5 5)) .a 0 0x38 (memberK 5 5)) ∧
    (let s := mgmt replacing replaceK
     AtVisit s .a 0 0x38 replaceK ∧ Entry.subop replaceK.head = 3 ∧ argSlot (Entry.arg replaceK.head) 8 = some 3 ∧
      argSlot (Entry.arg replaceK.head) 12 = some 1 ∧ missingOf s 1 = some 1 ∧ (s.slot 1).state = .failed ∧
      (s.slot 3).state = .spare ∧ (s.slot 3).step = 8 ∧ (s.slot 3).drive.isSome = true ∧ (s.slot 3).pd = none ∧
      (s.slot 3).format = false ∧ bigEnough s 3 = true ∧ needsFormat s 3 = false) := by and_intros <;> decide +kernel

theorem witness_MemberCommandsActOnTheNamedSlot_acts (b : Bool) :
    (let s := mgmt on (at_ (memberK 4 5) .commit)
     ActsOn s (released s (.locate 5 b)) .a 0 (at_ (memberK 4 5) .commit) (.locate 5 b)) ∧
    (let k := at_ replaceK .exec
     let s := mgmt replacing k
     s.array = some (pos1 .missing) ∧ s.taken? f0 = some k ∧ k.stage = .exec ∧ (s.slot 3).state = .spare) ∧
    (let k := at_ (memberK 2 0) .exec
     let s := mgmt on k
     s.array = some arr ∧ s.taken? f0 = some k ∧ slotBad s 3 = false ∧ posOfSlot s 0 = some 0) :=
  ⟨acts_mgmt _ _ _ rfl, by decide +kernel⟩

def engineK (sub slot : W32) : Taken := cmd 0x39 (sub + slot <<< 8) []
def run : EngSt := { EngSt.init with running := true }
def rebuilding (s : State) : State := { s with eng := { s.eng with rebuild := run } }
def scrubbing (s : State) : State := { s with eng := { s.eng with scrub := run } }
def target : State := { on with array := some (pos1 .rebuildTarget) }
def shift (pu : Purpose) : Shift :=
  { id := 3, purpose := pu, row := 0, b0 := 0, w := 4, bank := false, desc := { lanes := [.data 0, .data 1, .red 0], c0 := [1, 1], c1 := [] },
    dirty := [], rmw := false, out := [], wait := [], got := [], step := .reads, seq := 0, rowDurable := true,
    solvedWait := false, written := [], writesLeft := 0, released := false, unrecoverable := false, party := none, need := 0,
    endAt := 0, failed := false }

theorem witness_RebuildAndScrubStartAndStop :
    (AtVisit (mgmt target (engineK 1 1)) .a 0 0x39 (engineK 1 1) ∧ argSlot (Entry.arg (engineK 1 1).head) 8 = some 1 ∧
      Entry.subop (engineK 1 1).head = 1 ∧ target.eng.rebuild.running = false ∧ posOfSlot target 1 = some 1 ∧
      isTarget (posEntry (pos1 .rebuildTarget) 1) = true) ∧
    (AtVisit (mgmt (rebuilding on) (engineK 1 1)) .a 0 0x39 (engineK 1 1) ∧ (rebuilding on).eng.rebuild.running = true) ∧
    (AtVisit (mgmt on (engineK 2 1)) .a 0 0x39 (engineK 2 1) ∧ on.eng.rebuild.running = false) ∧
    (let s := { rebuilding on with shifts := [shift .rebuild] }
     AtVisit (mgmt s (engineK 2 1)) .a 0 0x39 (engineK 2 1) ∧ s.eng.rebuild.stop = false ∧ s.eng.scrub.stop = false ∧
      (s.shifts.any fun x => x.purpose == .rebuild || x.purpose == .resync) = true) ∧
    (AtVisit (mgmt on (engineK 3 0)) .a 0 0x39 (engineK 3 0) ∧ Entry.subop (engineK 3 0).head = 3 ∧ on.array.isSome = true ∧
      on.eng.scrub.running = false) ∧
    (AtVisit (mgmt (scrubbing on) (engineK 4 0)) .a 0 0x39 (engineK 4 0) ∧ (scrubbing on).eng.scrub.running = true ∧
      (scrubbing on).shifts = [] ∧ (scrubbing on).eng.scrub.stop = false ∧ (scrubbing on).eng.rebuild.stop = false) := by decide +kernel

theorem witness_RebuildAndScrubStartAndStop_pool :
    (let s := pool8 on .free (.held .a)
     8 ≤ spareBufs s - rotateNeed s + engOwn s .scrub) ∧
    (let s := pool7 on .free (.held .a)
     spareBufs s - rotateNeed s + engOwn s .scrub < 8) := by
  simp only [spareBufs, engOwn, freeIdx_length, ownedIdx_length]
  and_intros <;> decide +kernel

def loadK (bank n : W32) : Taken := cmd 0x3A bank [handle, n]
def wordsOf (prog : List W36) : Bytes := prog.flatMap fun w => leBytes 8 w.toNat
def validK : Taken := { loadK 1 (BitVec.ofNat 32 romSpan.length) with stage := .validation, data := wordsOf romSpan, frame := 60 }
def loading : State := { on with seq := { on.seq with load := some (true, f0) } }
def shortK : Taken := { loadK 1 2 with stage := .validation, data := zeros 16, frame := 99 }
def swapK : Taken := cmd 0x3B 1 []
def second (prog : List W36) : State := { on with seq := { on.seq with bank1 := prog } }
def swapAt (st : SwapStep) : Swap := { bank := true, force := false, ref := f0, step := st, frame := 90 }
def swapping (st : SwapStep) : State :=
  { on with seq := { on.seq with bank1 := romParity1, swap := some (swapAt st), hold := true } }

theorem witness_LayoutLoadAndSwapGoStepByStep :
    (AtVisit (mgmt held (loadK 1 2)) .a 0 0x3A (loadK 1 2) ∧ AtVisit (mgmt held (loadK 0 1024)) .a 0 0x3A (loadK 0 1024) ∧
      (Entry.a (loadK 1 2).head 1).toNat = 2 ∧ (Entry.a (loadK 0 1024).head 1).toNat = 1024 ∧
      handleCheck held .a (Entry.a (loadK 1 2).head 0) = Status.success ∧
      held.seq.active = some ((Entry.arg (loadK 0 1024).head).getLsbD 0) ∧
      held.seq.active ≠ some ((Entry.arg (loadK 1 2).head).getLsbD 0) ∧ held.seq.swap = none ∧ held.seq.load = none) ∧
    (AtVisit (mgmt (second romParity1) swapK) .a 0 0x3B swapK ∧
      (second romParity1).seq.active ≠ some ((Entry.arg swapK.head).getLsbD 0) ∧ bankProg (second romParity1) true ≠ []) ∧
    (swapFits (second romParity1) arr romParity1 = true ∧ swapFits (second romParity2) arr romParity2 = false) ∧
    ((swapping .drain).seq.swap = some (swapAt .drain) ∧ (swapping .drain).seq.hold = true ∧ (swapping .drain).shifts = [] ∧
      (swapAt .drain).force = false ∧ (second romParity1).seq.swap = none ∧
      (second romParity1).seq.load = none ∧ { swapping .drain with shifts := [shift .destage] }.shifts ≠ []) ∧
    (∀ wrote : Bool,
      let s := { swapping .drain with
        seq := { (swapping .drain).seq with swap := some { swapAt .drain with force := true } },
        shifts := [{ shift .destage with released := wrote }] }
      planPhase s = true ∧ s.seq.hold = true ∧ s.shifts ≠ [] ∧ s.shifts.any (·.released) = wrote) ∧
    (let k := at_ swapK .swap
     (mgmt (swapping .drain) k).taken? (swapAt .drain).ref = some k ∧ k.stage = .swap ∧ on.seq.swap = none ∧
      (swapping .persist).seq.swap = some (swapAt .persist)) := by and_intros <;> decide +kernel

theorem witness_LayoutLoadAndSwapGoStepByStep_validation :
    (planPhase (mgmt loading validK) = true ∧ planPhase (mgmt loading shortK) = true ∧
      (mgmt loading shortK).taken? f0 = some shortK ∧ (mgmt loading validK).taken? f0 = some validK ∧ (mgmt loading validK).seq.load = some (true, f0)) ∧
    (let ws := imageWords (Entry.a validK.head 1).toNat validK.data
     ws.all Option.isSome = true ∧ validate (ws.map (·.getD 0)) = true ∧
      validK.frame + loadFrames ws ≤ (mgmt loading validK).clock.frame) ∧
    (let ws := imageWords (Entry.a shortK.head 1).toNat shortK.data
     (ws.all Option.isSome && validate (ws.map (·.getD 0))) = false ∧ shortK.frame + loadFrames ws ≤ (mgmt loading shortK).clock.frame) := by
  and_intros <;> decide +kernel

theorem witness_LayoutLoadAndSwapGoStepByStep_verification :
    ((swapping .verify).array = some arr ∧ planPhase (swapping .verify) = true ∧
      (swapAt .verify).frame + shadowFrames (activeProg (swapping .verify)) (bankProg (swapping .verify) true) arr.n ≤ 100 ∧
      shadowOk (activeProg (swapping .verify)) (bankProg (swapping .verify) true) arr.n = true) ∧
    (let s := mgmt { swapping .verify with seq := { (swapping .verify).seq with bank1 := romParity2 } } (at_ swapK .swap)
     planPhase s = true ∧ s.seq.swap = some (swapAt .verify) ∧ s.array = some arr ∧
      (swapAt .verify).frame + shadowFrames (activeProg s) (bankProg s true) arr.n ≤ s.clock.frame ∧
      shadowOk (activeProg s) (bankProg s true) arr.n = false ∧ s.taken? (swapAt .verify).ref = some (at_ swapK .swap)) := by
  and_intros <;> decide +kernel

theorem witness_LayoutLoadAndSwapGoStepByStep_fault :
    let ws := (romSpan.map some).set 1 none
    ws[1]? = some none ∧ hdrOk (progHeader (ws.map (·.getD 0))) = true ∧
    (∀ j, j < 1 → (ws.getD j none).isSome = true ∧ (j ≠ 0 → wordFails (ws.map (·.getD 0)) j = false)) := by
  and_intros <;> decide +kernel

def testK (id : W32) : Taken := cmd 0x40 id []
def testingK : Taken := { testK 5 with stage := .selfTest, frame := 50 }
def testOf (id : Nat) : Test := { id := id, repair := false, ref := f0, cx := none, frames := 50 }
def tested (s : State) : State := { mgmt s testingK with test := some (testOf 5) }

theorem witness_SelfTestAndFirmwareCommands :
    (AtVisit (mgmt on (testK 0)) .a 0 0x40 (testK 0) ∧ field (Entry.arg (testK 0).head) 0 8 = 0 ∧
      field (Entry.arg (testK 0x1E).head) 0 8 = 0x1E ∧ testRefused on .a 8 = true ∧ testRefused on .a 1 = false ∧
      testRefused on .a 0x1D = false ∧ on.test = none) ∧
    ((tested on).test = some (testOf 5) ∧ (tested on).taken? f0 = some testingK ∧ testingK.frame + 50 ≤ (tested on).clock.frame ∧
      sigFails (tested on).fuse 5 0x1234 = false ∧ sigFails (tested (grey on)).fuse 5 0x1234 = true) ∧
    (let s := { mgmt on testingK with test := some { testOf 0x16 with repair := true } }
     let fs : List MemFault := [{ id := 0x16, way := 3, rows := [7], cols := [], lost := [] }]
     let mine := (mergeFaults fs).filter fun f => f.id == 0x16 && failing s f
     ((mine.filter (covered s)).flatMap (repairsFor s)).length = 1 ∧ s.fuse.repairs = []) ∧
    storeCheck on = Status.success := by and_intros <;> decide +kernel

/-- The AES-CMAC of the package below under the reset package key. -/
def goodMac : Bytes := [248, 215, 211, 27, 42, 77, 18, 18, 55, 185, 158, 163, 79, 48, 107, 60]
/-- A package of version `ver` with this CMAC and four bytes of image. -/
def package (ver : Nat) (mac : Bytes) : Bytes :=
  leBytes 4 0xA636 ++ leBytes 4 ver ++ leBytes 4 4 ++ zeros 4 ++ mac ++ zeros 32 ++ [1, 2, 3, 4]
def fwK : Taken :=
  { took { dw := [0x41, 0, 0, 0, 0, 0, 4, 0, 68, 0, 0, 0, 0, 0, 0, 0] } with param := some (dwBytes handle) }
def fwS (bs : Bytes) : State :=
  mgmt { held with root := Memory.write on.root 0x10 (leBytes 4 2), staging := { held.staging with mem := Memory.write [] (128 * 16384) bs } } fwK
def formed (bs : Bytes) : Prop :=
  dwOf (slice bs 0 4) = 0xA636 ∧ (dwOf (slice bs 8 4)).toNat = 4 ∧ bs.length = 68 ∧ dwOf (slice bs 12 4) = 0 ∧
    (slice bs 32 32).all (· == 0) = true

theorem witness_SelfTestAndFirmwareCommands_package :
    AtVisit (fwS (package 2 (zeros 16))) .a 0 0x41 fwK ∧
    packageHandles fwK = [handle] ∧ handleCheck (fwS (package 2 (zeros 16))) .a handle = Status.success ∧
    formed (package 2 (zeros 16)) ∧ rollback (fwS (package 2 (zeros 16))) = 2 ∧
    (dwOf (slice (package 1 (zeros 16)) 4 4)).toNat < 2 ∧ ¬ formed (zeros 68) := by
  unfold formed
  decide +kernel

/-- The bytes of the package are those written at its buffer. -/
theorem witness_SelfTestAndFirmwareCommands_bytes :
    packageBytes (fwS (package 2 goodMac)) (packageHandles fwK) 68 = package 2 goodMac := by
  have h : packageHandles fwK = [handle] := by decide +kernel
  simp only [packageBytes, h, List.flatMap_cons, List.flatMap_nil, List.append_nil, Memory.read]
  rw [← List.map_take, List.take_range]
  decide +kernel

theorem witness_SelfTestAndFirmwareCommands_mac :
    cmac on.fuse.pkgKey ((package 2 goodMac).take 16 ++ (package 2 goodMac).drop 64) = slice (package 2 goodMac) 16 16 := by
  decide +kernel

theorem witness_SelfTestAndFirmwareCommands_acts :
    let s := mgmt held (at_ fwK .commit)
    ActsOn s (released s (.install .b img)) .a 0 (at_ fwK .commit) (.install .b img) := acts_mgmt _ _ _ rfl

def auxK (sub d : W32) : Taken := cmd 0x4D sub [d]
def alarmK (sub d : W32) : Taken := cmd 0x4E sub [d]
def own (c : BitVec 4) : State := { on with mode := { on.mode with auxOwn := on.mode.auxOwn.set 3 c } }
def cmp (u : BitVec 4) (t o : Nat) : Option Acmp := some { user := u, target := some t, obj := o }
def use (l : Vector (Option Acmp) 4) : State := { on with mode := { on.mode with acmp := l } }
def full3 : State := use #v[cmp 3 9 1, cmp 3 9 2, cmp 2 9 0, none]
/-- Comparators of users 4, 5 and 1 have matched. -/
def fired : State := use #v[cmp 4 0 0, cmp 5 0 0, none, cmp 1 0 0]

theorem witness_PinsAndAlarmsBelongToTheirUsers :
    (AtVisit (mgmt (own 1) (auxK 1 1)) .a 0 0x4D (auxK 1 1) ∧ Entry.subop (auxK 1 1).head = 1 ∧ auxOwns (own 1) 1 = true ∧
      AtVisit (mgmt on (auxK 1 1)) .a 0 0x4D (auxK 1 1) ∧ auxOwns on 1 = false) ∧
    (AtVisit (mgmt (own 2) (auxK 2 0)) .a 0 0x4D (auxK 2 0) ∧ Entry.subop (auxK 2 0).head = 2 ∧ auxOwns (own 2) 2 = true ∧
      AtVisit (mgmt on (auxK 2 0)) .a 0 0x4D (auxK 2 0) ∧ auxOwns on 2 = false) ∧
    (AtVisit (mgmt on (alarmK 1 7)) .a 0 0x4E (alarmK 1 7) ∧ Entry.subop (alarmK 1 7).head = 1 ∧
      (Entry.a (alarmK 1 7).head 0).toNat ≠ 0 ∧ on.mode.acmp.toList.getD 0 none = none ∧ acmpOf on 5 (alarmObj .a) = none) ∧
    (AtVisit (mgmt full3 (alarmK 3 7)) .a 0 0x4E (alarmK 3 7) ∧ Entry.subop (alarmK 3 7).head = 3 ∧
      (∀ j : Fin 3, (full3.mode.acmp.toList.getD j.val none).isSome = true) ∧ full3.mode.acmp.toList.getD 3 none = none ∧
      acmpOf full3 4 (alarmObj .a) = none) ∧
    (AtVisit (mgmt on (alarmK 1 0)) .a 0 0x4E (alarmK 1 0) ∧ AtVisit (mgmt on (alarmK 3 0)) .a 0 0x4E (alarmK 3 0) ∧
      AtVisit (mgmt fired (alarmK 2 0)) .a 0 0x4E (alarmK 2 0) ∧ AtVisit (mgmt fired (alarmK 4 0)) .a 0 0x4E (alarmK 4 0)) ∧
    (anyFired fired 5 = true ∧ anyFired fired 4 = true ∧ anyFired fired 1 = true ∧ fired.mode.plan = none) := by
  and_intros <;> decide +kernel

theorem witness_PinsAndAlarmsBelongToTheirUsers_acts :
    (let s := mgmt on (at_ (auxK 1 1) .commit)
     ActsOn s (released s (.gpioOut true)) .a 0 (at_ (auxK 1 1) .commit) (.gpioOut true)) ∧
    (∀ u : BitVec 4, let s := mgmt full3 (at_ (alarmK 3 7) .commit)
     ActsOn s (released s (.setAlarm u 7)) .a 0 (at_ (alarmK 3 7) .commit) (.setAlarm u 7)) ∧
    (let s := mgmt fired (at_ (alarmK 2 0) .commit)
     ActsOn s (released s (.cancelAlarm 5)) .a 0 (at_ (alarmK 2 0) .commit) (.cancelAlarm 5)) ∧
    (acmpOf fired 5 (alarmObj .a) = some 1 ∧
      (let s := use #v[cmp 3 9 1, cmp 3 9 2, cmp 2 9 0, cmp 4 9 1]
       acmpOf s 4 (alarmObj .a) = none ∧ ∀ n : Fin 4, ∃ x ∈ s.mode.acmp.toList.getD n.val none, x.user.toNat ≤ 4)) :=
  ⟨acts_mgmt _ _ _ rfl, fun _ => acts_mgmt _ _ _ rfl, acts_mgmt _ _ _ rfl, by decide +kernel⟩

def crsS : State := { on with portA := { host with crs := true } }
def perstS : State := { on with portA := { host with perst := true } }

theorem witness_PortResetsClearOneSide :
    (portEnabled on .a = true ∧ portEnabled on .b = true ∧ (on.port .a).perst = false ∧ linkLive on .a = true ∧
      (on.port .a).crs = false ∧ (on.port .a).relReq = none ∧
      (on.port .b).relReq = none) ∧
    (let k := at_ (cmd 0x15 0 []) .exec
     let s := { mgmt on k with portB := { host with cstate := .hold, relReq := some (99, some f0) } }
     (s.port .b).relReq = some (99, some f0) ∧ f0.p ≠ .b ∧ s.taken? f0 = some k ∧ k.stage ≠ .finished) ∧
    (crsS.port .a).crs = true ∧
    (portEnabled perstS .a = true ∧ (perstS.port .a).perst = true ∧ perstS.mode.mode ≠ .drowse ∧
      (modeOf perstS .drowse).mode.mode = .drowse ∧ (modeOf perstS .drowse).mode.plan = none) := by decide +kernel

/-- ASPM and L1.2 enabled, and no ring running. -/
def aspm : PortSt :=
  { host with cfg := { host.cfg with aspmL1 := true, l12En := true }, rings := Vector.replicate 64 Ring.init }
def linkS (q : PortSt) : State := { on with portA := q }
def d3S : State := phaseOf (linkS { host with d3Pend := true }) .commit
def reading : State :=
  (mgmt on { cmd 0x10 0 [] with stage := .hostData, issued := some 99 }).modPort .a fun q =>
    { q with reads := [{ owner := .entry f0, addr := 0, len := 512, tag := some 0 }] }
/-- A link in L1 whose latency tolerance is above, or at, its L1.2 threshold. -/
def tolerant : PortSt := { aspm with l1 := true, ltr := 1 }
def strict : PortSt := { tolerant with cfg := { aspm.cfg with l12Thr := BitVec.ofNat 13 (1023 + 7 * 1024) } }
def l12S : State := linkS { aspm with l1 := true, l12 := true }
/-- Vector 3 has a cause that is due. -/
def msg (en masked bme : Bool) : State :=
  { due with portA := { host with
      cfg := { host.cfg with msixEn := en, bme := bme },
      msix := host.msix.set 3 { addr := 0xFEE00000, data := 0x41, masked := masked },
      causes := host.causes.set 3 { n := 1, first := 100, urgent := true } } }
def ltrS : State := { due with portA := { host with cfg := { host.cfg with ltrEn := true }, ltrFrame := some 36 } }

theorem witness_LinkEventsAndMessagesOfAPort :
    (linkLive on .a = true ∧ (on.port .a).crs = false ∧ (on.port .a).d3 = false) ∧
    (let s := linkS { host with linkUp := false }
     portEnabled s .a = true ∧ (s.port .a).phy = true ∧ (s.port .a).perst = false ∧ (s.port .a).linkUp = false) ∧
    (d3S.clock.phase = .commit ∧ (d3S.port .a).d3Pend = true ∧ portQuiet (d3S.port .a) = true) ∧
    portQuiet (reading.port .a) = false ∧
    (linkLive (linkS { host with d3 := true }) .a = true ∧ ((linkS { host with d3 := true }).port .a).d3 = true) ∧
    (linkLive (linkS aspm) .a = true ∧ aspm.cfg.aspmL1 = true ∧ aspm.l1 = false ∧ aspm.reads = [] ∧ aspm.lastTlp = none ∧ aspm.cstate = .run ∧
      pollSoon (linkS aspm) .a = false) ∧
    (linkLive (linkS tolerant) .a = true ∧ tolerant.l1 = true ∧ tolerant.l12 = false ∧ tolerant.d3 = false ∧
      tolerant.cfg.l12En = true ∧ tolerant.ltr ≠ 0 ∧
      (tolerant.cfg.l12Thr.extractLsb' 0 10).toNat * 32 ^ (tolerant.cfg.l12Thr.extractLsb' 10 3).toNat <
        (ltrCode tolerant.ltr).1 * 32 ^ (ltrCode tolerant.ltr).2 ∧
      (ltrCode strict.ltr).1 * 32 ^ (ltrCode strict.ltr).2 ≤
        (strict.cfg.l12Thr.extractLsb' 0 10).toNat * 32 ^ (strict.cfg.l12Thr.extractLsb' 10 3).toNat) ∧
    (configOpen on .a = true ∧ configOpen (linkS { host with crs := true }) .a = false ∧ configOpen due .a = true ∧
      configOpen d3S .a = true ∧ strict.cfg.l11En = false ∧
      (let q := { strict with cfg := { strict.cfg with l11En := true } }
       linkLive (linkS q) .a = true ∧ q.l1 = true ∧ q.l12 = false ∧ q.d3 = false)) ∧
    ((l12S.port .a).l12 = true ∧ l12S.mode.mode ≠ .drowse ∧ ((modeOf l12S .drowse).port .a).l12 = true ∧ l12S.mode.plan = none) ∧
    ((msg true false true).clock.phase = .commit ∧ portEnabled (msg true false true) .a = true ∧
      messageDue ((msg true false true).port .a) 3 100 = true ∧ ((msg true false true).port .a).msix[3].addr.toNat % 4 = 0 ∧
      vecMasked ((msg true false true).port .a) 3 = false ∧ (msg true false true).mode.mode ≠ .start ∧
      masters ((msg true false true).port .a) 100 = true ∧ ((msg true false true).port .a).withheld = [] ∧
      vecMasked ((msg true true true).port .a) 3 = true ∧ messageDue ((msg true true true).port .a) 3 100 = true ∧
      messageDue ((msg false true true).port .a) 3 100 = true) ∧
    (linkLive ltrS .a = true ∧ (ltrS.port .a).cfg.ltrEn = true ∧ (ltrS.port .a).cstate = .run ∧ ltrS.mode.mode ≠ .start ∧ ltrS.mode.mode ≠ .lockdown ∧
      ltrLevel ltrS .a ≠ 0 ∧ ltrLevel ltrS .a ≠ (ltrS.port .a).ltr ∧ 36 + 64 ≤ ltrS.clock.frame) := by
  and_intros <;> decide +kernel

def frozen (st : CState) : State :=
  { due with portA := { host with cstate := st, contFrame := 98, quietAt := some 99, relReq := some (99, none) } }
def relK : Taken := cmd 0x15 1 []

theorem witness_ContainmentHoldsOnePortUntilItsRelease :
    (linkLive on .a = true ∧ (on.port .a).cstate = .run ∧ (uncorBit .dataLink).2 = some 1 ∧ (uncorBit .internal).2 = some 9 ∧
      PortErr.dataLink ≠ .correctable .receiver ∧ (on.port .b).relReq = none) ∧
    (let a := at_ { took (ioEntry 2 1 0) with i := 1 } .hostData
     let b := at_ { took (ioEntry 2 1 8) with i := 2, committed := true } .destage
     let s := on.modRing .a 1 fun q => { q with taken := [a, b] }
     s.taken? { p := .a, r := 1, i := 1 } = some a ∧ a.done = false ∧ a.committed = false ∧ a.stage ≠ .journal ∧
      a.stage ≠ .finished ∧ a.stage ≠ .dropped ∧ (s.ring .a 1).state ≠ .resetting ∧
      s.taken? { p := .a, r := 1, i := 2 } = some b ∧ b.committed = true) ∧
    (linkLive reading .a = true ∧ readsOut (reading.port .a) ≠ 0 ∧ (reading.port .a).cstate = .run) ∧
    (((frozen .freeze).port .a).cstate = .freeze ∧ containedQuiet ((frozen .freeze).port .a) = true ∧
      gateOpen (frozen .freeze) = true ∧ quietSince ((frozen .freeze).port .a) (frozen .freeze).clock.frame = true) ∧
    (((frozen .hold).port .a).cstate = .hold ∧ ((frozen .hold).port .a).relReq = some (99, none) ∧
      masters ((frozen .hold).port .a) 100 = true ∧ ((frozen .hold).ring .a 0).state = .run) ∧
    (due.port .a).relReq = none ∧
    (∀ r ∈ [none, some (100, none), some (99, none)],
      let s := mgmt { on with portB := { host with cstate := .hold, relReq := r } } relK
      AtVisit s .a 0 0x15 relK ∧ s.mode.mode ≠ .freeze ∧ s.mode.mode ≠ .lockdown ∧ (Entry.arg relK.head).getLsbD 0 = true ∧
        portEnabled s .b = true ∧ (s.port .b).cstate = .hold ∧ (s.port .b).linkUp = true ∧ (s.port .b).relReq = r ∧
        (portOrder s.clock.frame).head? = some .a) ∧
    (AtVisit (mgmt on relK) .a 0 0x15 relK ∧ ((mgmt on relK).port .b).cstate ≠ .hold ∧
      AtVisit (mgmt (modeOf on .lockdown) relK) .a 0 0x15 relK) := by and_intros <;> decide +kernel

/-- Of the messages withheld in HOLD, that of a masked vector has lost its cause (04 R130). -/
theorem witness_ContainmentHoldsOnePortUntilItsRelease_message :
    let w : HostWrite := { kind := .message, addr := 0xFEE00000, data := zeros 4, vec := some 3 }
    let s := (frozen .hold).modPort .a fun q => { q with
      withheld := [w], cfg := { q.cfg with msixEn := true }, msix := q.msix.set 3 { addr := 0xFEE00000, data := 0, masked := true } }
    w ∈ (s.port .a).withheld ∧ w.kind = .message ∧ w.vec = some 3 ∧ (s.port .a).cfg.msixEn = true ∧
      vecMasked (s.port .a) 3 = true := by decide +kernel

/-- The first `n` slots are powered members. -/
def warm (n : Nat) : State := { on with slots := Vector.ofFn fun (i : Fin 6) => if i.val < n then ready else SlotSt.init }
def waiting : State := slotIs on 3 { SlotSt.init with present := true, state := .bringup, step := 2, waiting := true }
def up (n : Nat) : State := slotIs on 3 { ready with state := .bringup, step := n, drive := none }
def upStart : State := { startAt .s6 with slots := (up 7).slots, array := some arr }
def formatting : State :=
  slotIs on 3 { ready with state := .spare, format := true, drive := some { drive with formatOk := false } }
def formatK : Taken := at_ (cmd 0x23 0x0F0003 [4096]) .format
def down (n : Nat) : State := slotIs on 3 { ready with state := .failed, pd := some { step := n, due := none } }
def order (sl : SlotN) (c : MemberCmd) (o : MOwner) : MOrder :=
  { id := 5, slot := sl, cmd := c, owner := o, retried := false, held := false, sent := some 99 }

/-- Slot 4's drive begins its bring-up. -/
def starting1 (s : State) : State :=
  slotIs s 4 { SlotSt.init with present := true, state := .bringup, step := 2, starting := some none }
/-- The state in frame 60 000, the lease renewed. -/
def later (s : State) : State := { s with clock := { s.clock with frame := 60000 }, cx := { s.cx with expiry := 61000 } }

theorem witness_SlotsComeUpAndGoDownInOrder :
    (presenceActs on = true ∧ on.mode.mode ≠ .drowse ∧ (on.slot 4).present = false ∧ (on.slot 4).state ≠ .member ∧
      presenceActs (warm 4) = true ∧ ((warm 4).slot 5).present = false ∧
      on.start.memberBad.getLsbD 4 = false ∧ { on.start with memberBad := 0x10 }.memberBad.getLsbD 4 = true) ∧
    (let s := slotIs on 4 spare
     presenceActs s = true ∧ (s.slot 4).present = true ∧ posOfSlot s 4 = none) ∧
    ((waiting.slot 3).waiting = true ∧ railFits waiting = true ∧
      ∀ n : SlotN, n.val < (3 : SlotN).val → (waiting.slot n).waiting = false) ∧
    ((∀ x ∈ [starting1 (warm 3), starting1 (warm 4)],
        (x.slot 4).starting = some none ∧ ∀ n, (x.slot n).pd = none ∧ (n ≠ 4 → (x.slot n).starting = none)) ∧
      railFits (starting1 (warm 3)) = true ∧ railFits (starting1 (warm 4)) = false ∧
      (let s := slotIs (starting1 (warm 3)) 5 { SlotSt.init with present := true, state := .bringup, step := 2, starting := some none }
       railFits s = true ∧ (s.slot 4).starting = some none ∧ (s.slot 5).starting = some none ∧
        ∀ x, (s.slot x).pd = none ∧ (x ≠ 4 → x ≠ 5 → (s.slot x).starting = none)) ∧
      (let s := slotIs (down 0) 4 { ready with state := .failed, pd := some { step := 1, due := none } }
       (s.slot 3).pd = some { step := 0, due := none } ∧ (s.slot 4).pd = some { step := 1, due := none } ∧
        ∀ x, (s.slot x).starting = none ∧ (x ≠ 3 → x ≠ 4 → (s.slot x).pd = none))) ∧
    (waiting.mode.mode ≠ .start ∧
      (let s := { inStart .s6 .intake with
         slots := (slotIs (slotIs on 3 { SlotSt.init with present := true, state := .bringup, step := 2, waiting := true }) 4
           { ready with state := .bringup, step := 4 }).slots }
       let s := { s with start := { s.start with s6Slots := 0x18 } }
       runsS6 s = true ∧ othersFinished s 3 = false ∧ (s.slot 3).waiting = true)) ∧
    (((up 2).slot 3).state = .bringup ∧ ((up 2).slot 3).rail = true ∧ ((up 2).slot 3).step = 2 ∧
      ((up 3).slot 3).step = 3 ∧ ((up 4).slot 3).step = 4 ∧ ((up 5).slot 3).step = 5 ∧ ((up 6).slot 3).step = 6 ∧
      ((up 7).slot 3).step = 7) ∧
    (drive.queues ≠ 0 ∧ 64 < drive.blocks ∧ drive.formatOk = true ∧ posOfSlot (up 6) 3 = none) ∧
    (posOfSlot upStart 3 = none ∧ upStart.mode.mode = .start ∧ upStart.start.halt = false ∧ (upStart.slot 3).step = 7 ∧ (upStart.slot 3).state = .bringup) ∧
    (((up 4).slot 3).retried = false ∧ ((up 5).slot 3).step ≠ 4 ∧ posOfSlot (up 5) 3 = none ∧
      ((up 3).slot 3).since + 10000 ≤ (later (up 3)).clock.frame ∧ (up 3).clock.frame < ((up 3).slot 3).since + 10000 ∧
      ((later (up 4)).slot 3).since + 10000 ≤ (later (up 4)).clock.frame ∧ stepOver (up 5) 3 = true ∧
      stepOver (later (up 6)) 3 = true ∧ posOfSlot (up 7) 3 = none ∧ stepOver (up 6) 3 = false) ∧
    ((formatting.slot 3).format = true ∧ (formatting.slot 3).drive = some { drive with formatOk := false } ∧
      ((mgmt formatting formatK).ring .a 0).taken = [formatK] ∧ formatK.i = 0 ∧ formatK.stage = .format) ∧
    (((down 0).slot 3).pd = some { step := 0, due := none } ∧
      (let s := fun n due => slotIs on 3 { ready with state := .failed, pd := some { step := n, due := some due } }
       ((s 1 101).slot 3).pd = some { step := 1, due := some 101 } ∧ (s 1 101).clock.frame < 101 ∧
        (∀ n ∈ [0, 1, 2, 3], ((s n 100).slot 3).pd = some { step := n, due := some 100 }) ∧ 100 ≤ (s 0 100).clock.frame ∧
        slotBusy (s 0 100) 3 = false ∧ slotBusy { s 0 100 with morders := [order 3 .flush .none] } 3 = true)) := by and_intros <;> decide +kernel

def item0 : Item := { vol := 1, lbn := 0, pos := 2, d := 4000, data := none, lost := false, solved := false }
def waitK : Taken := at_ { took (ioEntry 1 1 0) with items := [item0] } .reads
/-- The entry waits for its block, and an order to slot 2 is out. -/
def ordered (c : MemberCmd) (o : MOwner) : State := { withEntry due 1 waitK with morders := [order 2 c o] }
def readOut : State := ordered (.read 4064 1) (.item f1 0)
def ladder (r : Nat) : State := slotIs readOut 2 { ready with ladder := some { rung := r, link := false } }

theorem witness_MemberCommandsCompleteOrGoThroughTheLadder :
    let found := fun s : State => s.morders.find? (fun x => x.id == 5 && x.answered s)
    (found readOut = some (order 2 (.read 4064 1) (.item f1 0)) ∧
      readOut.taken? f1 = some waitK ∧ waitK.items[0]? = some item0) ∧
    ((order 2 (.read 4064 1) (.item f1 0)).retried = false ∧ (recent readOut (readOut.slot 2).errs).length < 15) ∧
    (let s := { ordered (.write 64 [1]) (.shift 3 2) with shifts := [{ shift .destage with step := .writes, writesLeft := 1 }] }
     found s = some (order 2 (.write 64 [1]) (.shift 3 2)) ∧ (shift .destage).id = 3) ∧
    (posOfSlot (ordered (.write 64 [1]) .none) 2 = some 2 ∧
      found (ordered (.write 64 [1]) .none) = some (order 2 (.write 64 [1]) .none)) ∧
    ((readOut.slot 2).ladder = none ∧ slotBusy readOut 2 = true ∧ posOfSlot readOut 2 = some 2 ∧
      (recent readOut (readOut.slot 2).rungs).length < 3 ∧ (readOut.slot 2).state = .member ∧ (readOut.slot 2).step = 8) ∧
    (((ladder 2).slot 2).ladder = some { rung := 2, link := false } ∧ ((ladder 3).slot 2).ladder = some { rung := 3, link := false } ∧
      posOfSlot (ladder 3) 2 = some 2 ∧ posOfSlot (ladder 2) 2 = some 2 ∧ ((ladder 1).slot 2).ladder = some { rung := 1, link := false } ∧
      posOfSlot (ladder 1) 2 = some 2 ∧ (recent (ladder 1) ((ladder 1).slot 2).rungs).length < 3 ∧
      (recent (ladder 2) ((ladder 2).slot 2).rungs).length < 3 ∧ (ladder 3).array = some arr ∧
      (posEntry arr 2).serial = padTo 20 []) ∧
    (let o := order 2 (.read 4064 2) (.shift 3 2)
     found { due with morders := [o] } = some o ∧ o.retried = false) ∧
    (slotBusy on 2 = false ∧ (on.slot 2).state = .member ∧ (on.slot 2).step = 8 ∧ (on.slot 2).ladder = none ∧ posOfSlot on 2 = some 2) ∧
    (∀ o ∈ (phaseOf readOut .plan).morders, o.answered (phaseOf readOut .plan) = false) ∧
    ((ordered (.write 64 [1]) .none).morders.find? (fun o => o.slot == 2 && !o.held && o.sent.isSome && match o.cmd with
      | .write .. => true
      | _ => false) = some (order 2 (.write 64 [1]) .none)) := by and_intros <;> decide +kernel

theorem witness_MemberCommandsCompleteOrGoThroughTheLadder_window :
    let o := fun again => { order 2 (.write 4064 (zeros 4096)) (.shift 3 2) with retried := again }
    let s := fun again => { due with morders := [o again], shifts := [{ shift .destage with step := .writes, writesLeft := 1 }] }
    (∀ again, (s again).morders.find? (fun y => y.id == (o again).id && y.answered (s again)) = some (o again)) ∧
    (s true).jnl.lost = [] ∧ 0 < arrayU (s true) ∧ (shift .destage).id = 3 := by
  refine ⟨fun again => ?_, rfl, by decide +kernel, rfl⟩
  simp [order, MOrder.answered, observes, obsFrame, due, phaseOf, on]

theorem witness_ALostMemberLeavesItsPositionMissing :
    (on.array = some arr ∧ LossRow.rail ≠ .smart ∧ posOfSlot on 2 = some 2) ∧
    (((slotIs on 3 spare).slot 3).rail = true ∧ posOfSlot (slotIs on 3 spare) 3 = none) ∧
    ((on.slot 2).state = .member ∧ (on.slot 2).step = 8 ∧ (0xE0 : BitVec 8) &&& ~~~(on.slot 2).smart &&& 0x17 = 0 ∧
      (0xE0 : BitVec 8).getLsbD 3 = false ∧ (8 : BitVec 8).getLsbD 3 = true) ∧
    (recent on (on.slot 2).errs).length < 15 := by and_intros <;> decide +kernel

def old1 : IntentRec := { rec1 with type := .write, count := 1, frame := 1 }
/-- One old write record waits for its destage. -/
def destaging : State :=
  { on with jnl := { on.jnl with recs := [old1], nextSeq := 2, wcUsed := 1 }, clock := { on.clock with frame := 10000 },
            cx := { on.cx with expiry := 20000 } }
def engineArr (k : RbKind) (st : PState) (w : Nat) : ArraySt := { pos1 st with rbKind := k, rbTarget := 1, w := w }
def rebuildS (w : Nat) : State :=
  rebuilding { pool32 (modeOf on .rebuild) (.engine .rebuild) .free with array := some (engineArr .rebuild .rebuildTarget w) }
def resyncArr : ArraySt := engineArr .resync .resyncTarget 0
def resyncS : State :=
  rebuilding { pool32 (modeOf on .rebuild) (.engine .rebuild) .free with
    array := some resyncArr, jnl := { on.jnl with bitmap := { g := 3, active := true, ag := 1, bits := [5] } } }
def scrubS : State := scrubbing (pool8 on (.engine .scrub) .free)

theorem witness_EnginesStartShiftsAtTheirWatermarks :
    (planPhase destaging = true ∧ planPhase (rebuildS 7) = true ∧ planPhase resyncS = true ∧ planPhase scrubS = true) ∧
    (destageMode destaging = true ∧ destaging.array.isSome = true ∧ contextFree destaging false = true ∧
      nextWindow destaging = some (1000, 0, 1) ∧ destaging.shifts = [] ∧ 3 ≤ freeRecs destaging ∧
      freeRecs { destaging with jnl := fullJnl } < 3) ∧
    (engineMode (rebuildS 7) = true ∧ (rebuildS 7).eng.rebuild.running = true ∧ (rebuildS 7).eng.rebuild.paused = false ∧
      (rebuildS 7).eng.rebuild.stop = false ∧ testing (rebuildS 7) 0x0F = false ∧ contextFree (rebuildS 7) false = true ∧
      7 < arrayRows (rebuildS 7) ∧ (rebuildS 7).eng.rebuild.next < arrayU (rebuildS 7) ∧
      windowFree (rebuildS 7) 7 0 (min 16 (arrayU (rebuildS 7))) = true ∧ arrayRows (rebuildS 25000) ≤ 25000 ∧ engineMode on = false ∧
      (rebuildS 7).mode.mode ≠ .online ∧ (rebuildS 7).mode.mode ≠ .locked) ∧
    (engineMode resyncS = true ∧ contextFree resyncS false = true ∧ nextRow resyncS resyncArr 0 = 40 ∧ 40 < arrayRows resyncS ∧
      0 < arrayU resyncS ∧ windowFree resyncS 40 0 (min 16 (arrayU resyncS)) = true) ∧
    (let s := scrubS
     s.eng.scrub.running = true ∧ s.eng.scrub.paused = false ∧ s.eng.scrub.stop = false ∧ s.mode.mode = .online ∧
      contextFree s false = true ∧ s.eng.scrub.next < arrayU s ∧ arr.scRow < arrayRows s ∧
      windowFree s arr.scRow s.eng.scrub.next (min 16 (arrayU s - s.eng.scrub.next)) = true) := by
  and_intros <;> decide +kernel

/-- A resync whose watermark stands at a marked row. -/
def resyncAt : State :=
  { resyncS with array := some { resyncArr with w := 40 }, eng := { resyncS.eng with rebuild := run } }

theorem witness_EnginesStartShiftsAtTheirWatermarks_tables :
    ((nextWindow destaging).isSome = true ∧ destaging.seq.active = some false) ∧
    ((rebuildS 7).seq.active = some false ∧ (rebuildS 7).array.isSome = true) ∧
    (engineMode resyncAt = true ∧ contextFree resyncAt false = true ∧ nextRow resyncAt { resyncArr with w := 40 } 40 = 40 ∧
      40 < arrayRows resyncAt ∧ windowFree resyncAt 40 0 (min 16 (arrayU resyncAt)) = true ∧ resyncAt.seq.active = some false) ∧
    scrubS.seq.active = some false := by and_intros <;> decide +kernel

theorem witness_EnginesStartShiftsAtTheirWatermarks_pool :
    engFed (rebuildS 7) .rebuild = true ∧ engFed resyncS .rebuild = true ∧ engFed resyncAt .rebuild = true ∧
    engFed scrubS .scrub = true := by
  simp only [engFed, engOwn, ownedIdx_length]
  and_intros <;> decide +kernel

/-- Position 2's block 4000, of which one line of the cache holds the second quarter-KiB. -/
def faulty : CLine := { line false 1 4000 with set := (16 * 4000 + 171 * 2 + 1) % 1024, data := zeros 256 }
def faultS (s : State) : State := { s with cache := { s.cache with lines := [faulty] }, shifts := [{ shift .check with step := .writes }] }

theorem witness_CacheMaintenanceAndErrors_errors :
    ((faultS on).shifts.find? (fun z => z.id == 3) = some { shift .check with step := .writes } ∧
      { shift .check with step := .writes }.step ≠ .reads) ∧
    (faulty ∈ (faultS on).cache.lines ∧ ∀ z ∈ (faultS on).cache.lines, z.set = faulty.set → z.way = faulty.way → z = faulty) ∧
    (faulty.sv.getLsbD 3 = true ∧ faulty.index = 1 ∧ faulty.data.length = 256 ∧ faulty.way < 16) ∧
    journalBlock (faultS on) faulty.pos faulty.d = none ∧
    (journalBlock (faultS (withRec on)) faulty.pos faulty.d).isSome = true := by
  and_intros <;> decide +kernel

theorem witness_CacheMaintenanceAndErrors_length (s : State) (i : Nat) : (recBlock s rec1 i).length = blockBytes := by
  simp [recBlock, rec1, zeros]

def shifting (x : Shift) : State := { on with shifts := [x] }
/-- A shift that waits for charges; one whose writes are observed. -/
def waitingShift (pu : Purpose) (need : Nat) : Shift := { shift pu with step := .compute, need := need }
def writtenShift (pu : Purpose) : Shift := { shift pu with step := .writes, endAt := 100 }
def ending (pu : Purpose) : State := { due with shifts := [writtenShift pu] }
def solving : Shift :=
  { waitingShift .recon 1 with
    row := 1000, w := 1, got := [{ pos := 0, blocks := [some [1]] }, { pos := 1, blocks := [some [3]] }], out := [2],
    desc := { lanes := [.data 1, .red 0, .data 0], c0 := [1, 1], c1 := [] } }
def degraded : State :=
  { withEntry (modeOf on .degraded) 1 waitK with
    shifts := [solving], array := some { arr with ptab := arr.ptab.set 2 { posAt 2 with state := .missing } } }
def asked (s : State) (n : Nat) : State := { s with eng := { s.eng with scrub := { run with asked := n } } }

theorem witness_ShiftsComputeAndBuffersReturn :
    (let x := shift .destage
     planPhase (shifting x) = true ∧ (shifting x).shifts.find? (fun y => y.id == x.id) = some x ∧ x.step = .reads ∧ x.wait = [] ∧
      (∀ r ∈ x.reads, x.badRole r = false) ∧ x.toRead = []) ∧
    (let x := shift .check
     x.step = .reads ∧ x.wait = [] ∧ (∀ r ∈ x.reads, x.badRole r = false) ∧ x.toRead ≠ []) ∧
    (let x := { shift .destage with rmw := true, out := [2] }
     x.step = .reads ∧ x.wait = [] ∧ x.purpose = .destage ∧ ∃ r ∈ x.reads, x.badRole r = true) ∧
    (planPhase due = false ∧ ∀ y ∈ (shifting (shift .destage)).shifts, y.id = 4 → y.step ≠ .reads ∨ y.wait ≠ []) ∧
    ShiftAlone (shifting (waitingShift .destage 40)) (waitingShift .destage 40) ∧
    (let x := { waitingShift .destage 8 with rmw := true, rowDurable := false }
     ShiftAlone (shifting x) x ∧ x.need ≤ 32 ∧ ∀ r ∈ x.reads, x.badRole r = false) ∧
    (ShiftAlone degraded solving ∧ solving.need ≤ 32 ∧ (solving.old 0).isSome = true ∧
      (reconBacks degraded solving ((solving.old 0).getD [])) = [] ∧ degraded.taken? f1 = some waitK ∧
      waitK.items = [item0] ∧ item0.data = none ∧ item0.d = areaBlock degraded solving.row solving.b0 ∧ 0 ∈ solving.dataIdx ∧
      solving.pos (.data 0) = some 2 ∧ ∀ l ∈ solving.dataIdx, solving.pos (.data l) = some 2 → l = 0) ∧
    (let s := modeOf (shifting (waitingShift .check 8)) .locked
     ShiftAlone s (waitingShift .check 8) ∧ s.mode.mode = .locked) := by and_intros <;> decide +kernel

theorem witness_ShiftsComputeAndBuffersReturn_ends :
    (∀ pu ∈ [Purpose.recon, .rebuild, .destage], AtItsEnd (ending pu) (writtenShift pu)) ∧
    ((rebuildS 0).array = some (engineArr .rebuild .rebuildTarget 0) ∧
      (writtenShift .rebuild).row = (engineArr .rebuild .rebuildTarget 0).w ∧
      { writtenShift .rebuild with w := 2 }.b0 + 2 < arrayU (rebuildS 0) ∧ (rebuildS 0).eng.rebuild.stop = false ∧
      (rebuildS 0).eng.scrub.stop = false) ∧
    (let s := { due with shifts := [{ shift .check with step := .writes, endAt := 101 }] }
     s.shifts.find? (fun y => y.id == 3) = some { shift .check with step := .writes, endAt := 101 } ∧ s.clock.frame < 101) ∧
    (let s := asked (pool8 on (.engine .scrub) .free) 1
     engAtBoundary s .scrub = true ∧ engOn s .scrub = true ∧ engAsked s .scrub ≠ 0) ∧
    (engAtBoundary (pool8 on (.engine .scrub) .free) .scrub = true ∧ engOn (pool8 on (.engine .scrub) .free) .scrub = false) := by
  and_intros <;> decide +kernel

theorem witness_ShiftsComputeAndBuffersReturn_pool :
    (ownedIdx (pool8 on (.engine .scrub) .free) (.engine .scrub)).length < 1 + engMinimum .scrub ∧
    1 + engMinimum .scrub ≤ (ownedIdx (pool9 on (.engine .scrub) .free) (.engine .scrub)).length ∧
    0 < (ownedIdx (pool8 on (.engine .scrub) .free) (.engine .scrub)).length := by
  rw [ownedIdx_length, ownedIdx_length]
  decide +kernel

/-- A solve of the sealed block of a READ: its block failed its tag. -/
def untagged : Shift := { waitingShift .recon 1 with got := [], out := [0] }
def failedItem : Item :=
  { vol := 0, lbn := 0, pos := 0, d := 0, data := none, lost := true, solved := false, retag := some (1, zeros 8) }
def failedK : Taken := at_ { took (ioEntry 1 0 0) with items := [failedItem] } .reads
def failedS : State := { withEntry on 1 failedK with shifts := [untagged] }

theorem witness_ShiftsComputeAndBuffersReturn_solves :
    (ShiftAlone failedS untagged ∧ untagged.need ≤ 32 ∧ untagged.purpose = .recon ∧ untagged.old 0 = none ∧
      (failedS.ring f1.p f1.r).taken = [failedK] ∧ failedK.i = f1.i ∧ failedK.stage = .reads ∧
      failedK.items = [failedItem] ∧ failedItem.data = none ∧ failedItem.lost = true ∧ failedItem.retag = some (1, zeros 8) ∧
      failedItem.d = areaBlock failedS untagged.row untagged.b0) ∧
    (let x := { shift .recon with step := .aborted, endAt := 100 }
     let s := { due with shifts := [x] }
     s.clock.phase = .commit ∧ s.clock.cancelled = false ∧ s.shifts.find? (fun y => y.id == x.id) = some x ∧ x.endAt ≤ s.clock.frame) ∧
    (let x := { shift .destage with step := .record, rowDurable := true, rowAt := 100 }
     x.step = .record ∧ x.rowDurable = true ∧ x.solvedWait = false ∧ on.clock.frame ≤ x.rowAt) := by
  and_intros <;> decide +kernel

def tagOf : TagEnt := { line := 0, seq := 1, vol := 0, lbn := 3, ctr := 1, tag := zeros 8, frame := 90 }
/-- A sealed volume of 200 blocks with one entry in the tag log, in Locked. -/
def folding : State :=
  { modeOf on .locked with
    array := some { arr with vtab := arr.vtab.set 0 (vol true 0 200 0) }, tags := { SealSt.init with tagLog := [tagOf], head := 1 } }
/-- Its bank's root has a version, and no medium gives the node it covers. -/
def unreadable : State := { folding with root := Memory.write folding.root (rootBank 0 false) (leBytes 8 5) }
def foldOf (s : State) : Option (List NodeState) := foldNodes s 0 200 (zeros 32) [] (unfolded s 0)

theorem witness_FoldsCarryTagsIntoTheTree :
    (planPhase folding = true ∧ foldDue folding 0 = true ∧ volOf folding 0 = some (vol true 0 200 0) ∧
      treeKeyOf folding 0 = some (zeros 32) ∧ (vol true 0 200 0).stale = false) ∧
    ((foldOf folding).map (fun ns => foldRoom folding (ns.length + 1) &&
      (ns.find? (fun n => n.level + 1 == (treeLevels 200).length)).isSome) = some true) ∧
    (planPhase unreadable = true ∧ foldDue unreadable 0 = true ∧ volOf unreadable 0 = some (vol true 0 200 0) ∧
      treeKeyOf unreadable 0 = some (zeros 32) ∧ (foldOf unreadable).isNone = true) ∧
    (planPhase (phaseOf folding .intake) = false ∧ foldDue on 0 = false) ∧
    (on.jnl.commitNo + on.jnl.inflight.length + 1 < 2 ^ 64 ∧ (zeros 8).length = 8) ∧
    (let c := commit (.fold 0 5 (zeros 8))
     let s := { flying (.fold 0 5 (zeros 8)) with tags := { folding.tags with folding := [{ vol := 0, seqs := [], old := (4, zeros 8) }] } }
     s.jnl.inflight = [c, commit .none] ∧ c.answered s = true ∧
      s.tags.folding.find? (fun f => f.vol == 0) = some { vol := 0, seqs := [], old := (4, zeros 8) }) := by
  and_intros <;> decide +kernel

/-- The rekey of volume 1 runs over eight buffers. -/
def rekeyS (e : RekeySt) : State :=
  { pool8 on (.engine .rekey) .free with
    array := some rekeying, keys := { on.keys with shadow := on.keys.shadow.set 1 (some keys) },
    eng := { on.eng with rekey := e } }
def rekey0 : RekeySt := { on.eng.rekey with running := true, vol := 1 }
def stepOf (need : Nat) : RekeySt := { rekey0 with inStep := true, need := need, moved := [(0, [1])] }

/-- The step's block is decrypted, and its encryption waits for `n` charges. -/
def crypting (n : Nat) : RekeySt := { stepOf n with encrypts := true, ctrs := [0] }

theorem witness_RekeyStepsThroughTheVolume :
    ((rekeyS rekey0).array = some rekeying ∧ volOf (rekeyS rekey0) 1 = some one ∧ (rekeyS rekey0).keys.prim[1] = some keys ∧
      (rekeyS rekey0).keys.shadow[1] = some keys ∧ (rekeyS rekey0).clock.phase = .plan ∧ anyPlanning (rekeyS rekey0).cx = true ∧
      rekeying.rekey.state = 1 ∧ rekey0.sent = false ∧ rekey0.b < one.size) ∧
    (rekey0.inStep = false ∧ rekey0.paused = false ∧ rekeyMode (rekeyS rekey0) = true ∧ one.deleting = false) ∧
    ((stepOf 64).encrypts = false ∧ (stepOf 0).encrypts = false ∧ (crypting 40).encrypts = true ∧ 32 < (crypting 40).need ∧
      (rekeyS (stepOf 64)).shifts = [] ∧ entryWork (rekeyS (stepOf 64)) .a = [] ∧ entryWork (rekeyS (stepOf 64)) .b = [] ∧
      guarantee (rekeyS (stepOf 64)) (some .a) + guarantee (rekeyS (stepOf 64)) (some .b) + guarantee (rekeyS (stepOf 64)) none ≤ 32 ∧
      engGuarantee (rekeyS (stepOf 64)) .rekey ≤ 32) ∧
    (volOf (rekeyS (stepOf 64)) 1 = some one ∧ (stepOf 64).need ≠ 0 ∧ (stepOf 0).need = 0 ∧
      (crypting 1).encrypts = true ∧ (crypting 1).inStep = true ∧ (crypting 1).sent = false ∧ (crypting 1).need ≤ 32 ∧
      (crypting 1).ctrs.length = (crypting 1).moved.length ∧ (rekeyS (crypting 1)).shifts = [] ∧
      entryWork (rekeyS (crypting 1)) .a = [] ∧ entryWork (rekeyS (crypting 1)) .b = [] ∧
      engGuarantee (rekeyS (crypting 1)) .rekey ≤ 32 ∧
      (crypting 1).moved.length ≤ freeSlots (rekeyS (crypting 1)) ∧ (crypting 1).moved.length ≤ freeRecs (rekeyS (crypting 1)) ∧
      one.isSealed = false) := by and_intros <;> decide +kernel

theorem witness_RekeyStepsThroughTheVolume_pool : engFed (rekeyS rekey0) .rekey = true := by
  simp only [engFed, engOwn, ownedIdx_length]
  decide +kernel

def lockedDown (hard : Bool) : State := { modeOf (grey on) .lockdown with mode := { on.mode with mode := .lockdown, hard := hard } }
/-- A RESET is planned in Lockdown, before or after its commit point. -/
def resetting (before : Bool) : State :=
  let s := mgmt (lockedDown false) (at_ (cmd 0x49 0 []) .transition)
  { s with mode := { s.mode with plan := some { planFor .start .reset with ref := some f0 } }
           gate := { s.gate with orders := if before then [.act f0 .clearLatch] else [] } }

theorem witness_TamperLatchesAndAnswersByDepth :
    tamperActs on .mesh = false ∧
    (aonAlive (grey on) = true ∧ sourceLive (grey on) .mesh = true ∧ tamperActs (grey on) .mesh = true ∧
      tamperHard (grey on) .mesh = true ∧ (grey on).mode.mode = .online ∧ (grey on).err.dbl = false) ∧
    (tamperActs on .temp = true ∧ sourceLive on .temp = true ∧ tamperHard on .temp = false) ∧
    (aonAlive (modeOf (grey on) .vault) = true ∧ sourceLive (modeOf (grey on) .vault) .mesh = true ∧
      tamperActs (modeOf (grey on) .vault) .mesh = true) ∧
    (sourceLive (modeOf on .lockdown) .temp = true ∧ tamperActs (modeOf on .lockdown) .temp = true ∧
      tamperHard (modeOf on .lockdown) .temp = false ∧ resetPlanned (modeOf on .lockdown) = false) ∧
    (∀ hard, aonAlive (lockedDown hard) = true ∧ sourceLive (lockedDown hard) .mesh = true ∧
      tamperActs (lockedDown hard) .mesh = true ∧ tamperHard (lockedDown hard) .mesh = true ∧
      resetPlanned (lockedDown hard) = false ∧ (lockedDown hard).mode.hard = hard) ∧
    (∀ before, aonAlive (resetting before) = true ∧ sourceLive (resetting before) .temp = true ∧
      tamperActs (resetting before) .temp = true ∧ tamperHard (resetting before) .temp = false ∧
      (resetting before).mode.mode = .lockdown ∧ resetPlanned (resetting before) = true ∧ resetOpen (resetting before) = before ∧
      (resetting before).taken? f0 = some (at_ (cmd 0x49 0 []) .transition)) ∧
    (let s := { startAt .halted with start := { (startAt .halted).start with halt := true } }
     aonAlive s = true ∧ sourceLive s .temp = true ∧ tamperActs s .temp = true ∧ s.mode.mode = .start ∧ s.start.halt = true ∧
      s.start.stage ≠ .s1 ∧ s.start.stage ≠ .h) := by and_intros <;> decide +kernel

/-- The lid is sampled, with T = 20. -/
def lid : State := { grey on with sec := { on.sec with tampCfg := 0x10104 } }
def confirmK : Taken := at_ (cmd 0x4B 1 []) .confirm
def window (tgt : Nat) (rel : Bool) : Cwin := { ref := f0, target := tgt, released := rel }
def confirming (tgt : Nat) (rel : Bool) : State :=
  { mgmt on confirmK with sec := { on.sec with cwin := some (window tgt rel) } }

theorem witness_WiredInputsTripAndConfirm :
    (sampled lid .lid = true ∧ classA .lid ⟨false, true⟩ = .closed ∧ classA .lid ⟨true, false⟩ = .faulty ∧
      classB ⟨false, true⟩ = .faulty ∧ sampled (confirming 5 false) .button = true) ∧
    (19 < lid.sec.lidCfg.toNat ∧ lid.sec.lidCfg.toNat ≤ 20) ∧
    (sampled (confirming 5 false) .button = true ∧ (confirming 5 false).sec.cwin = some (window 5 false) ∧
      (confirming 5 false).taken? (window 5 false).ref = some confirmK ∧ confirmK.stage = .confirm) ∧
    ((confirming 1 true).clock.rtc < (window 1 true).target ∧ (window 1 true).released = true ∧
      (confirming 1 false).clock.rtc < (window 1 false).target ∧ (window 0 false).target ≤ (confirming 0 false).clock.rtc) := by
  and_intros <;> decide +kernel

def armed : State := { on with frz := { on.frz with armed := true, trig := 2 } }
def opened : State := { on with err := { on.err with opened := true } }

theorem witness_DeviceErrorsZeroiseAndLockDown :
    (on.err.dbl = false ∧ on.mode.mode = .online ∧ on.err.opened = false ∧ on.frz.armed = false ∧ inStage on .s7 = false) ∧
    (armed.err.opened = false ∧ armed.frz.armed = true ∧ armed.frz.trig = 2) ∧
    (opened.err.dbl = false ∧ opened.err.opened = true) ∧ inStage (startAt .s7) .s7 = true ∧
    (let s := { withPlan due .lockdown .plain with err := { on.err with dbl := true } }
     s.mode.plan = some (planFor .lockdown .plain) ∧ (planFor .lockdown .plain).frame ≤ s.clock.frame ∧ s.clock.phase = .commit ∧
      s.err.dbl = true) ∧
    { (startAt .halted).start with halt := true }.halt = true := by and_intros <;> decide +kernel

def armK (arg a0 : W32) : Taken := cmd 0x4B arg [a0]
def matched : State := { on with frz := { on.frz with armed := true, trig := 1, mtch := 100 } }
def triggered : State := { due with frz := { on.frz with trigger := some (0, 100) } }
def frozenAt (ready : Bool) (pos : Nat) : State := { modeOf on .freeze with frz := { on.frz with ready := ready, pos := pos } }

theorem witness_FreezeIsArmedEnteredAndCaptured :
    (AtVisit (mgmt on (armK 1 0x00012001)) .a 0 0x4B (armK 1 0x00012001) ∧ (Entry.arg (armK 1 0).head).getLsbD 0 = true ∧
      armFieldsOk (armK 1 0x00012001).head = true ∧ lifecycle on.fuse ≠ .black) ∧
    (AtVisit (mgmt (black on) (armK 1 1)) .a 0 0x4B (armK 1 1) ∧ armFieldsOk (armK 1 1).head = true ∧
      lifecycle (black on).fuse = .black ∧ (armK 1 1).pressed = false) ∧
    (armFieldsOk (armK 1 0x00012002).head = false ∧ (Entry.arg (armK 0 0).head).getLsbD 0 = false ∧
      armFieldsOk (armK 0 0).head = true) ∧
    (frzSampled on = true ∧ on.frz.trigger = none ∧ 30 ≤ (on.mode.plan.map (·.rank)).getD 70 ∧ openLifecycle on = true) ∧
    (frzSampled matched = true ∧ matched.frz.armed = true ∧ matched.clock.frame % 2 ^ 20 = matched.frz.mtch.toNat) ∧
    (triggered.frz.trigger.isSome = true ∧ triggered.clock.phase = .commit) ∧
    ((frozenAt false 0).mode.mode = .freeze ∧ (frozenAt false 0).frz.ready = false ∧ (frozenAt false 0).frz.stopped = false ∧
      (frozenAt true 63).frz.pos < 8 * streamLen (frozenAt true 63) ∧
      8 * streamLen (frozenAt true (8 * 6127360)) ≤ (frozenAt true (8 * 6127360)).frz.pos) ∧
    (let tag : OrderTag := { frame := 100, index := 0, cx := .umber, wc := false, priv := false, digest := 7 }
     let s := { on with gate := { on.gate with tags := [tag] } }
     s.gate.tags[0]? = some tag ∧ plans s.cx.umber = true) ∧
    (frzSampled (grey on) = true ∧ (grey on).frz.armed = false ∧ openLifecycle (grey on) = false) := by
  and_intros <;> decide +kernel

def noVin (b : Bool) : State := { modeOf on .vault with supply := { on.supply with vin := false, vbat := b } }
def wakePin (m : Mode) : State :=
  let s := modeOf on m
  { s with mode := { s.mode with auxOwn := on.mode.auxOwn.set 0 7 } }

theorem witness_SupplyAndAlwaysOnDomain :
    ((modeOf on .vault).mode.mode = .vault ∧ on.mode.mode ≠ .vault ∧ (startAt .h).mode.mode = .start ∧
      (startAt .h).start.stage = .h) ∧
    ((noVin true).supply.vin = false ∧ (noVin true).supply.vbat = true ∧ (noVin false).supply.vbat = false) ∧
    ((wakePin .vault).mode.auxOwn.toList.getD 0 0 = 7 ∧ (wakePin .drowse).mode.mode = .drowse ∧ (wakePin .drowse).mode.plan = none) ∧
    (pinsMode (modeOf on .service) = true ∧ ballOut 3 = true ∧ (List.replicate 58 true).length = 58 ∧ on.jnl.inflight = []) ∧
    ((modeOf on .service).mode.mode = .service ∧ on.mode.mode ≠ .service ∧ on.mode.mode ≠ .factory ∧ on.mode.mode ≠ .start) ∧
    (0x80 ≤ (0x80 : BitVec 8).toNat ∧ (0x8F : BitVec 8).toNat ≤ 0x8F ∧ 0x03 < (0x04 : BitVec 8).toNat ∧
      0x8F < (0x90 : BitVec 8).toNat) := by and_intros <;> decide +kernel

/-! ## The machine as a whole -/

theorem witness_StepRunsTheFrontCommand :
    ({ on with pending := [.testLogicReset] }.pending = [.testLogicReset]) ∧ (on.pending = [] ∧ aonAlive on = true) ∧
    ((noVin false).pending = [] ∧ aonAlive (noVin false) = false) := by decide +kernel

theorem witness_MemoryReadsBackWhatWasWritten :
    Memory.wf [(3, 7)] = true ∧ (0 < 3 ∨ 3 + ([7] : Bytes).length ≤ 0) ∧ Memory.get [(3, 7)] 3 = 7 := by decide +kernel

/-- The states of the invariants: that after reset, and one with entries, orders and shifts under way. -/
theorem witness_EveryStepKeepsTheMemoriesCanonical :
    Safe State.reset ∧ Safe { shifting { shift .destage with id := 0 } with gate := { GateSt.init with nextId := 1 } } ∧
    answers (step State.reset) = true := by
  refine ⟨⟨by decide +kernel, by decide +kernel⟩, ⟨by decide +kernel, by decide +kernel⟩, by decide +kernel⟩

theorem witness_EveryStepKeepsIdsApart : IdsApart { shifting (shift .destage) with gate := { GateSt.init with nextId := 4 } } ∧
    answers (step (shifting (shift .destage))) = true := by refine ⟨by decide +kernel, by decide +kernel⟩

theorem witness_LostUnitsAreSolvedFromTheRest :
    systemDet { lanes := [.data 0, .data 1, .red 0, .red 1], c0 := [1, 1], c1 := [1, 2] } [0, 1] [0, 1] ≠ 0 ∧
    systemDet { lanes := [.data 0, .data 1, .red 0, .red 1], c0 := [1, 1], c1 := [2, 2] } [0, 1] [0, 1] = 0 ∧
    (zeros 4096).length = blockBytes := by
  refine ⟨by decide +kernel, by decide +kernel, Laws.zeros_length 4096⟩

theorem witness_WhatIsEncryptedIsDecryptedAgain :
    (zeros 32).length = 32 ∧ (8 : Nat) ≤ 16 ∧ (zeros 48).length = 32 + 16 ∧ on.fuse.pk.length = 32 ∧
    keys.xts1.length = 32 ∧ keys.xts2.length = 32 := by decide +kernel

theorem witness_StoresChangeOnlyThroughTheirCommands : answers (exec .testLogicReset on) = true := by decide +kernel

/-! ## Values worked out in spec/ -/

/-- The sample enclosure (00 Table 0-5) of 07's example: PARITY2 over four members, u = 16, volume 0 of 4096 blocks in the
rows from 0 and Ledger in those from 129. -/
def sample : State :=
  { on with
    array := some { arr with n := 4, layout := 4, su := 2, vtab := arr.vtab.set 1 (vol true 129 (2 ^ 29) 3) },
    seq := { SeqSt.init with bank0 := romParity2, active := some false,
                             table := (List.range 4).filterMap (evaluate romParity2 4) } }

/-- 07's example: volume 0 and its metadata take 129 rows; Ledger LBN 0x18 is in row 129, data unit 1, block 8; 01's
example: LBN 0x12345678 is in row 9544500, data unit 1, block 8. -/
theorem test_example_geometry :
    volRows sample 4096 true = 129 ∧ blockPlace sample 1 0x18 = { row := 129, j := 1, b := 8 } ∧
    blockPlace sample 1 0x12345678 = { row := 9544500, j := 1, b := 8 } := by decide +kernel

/-- P2R4 of 07's example, assembled with the operation codes and fields of 07 Table 7-2; its listing gives the words of the
first two instructions and of the last TERM. -/
def p2r4 : List W36 :=
  [0xA71044421, insn 0x02 8 0 0 3, insn 0x08 2 0 8 0, insn 0x21 0 2 0 0, insn 0x03 3 2 0 1, insn 0x06 3 3 8 0, insn 0x21 0 3 0 1,
   insn 0x03 4 2 0 2, insn 0x06 4 4 8 0, insn 0x03 5 2 0 3, insn 0x06 5 5 8 0, insn 0x02 6 0 0 0, insn 0x02 7 0 0 1] ++
  [insn 0x20 0 4 6 0, insn 0x20 0 5 7 0, insn 0x22 0 6 7 0, insn 0x22 0 7 7 0, insn 0x02 9 0 0 2, insn 0x22 0 6 7 1,
   insn 0x22 0 7 9 1, insn 0x01 0 0 0 0]
theorem test_example_p2r4_words :
    p2r4[1]? = some 0x0A0000003 ∧ p2r4[2]? = some 0x208200000 ∧ p2r4[19]? = some 0x881E40001 ∧ p2r4.length = 21 ∧
    progM p2r4 = 2 ∧ progPeriod p2r4 4 = 4 := by decide +kernel
theorem test_example_p2r4_valid : validate p2r4 = true := by decide +kernel
theorem test_example_p2r4_shadow : shadowOk romParity2 p2r4 4 = true := by decide +kernel

/-- 07's listing of PARITY2's words 3, 6, 13, 16 and 19. -/
theorem test_example_parity2_words :
    romParity2[3]? = some 0x840800000 ∧ romParity2[6]? = some 0x840C00001 ∧ romParity2[13]? = some 0x801940000 ∧
    romParity2[16]? = some 0x8815C0001 ∧ romParity2[19]? = some 0x040000000 := by decide +kernel

/-- 07's example: class 2 of PARITY2 over four members has P on lane 1, Q on 2, D_0 on 3 and D_1 on 0, with P coefficients
(1, 1) and Q coefficients (1, 2). -/
theorem test_example_parity2 :
    evaluate romParity2 4 2 = some { lanes := [.data 1, .red 0, .red 1, .data 0], c0 := [1, 1], c1 := [1, 2] } := by
  decide +kernel

theorem test_rom_span : validate (romProgram 0) = true := by decide +kernel
theorem test_rom_mirror2 : validate (romProgram 1) = true := by decide +kernel
theorem test_rom_mirror3 : validate (romProgram 2) = true := by decide +kernel
theorem test_rom_parity1 : validate (romProgram 3) = true := by decide +kernel
theorem test_rom_parity2 : validate (romProgram 4) = true := by decide +kernel

/-- 08's example: P = 0x3C + 0x5A = 0x66 and Q = 0x3C + 2 * 0x5A = 0x88; record 0x12C3A7 is line 935; block 2072 of position
1 begins at set 555. -/
theorem test_example_parity_bytes :
    gfMul 2 0x5A = 0xB4 ∧ (0x3C : Byte) ^^^ 0x5A = 0x66 ∧ (0x3C : Byte) ^^^ gfMul 2 0x5A = 0x88 ∧
    0x12C3A7 % recCount = 935 ∧ cacheSet 1 2072 0 = 555 ∧ cacheSet 0 2072 0 = 384 := by decide +kernel

/-- 10's example: the tree of Ledger has 2097152, 8192, 32 and 1 nodes; its nodes' LBNs and its root's places. -/
theorem test_example_tree :
    treeLevels (2 ^ 29) = [2097152, 8192, 32, 1] ∧ nodeLbn sample (2 ^ 29) 0 0x123456 = 0x20123457 ∧
    nodeLbn sample (2 ^ 29) 1 0x1234 = 0x20201235 ∧ nodeLbn sample (2 ^ 29) 2 18 = 0x20202013 ∧
    nodeLbn sample (2 ^ 29) 3 0 = 0x20202021 ∧ rootBank 1 false = 0x0460 ∧ rootBank 1 true = 0x0C60 := by decide +kernel

/-- 06's example: the handle 0x2535 is buffer 0x135 of generation 0x12 and port A; 0x01002735 is generation 0x13, port B. -/
theorem test_example_handles :
    handleIndex (0x2535 : W32) = 0x135 ∧ handleGen (0x2535 : W32) = 0x12 ∧ handlePort (0x2535 : W32) = .a ∧
    handleGen (0x01002735 : W32) = 0x13 ∧ handlePort (0x01002735 : W32) = .b := by decide +kernel

/-- 06's example: the free of host A's handle by port B fails with 0x2020, and that of generation 0x12 with 0x1020 once the
generation is 0x13; each counts one misuse. -/
theorem test_example_free :
    (let s := { on with staging := { on.staging with bufs := on.staging.bufs.set (0x135 - 128) { owner := .held .a, gen := 0x12 } } }
     handleCheck s .b 0x2535 = 0x2020 ∧ handleCheck s .a 0x2535 = 0) ∧
    (let s := { on with staging := { on.staging with bufs := on.staging.bufs.set (0x135 - 128) { owner := .free, gen := 0x13 } } }
     handleCheck s .a 0x2535 = 0x1020) := by decide +kernel

/-- 04 Tables 4-2 and 4-3: the vendor and device IDs, the class code, the capabilities pointer and the chain's links. -/
theorem test_config_header :
    configRead on .a 0x000 = some 0x06361D9B ∧ configRead on .a 0x008 = some 0x01040001 ∧ configRead on .a 0x02C = some 0x06361D9B ∧
    [0x040, 0x050, 0x0B0].map (fun o => (configRead on .a o).map fun v => v.extractLsb' 8 8) = [some 0x50, some 0xB0, some 0x00] ∧
    [0x100, 0x148, 0x150, 0x160, 0x178, 0x1A0].map (fun o => (configRead on .a o).map fun v => v.extractLsb' 20 12) =
      [some 0x148, some 0x150, some 0x160, some 0x178, some 0x1A0, some 0] := by decide +kernel

/-- 04's example: PORT_STAT of a port in HOLD with cause 2 and count 1 reads 0x00010202, and 0x00010206 with its link up. -/
theorem test_example_portStat :
    portStat { PortSt.init with cstate := .hold, ccause := 2, ccount := 1 } = 0x00010202 ∧
    portStat { PortSt.init with cstate := .hold, ccause := 2, ccount := 1, linkUp := true } = 0x00010206 := by decide +kernel

/-- 05's example: QSTAT of a frozen ring at head 0, phase 0. -/
theorem test_example_qstat : qstat { running with state := .frozen, cfg := 0x2021, passed := 16 } = 0x00004000 := by decide +kernel

/-- 12's example: the claim of Slate takes the token at epoch 8 with E = F + 32; HLTH_STAT and HLTH_CNT at its end. -/
theorem test_example_claim :
    (let s := { phaseOf on .commit with cx := { on.cx with umber := .off, slate := .sole, holder := none, epoch := 7, vacant := 0, lease := 32 } }
     let t := after (exec (.claim .slate) s)
     (t.cx.holder, t.cx.epoch, t.cx.expiry) = (some .slate, 8, 132)) ∧
    hlthStat { CxSt.init with umber := .twin, slate := .twin, epoch := 9 } = 0x00090090 ∧
    hlthCnt { CxSt.init with take := 1, hand := 1, div := 0, leave := 1 } = 0x01000101 := by decide +kernel

/-- 11's example: the lid opened at soft depth latches source 2; TAMP_SRC reads 0x0202. -/
theorem test_example_tamper :
    (let t := after (exec (.tamperTrip .lidDisc) { lid with sec := { lid.sec with tampCfg := 0x10104 } })
     (t.sec.latch, t.sec.first, t.sec.seen) = (true, 2, 2)) := by decide +kernel

/-- 14's example: a drive of 6.50 W gets a limit of 2.5 A. -/
theorem test_example_limit : limitFor on 3 { drive with mpCentiW := 650 } = 10 := by decide +kernel

/-- Each step takes the command at the front. -/
theorem test_step_front :
    (after (step { on with pending := [.frameLimitStop, .release false], clock := { on.clock with frame := 0xFFFF00000 } })).pending =
      [.release false] := by decide +kernel

/-- FIPS 197, C.3: AES-256 of the counting block under the counting key. -/
theorem test_aes256 :
    aesEnc ((List.range 32).map (BitVec.ofNat 8)) ((List.range 16).map fun i => BitVec.ofNat 8 (17 * i)) =
      [0x8E, 0xA2, 0xB7, 0xCA, 0x51, 0x67, 0x45, 0xBF, 0xEA, 0xFC, 0x49, 0x90, 0x4B, 0x49, 0x60, 0x89] := by decide +kernel

end Sys2Proof.Tests
end

section
/-! The arithmetic of 07 R206. `gfMul` is linear over XOR in each operand, and doubling passes through it; so two
additive maps of bytes are equal as soon as they agree on the eight powers of the generator that are single bits, from which
commutativity follows, and with it the other laws of the field. -/
namespace Sys2Proof.Proofs.Redundancy
open Sys2Proof Sys2Proof.Machine

theorem xor_xor_xor_comm (a b c d : Byte) : (a ^^^ b) ^^^ (c ^^^ d) = (a ^^^ c) ^^^ (b ^^^ d) := by ac_rfl

theorem gfDouble_eq (b : Byte) : gfDouble b = (b <<< 1) ^^^ (if b.msb then 0x1D else 0) := by
  cases h : b.msb <;> simp [gfDouble, h]

@[simp] theorem gfDouble_zero : gfDouble 0#8 = 0#8 := rfl

theorem gfDouble_xor (a b : Byte) : gfDouble (a ^^^ b) = gfDouble a ^^^ gfDouble b := by
  simp only [gfDouble_eq, BitVec.shiftLeft_xor_distrib, BitVec.msb_xor, xor_xor_xor_comm (a <<< 1)]
  cases a.msb <;> cases b.msb <;> simp

theorem gfMulBits_zero_right (k : Nat) (n : Byte) : gfMulBits k n 0#8 = 0#8 := by
  induction k generalizing n with
  | zero => rfl
  | succ k ih => simp [gfMulBits, ih]

theorem gfMulBits_xor_left (k : Nat) (n m b : Byte) :
    gfMulBits k (n ^^^ m) b = gfMulBits k n b ^^^ gfMulBits k m b := by
  induction k generalizing n m b with
  | zero => simp [gfMulBits]
  | succ k ih =>
    simp only [gfMulBits, BitVec.ushiftRight_xor_distrib, ih, BitVec.getLsbD_xor]
    rw [xor_xor_xor_comm _ (gfMulBits k _ _)]
    cases n.getLsbD 0 <;> cases m.getLsbD 0 <;> simp

theorem gfMulBits_xor_right (k : Nat) (n b c : Byte) :
    gfMulBits k n (b ^^^ c) = gfMulBits k n b ^^^ gfMulBits k n c := by
  induction k generalizing n b c with
  | zero => simp [gfMulBits]
  | succ k ih =>
    simp only [gfMulBits, gfDouble_xor, ih]
    rw [xor_xor_xor_comm _ (gfMulBits k _ _)]
    cases n.getLsbD 0 <;> simp

theorem gfMulBits_double (k : Nat) (n b : Byte) : gfMulBits k n (gfDouble b) = gfDouble (gfMulBits k n b) := by
  induction k generalizing n b with
  | zero => simp [gfMulBits]
  | succ k ih =>
    simp only [gfMulBits, ih, gfDouble_xor]
    cases n.getLsbD 0 <;> simp

theorem gfMul_xor_left (a b c : Byte) : gfMul (a ^^^ b) c = gfMul a c ^^^ gfMul b c := gfMulBits_xor_left 8 a b c

theorem gfMul_xor_right (a b c : Byte) : gfMul a (b ^^^ c) = gfMul a b ^^^ gfMul a c := gfMulBits_xor_right 8 a b c

theorem gfMul_double_right (a b : Byte) : gfMul a (gfDouble b) = gfDouble (gfMul a b) := gfMulBits_double 8 a b

@[simp] theorem gfMul_zero_right (a : Byte) : gfMul a 0#8 = 0#8 := gfMulBits_zero_right 8 a

@[simp] theorem gfMul_one_right (a : Byte) : gfMul a 1#8 = a := by
  revert a; decide +kernel

/-- A map of bytes that takes XOR to XOR. -/
def XorAdditive (f : Byte → Byte) : Prop := ∀ a b, f (a ^^^ b) = f a ^^^ f b

theorem XorAdditive.map_zero {f : Byte → Byte} (hf : XorAdditive f) : f 0#8 = 0#8 := by
  have h := hf 0#8 0#8
  rwa [BitVec.xor_self, BitVec.xor_self] at h

theorem additive_gfMul_left (c : Byte) : XorAdditive fun a => gfMul a c := fun a b => gfMul_xor_left a b c

theorem additive_gfMul_right (c : Byte) : XorAdditive (gfMul c) := fun a b => gfMul_xor_right c a b

/-- A product is a sum of the first operand's doublings. -/
theorem XorAdditive.eq_on_gfMulBits {f g : Byte → Byte} (hf : XorAdditive f) (hg : XorAdditive g) (k i : Nat) (n : Byte)
    (h : ∀ j, i ≤ j → j < i + k → f (gfPowNat j) = g (gfPowNat j)) :
    f (gfMulBits k n (gfPowNat i)) = g (gfMulBits k n (gfPowNat i)) := by
  induction k generalizing i n with
  | zero => simp [gfMulBits, hf.map_zero, hg.map_zero]
  | succ k ih =>
    have head := h i (by omega) (by omega)
    have rest := ih (i + 1) (n >>> 1) fun j h1 h2 => h j (by omega) (by omega)
    simp only [gfPowNat] at rest
    simp only [gfMulBits, hf _ _, hg _ _, rest]
    cases n.getLsbD 0
    · simp [hf.map_zero, hg.map_zero]
    · simp [head]

/-- The powers g^0 to g^7 are the eight single bits, and every byte is a sum of them. -/
theorem XorAdditive.ext {f g : Byte → Byte} (hf : XorAdditive f) (hg : XorAdditive g)
    (h : ∀ i < 8, f (gfPowNat i) = g (gfPowNat i)) (a : Byte) : f a = g a := by
  have := hf.eq_on_gfMulBits hg 8 0 a fun j _ hj => h j (by omega)
  rwa [show gfMulBits 8 a (gfPowNat 0) = a from gfMul_one_right a] at this

/-- Both products are additive in each operand, so the 64 pairs of single bits decide. -/
theorem gfMul_comm (a b : Byte) : gfMul a b = gfMul b a := by
  refine (additive_gfMul_left b).ext (additive_gfMul_right b) (fun i hi => ?_) a
  refine (additive_gfMul_right (gfPowNat i)).ext (additive_gfMul_left (gfPowNat i)) (fun j hj => ?_) b
  revert i j
  decide +kernel

theorem gfMul_double_left (a b : Byte) : gfMul (gfDouble a) b = gfDouble (gfMul a b) := by
  rw [gfMul_comm, gfMul_double_right, gfMul_comm]

@[simp] theorem gfMul_zero_left (a : Byte) : gfMul 0#8 a = 0#8 := by rw [gfMul_comm, gfMul_zero_right]

@[simp] theorem gfMul_one_left (a : Byte) : gfMul 1#8 a = a := by rw [gfMul_comm, gfMul_one_right]

theorem gfMul_two_left (a : Byte) : gfMul 2 a = gfDouble a := by
  rw [show (2 : Byte) = gfDouble 1#8 from rfl, gfMul_double_left, gfMul_one_left]

theorem gfMul_gfMulBits_left (k : Nat) (n b c : Byte) : gfMul (gfMulBits k n b) c = gfMulBits k n (gfMul b c) := by
  induction k generalizing n b with
  | zero => exact gfMul_zero_left c
  | succ k ih =>
    simp only [gfMulBits, gfMul_xor_left, ih, gfMul_double_left]
    cases n.getLsbD 0 <;> simp

theorem gfMul_assoc (a b c : Byte) : gfMul (gfMul a b) c = gfMul a (gfMul b c) := gfMul_gfMulBits_left 8 a b c

theorem gfMul_left_comm (a b c : Byte) : gfMul a (gfMul b c) = gfMul b (gfMul a c) := by
  rw [← gfMul_assoc, gfMul_comm a b, gfMul_assoc]

/-- The square of a byte; `gfInv` is a product of repeated squares. -/
def gfSq (a : Byte) : Byte := gfMul a a

theorem additive_gfSq : XorAdditive gfSq := fun a b => by
  rw [gfSq, gfMul_xor_left, gfMul_xor_right, gfMul_xor_right, gfMul_comm b a, BitVec.xor_comm (gfMul a b) (gfMul b b),
    xor_xor_xor_comm, BitVec.xor_self, BitVec.xor_zero, gfSq, gfSq]

theorem XorAdditive.repeat_self {f : Byte → Byte} (hf : XorAdditive f) (k : Nat) : XorAdditive (Nat.repeat f k) := by
  induction k with
  | zero => exact fun _ _ => rfl
  | succ k ih => exact fun a b => (congrArg f (ih a b)).trans (hf _ _)

/-- Eight squarings give a byte back (a^256 = a): they are additive, and do so to the eight single bits. -/
theorem gfSq_repeat_eight (a : Byte) : Nat.repeat gfSq 8 a = a :=
  (additive_gfSq.repeat_self 8).ext (g := id) (fun _ _ => rfl) (by decide +kernel) a

theorem gfMul_self_left (a r : Byte) : gfMul a (gfMul a r) = gfMul (gfSq a) r := (gfMul_assoc a a r).symm

/-- Each factor of `gfInv` meets its equal in turn, up to the eighth square. -/
theorem gfMul_gfMul_gfInv (a : Byte) : gfMul a (gfMul a (gfInv a)) = a := by
  have squares : ∀ x, gfMul x x = gfSq x := fun _ => rfl
  simp only [gfInv, squares, gfMul_self_left]
  exact gfSq_repeat_eight a

theorem gfMul_self_eq_self {x : Byte} (h : gfMul x x = x) : x = 0 ∨ x = 1 := by
  revert x; decide +kernel

/-- `gfMul a (gfInv a)` is its own square, and is not 0, for its product with `a` is `a`. -/
theorem gfMul_gfInv (a : Byte) (h : a ≠ 0) : gfMul a (gfInv a) = 1 := by
  have square : gfMul (gfMul a (gfInv a)) (gfMul a (gfInv a)) = gfMul a (gfInv a) := by
    rw [← gfMul_assoc (gfMul a (gfInv a)), gfMul_comm (gfMul a (gfInv a)) a, gfMul_gfMul_gfInv]
  refine (gfMul_self_eq_self square).resolve_left fun hz => h ?_
  rw [← gfMul_gfMul_gfInv a, hz]
  exact gfMul_zero_right a

theorem gfInv_gfMul_cancel (c a : Byte) (h : c ≠ 0) : gfMul (gfInv c) (gfMul c a) = a := by
  rw [← gfMul_assoc, gfMul_comm (gfInv c), gfMul_gfInv c h]
  exact gfMul_one_left a

/-! The powers of the generator come round after 255. -/

theorem gfPow_mod (i : Nat) : gfPow i = gfPow (i % 255) := by
  rw [gfPow, gfPow, Nat.mod_mod]

theorem gfPow_succ (i : Nat) : gfPow (i + 1) = gfMul 2 (gfPow i) := by
  have round : gfPowNat 255 = 1 := by decide +kernel
  have step : gfMul 2 (gfPow i) = gfPowNat (i % 255 + 1) := gfMul_two_left _
  rw [step, gfPow]
  by_cases h : i % 255 + 1 = 255
  · rw [h, round, show (i + 1) % 255 = 0 by omega, gfPowNat]
  · rw [show (i + 1) % 255 = i % 255 + 1 by omega]

end Sys2Proof.Proofs.Redundancy
end

section
/-! Byte strings under XOR and under the product with a constant, and the sums of 07 R206 over the units of a row: byte
by byte, and the sum over the lost units as what the known ones leave of the sum over all. -/
namespace Sys2Proof.Proofs.Redundancy
open Sys2Proof Sys2Proof.Machine Sys2Proof.Laws

theorem gfScale_eq_map (c : Byte) (bs : Bytes) : gfScale c bs = bs.map (gfMul c) := by
  unfold gfScale
  split
  next h =>
    have zero : gfMul 0 = fun _ => (0 : Byte) := funext gfMul_zero_left
    rw [h, zero, List.map_const', zeros]
  next =>
    split
    next h =>
      have one : gfMul 1 = id := funext gfMul_one_left
      rw [h, one, List.map_id]
    next => rfl

@[simp] theorem gfScale_length (c : Byte) (bs : Bytes) : (gfScale c bs).length = bs.length := by simp [gfScale_eq_map]

theorem gfScale_getD (c : Byte) (bs : Bytes) (i : Nat) : (gfScale c bs).getD i 0 = gfMul c (bs.getD i 0) := by
  rw [gfScale_eq_map]
  cases h : bs[i]? <;> simp [List.getD_eq_getElem?_getD, h]

theorem xorBytes_getD (x y : Bytes) (i : Nat) (h : x.length = y.length) :
    (xorBytes x y).getD i 0 = x.getD i 0 ^^^ y.getD i 0 := by
  simp only [xorBytes, List.getD_eq_getElem?_getD, List.getElem?_zipWith]
  by_cases hi : i < x.length <;> simp [hi, h ▸ hi]

theorem xorBytes_comm (x y : Bytes) : xorBytes x y = xorBytes y x :=
  List.zipWith_comm_of_comm BitVec.xor_comm

theorem xorBytes_assoc (x y z : Bytes) : xorBytes (xorBytes x y) z = xorBytes x (xorBytes y z) := by
  induction x generalizing y z with
  | nil => simp [xorBytes]
  | cons a x ih =>
    cases y with
    | nil => simp [xorBytes]
    | cons b y =>
      cases z with
      | nil => simp [xorBytes]
      | cons c z =>
        have tail := ih y z
        simp only [xorBytes] at tail ⊢
        simp [tail, BitVec.xor_assoc]

theorem xorBytes_right_comm (x y z : Bytes) : xorBytes (xorBytes x y) z = xorBytes (xorBytes x z) y := by
  rw [xorBytes_assoc, xorBytes_comm y, ← xorBytes_assoc]

theorem xorBytes_zeros_left (x : Bytes) (n : Nat) (h : x.length = n) : xorBytes (zeros n) x = x := by
  subst h
  induction x with
  | nil => rfl
  | cons a x ih =>
    have tail : List.zipWith (· ^^^ ·) (zeros x.length) x = x := ih
    simpa [xorBytes, zeros, List.replicate_succ] using tail

/-- The XOR of `f j` over `js`, from `acc` on. -/
def sumUnits (f : Nat → Bytes) (acc : Bytes) (js : List Nat) : Bytes := js.foldl (fun acc j => xorBytes acc (f j)) acc

@[simp] theorem sumUnits_nil (f : Nat → Bytes) (acc : Bytes) : sumUnits f acc [] = acc := rfl

@[simp] theorem sumUnits_cons (f : Nat → Bytes) (acc : Bytes) (j : Nat) (js : List Nat) :
    sumUnits f acc (j :: js) = sumUnits f (xorBytes acc (f j)) js := rfl

theorem sumUnits_length {f : Nat → Bytes} {acc : Bytes} {js : List Nat} {n : Nat} (hacc : acc.length = n)
    (hf : ∀ j ∈ js, (f j).length = n) : (sumUnits f acc js).length = n := by
  induction js generalizing acc with
  | nil => exact hacc
  | cons j js ih =>
    exact ih (by simp [hacc, hf j]) fun i hi => hf i (List.mem_cons_of_mem _ hi)

theorem sumUnits_getD {f : Nat → Bytes} {acc : Bytes} {js : List Nat} {n : Nat} (i : Nat) (hacc : acc.length = n)
    (hf : ∀ j ∈ js, (f j).length = n) :
    (sumUnits f acc js).getD i 0 = (js.map fun j => (f j).getD i 0).foldl (· ^^^ ·) (acc.getD i 0) := by
  induction js generalizing acc with
  | nil => rfl
  | cons j js ih =>
    have hj : (f j).length = n := hf j List.mem_cons_self
    rw [sumUnits_cons, ih (by simp [hacc, hj]) fun i hi => hf i (List.mem_cons_of_mem _ hi),
      xorBytes_getD _ _ _ (hacc.trans hj.symm), List.map_cons, List.foldl_cons]

/-- The units that `p` leaves out stand in both sums and cancel. -/
theorem xorBytes_sumUnits_filter {f : Nat → Bytes} {p : Nat → Bool} {A B : Bytes} {js : List Nat} {n : Nat}
    (hA : A.length = n) (hB : B.length = n) (hf : ∀ j ∈ js, (f j).length = n) :
    xorBytes (sumUnits f A js) (sumUnits f B (js.filter fun j => !p j)) = sumUnits f (xorBytes A B) (js.filter p) := by
  induction js generalizing A B with
  | nil => rfl
  | cons j js ih =>
    have hj : (f j).length = n := hf j List.mem_cons_self
    have hf' : ∀ i ∈ js, (f i).length = n := fun i hi => hf i (List.mem_cons_of_mem _ hi)
    have hA' : (xorBytes A (f j)).length = n := by simp [hA, hj]
    have hB' : (xorBytes B (f j)).length = n := by simp [hB, hj]
    cases hp : p j
    · have cancel : xorBytes (xorBytes A (f j)) (xorBytes B (f j)) = xorBytes A B := by
        rw [← xorBytes_assoc, xorBytes_right_comm A, xorBytes_cancel _ _ (by simp [hA, hB, hj])]
      simp [hp, ih hA' hB' hf', cancel]
    · simp [hp, ih hA' hB hf', xorBytes_right_comm A]

theorem redBlock_eq_sumUnits (d : Descriptor) (a : Nat) (data : List Bytes) :
    redBlock d a data =
      sumUnits (fun j => gfScale (d.coef a j) (data.getD j [])) (zeros blockBytes) (List.range data.length) := rfl

section
variable {data : List Bytes} (hdata : ∀ b ∈ data, b.length = blockBytes)
include hdata

theorem scaledUnit_length (d : Descriptor) (a j : Nat) (hj : j ∈ List.range data.length) :
    (gfScale (d.coef a j) (data.getD j [])).length = blockBytes := by
  rw [gfScale_length, getD_length blockBytes j data (List.mem_range.mp hj) hdata]

theorem redBlock_length (d : Descriptor) (a : Nat) : (redBlock d a data).length = blockBytes :=
  sumUnits_length (zeros_length _) (scaledUnit_length hdata d a)

theorem redBlock_getD (d : Descriptor) (a i : Nat) :
    (redBlock d a data).getD i 0 =
      ((List.range data.length).map fun j => gfMul (d.coef a j) ((data.getD j []).getD i 0)).foldl (· ^^^ ·) 0 := by
  have zero : (zeros blockBytes).getD i 0 = 0 := by
    simp only [zeros, List.getD_eq_getElem?_getD, List.getElem?_replicate]
    split <;> rfl
  rw [redBlock_eq_sumUnits, sumUnits_getD i (zeros_length _) (scaledUnit_length hdata d a), zero]
  simp only [gfScale_getD]

end

end Sys2Proof.Proofs.Redundancy
end

section
/-! Solving (07 R219). The unknowns are the lost data units; the syndrome of a standing accumulator is the sum over
them, and the systems of one and of two unknowns are solved by the inverse of their determinant. -/
namespace Sys2Proof.Proofs.Redundancy
open Sys2Proof Sys2Proof.Machine Sys2Proof.Laws

/-- The indices of the data units that a row lacks. -/
def missing (known : List (Option Bytes)) : List Nat :=
  (List.range known.length).filter fun j => (known.getD j none).isNone

/-- The accumulators that solve for them: the first that are there. -/
def chosen (known reds : List (Option Bytes)) : List Nat :=
  ((List.range reds.length).filter fun a => (reds.getD a none).isSome).take (missing known).length

/-- What accumulator `a` holds beyond the share of the known data units. -/
def syndromeOf (d : Descriptor) (known reds : List (Option Bytes)) (a : Nat) : Bytes :=
  xorBytes ((reds.getD a none).getD []) (redPartial d a known)

/-- One unknown of a system of two, by Cramer's rule, where `al` and `bl` are the other unknown's coefficients. -/
def cramer (det al bl : Byte) (sa sb : Bytes) : Bytes :=
  gfScale (gfInv det) (xorBytes (gfScale bl sa) (gfScale al sb))

section
variable {d : Descriptor} {known reds : List (Option Bytes)}

theorem solveBlock_unsolvable
    (h : (chosen known reds).length ≠ (missing known).length ∨ systemDet d (chosen known reds) (missing known) = 0) :
    solveBlock d known reds = none :=
  if_neg fun ⟨hlen, hdet⟩ => h.elim (· hlen) hdet

theorem solveBlock_zero (hj : missing known = []) (ha : chosen known reds = []) :
    solveBlock d known reds = some ((List.range known.length).map fun i => (known.getD i none).getD []) := by
  have units : (List.range known.length).map (fun i => (known.getD i none).getD []) = known.map (·.getD []) :=
    List.ext_getElem (by simp) fun i h _ => by
      have hi : i < known.length := by simpa using h
      simp [List.getD_eq_getElem?_getD, hi]
  rw [units]
  simp only [chosen, missing] at hj ha
  rw [hj] at ha
  simp only [solveBlock, hj, ha]
  exact if_pos ⟨trivial, show (1 : Byte) ≠ 0 by decide⟩

theorem solveBlock_one {a j : Nat} (hj : missing known = [j]) (ha : chosen known reds = [a]) (hc : d.coef a j ≠ 0) :
    solveBlock d known reds = some ((List.range known.length).map fun i =>
      if i = j then gfScale (gfInv (d.coef a j)) (syndromeOf d known reds a) else (known.getD i none).getD []) := by
  simp only [chosen, missing] at hj ha
  rw [hj] at ha
  simp only [solveBlock, hj, ha]
  exact if_pos ⟨rfl, hc⟩

theorem solveBlock_two {a b j l : Nat} (hj : missing known = [j, l]) (ha : chosen known reds = [a, b])
    (hdet : systemDet d [a, b] [j, l] ≠ 0) :
    solveBlock d known reds = some ((List.range known.length).map fun i =>
      if i = j then cramer (systemDet d [a, b] [j, l]) (d.coef a l) (d.coef b l) (syndromeOf d known reds a)
        (syndromeOf d known reds b)
      else if i = l then cramer (systemDet d [a, b] [j, l]) (d.coef b j) (d.coef a j) (syndromeOf d known reds b)
        (syndromeOf d known reds a)
      else (known.getD i none).getD []) := by
  simp only [chosen, missing] at hj ha
  rw [hj] at ha
  simp only [solveBlock, hj, ha]
  exact if_pos ⟨rfl, hdet⟩

end

/-- A system that is not singular has no unknown, one or two, and as many accumulators. -/
theorem systemDet_ne_zero {d : Descriptor} {as js : List Nat} (h : systemDet d as js ≠ 0) :
    (as = [] ∧ js = []) ∨ (∃ a j, as = [a] ∧ js = [j]) ∨ ∃ a b j l, as = [a, b] ∧ js = [j, l] := by
  unfold systemDet at h
  split at h
  next => exact .inl ⟨rfl, rfl⟩
  next a j => exact .inr (.inl ⟨a, j, rfl, rfl⟩)
  next a b j l => exact .inr (.inr ⟨a, b, j, l, rfl, rfl⟩)
  next => exact absurd rfl h

theorem gfScale_gfInv_cancel (c : Byte) (x : Bytes) (h : c ≠ 0) : gfScale (gfInv c) (gfScale c x) = x := by
  have cancel : gfMul (gfInv c) ∘ gfMul c = id := funext fun b => gfInv_gfMul_cancel c b h
  rw [gfScale_eq_map, gfScale_eq_map, List.map_map, cancel, List.map_id]

/-- The elimination behind Cramer's rule at one byte: `v`'s terms meet twice and vanish. -/
theorem eliminate_byte (aj al bj bl u v : Byte) :
    gfMul bl (gfMul aj u ^^^ gfMul al v) ^^^ gfMul al (gfMul bj u ^^^ gfMul bl v) =
      gfMul (gfMul aj bl ^^^ gfMul al bj) u := by
  simp only [gfMul_xor_right, gfMul_xor_left, gfMul_assoc]
  rw [gfMul_left_comm bl aj, gfMul_left_comm bl al, xor_xor_xor_comm, BitVec.xor_self, BitVec.xor_zero]

theorem cramer_solves (aj al bj bl : Byte) (x y : Bytes) (h : x.length = y.length)
    (hdet : gfMul aj bl ^^^ gfMul al bj ≠ 0) :
    cramer (gfMul aj bl ^^^ gfMul al bj) al bl (xorBytes (gfScale aj x) (gfScale al y))
      (xorBytes (gfScale bj x) (gfScale bl y)) = x := by
  have eliminated :
      xorBytes (gfScale bl (xorBytes (gfScale aj x) (gfScale al y)))
        (gfScale al (xorBytes (gfScale bj x) (gfScale bl y))) = gfScale (gfMul aj bl ^^^ gfMul al bj) x := by
    refine List.ext_getElem (by simp [h]) fun i _ _ => ?_
    simp only [gfScale_eq_map, xorBytes, List.getElem_zipWith, List.getElem_map]
    exact eliminate_byte aj al bj bl _ _
  rw [cramer, eliminated, gfScale_gfInv_cancel _ _ hdet]

/-- The second unknown is the first of the system with its columns and its rows exchanged. -/
theorem cramer_solves_second (aj al bj bl : Byte) (x y : Bytes) (h : x.length = y.length)
    (hdet : gfMul aj bl ^^^ gfMul al bj ≠ 0) :
    cramer (gfMul aj bl ^^^ gfMul al bj) bj aj (xorBytes (gfScale bj x) (gfScale bl y))
      (xorBytes (gfScale aj x) (gfScale al y)) = y := by
  rw [gfMul_comm aj, gfMul_comm al] at hdet ⊢
  rw [xorBytes_comm (gfScale bj x), xorBytes_comm (gfScale aj x)]
  exact cramer_solves bl bj al aj y x h.symm hdet

/-! The row of the statement: the data units that are not lost, and the accumulators that stand. -/

/-- The data units of a row, without the lost ones. -/
def survivors (data : List Bytes) (lost : Nat → Bool) : List (Option Bytes) :=
  (List.range data.length).map fun j => if lost j then none else some (data.getD j [])

/-- The accumulators of a row that stand, of `m`. -/
def standing (d : Descriptor) (data : List Bytes) (avail : Nat → Bool) (m : Nat) : List (Option Bytes) :=
  (List.range m).map fun a => if avail a then some (redBlock d a data) else none

section
variable {d : Descriptor} {data : List Bytes} {lost avail : Nat → Bool} {m : Nat}

@[simp] theorem survivors_length : (survivors data lost).length = data.length := by simp [survivors]

theorem survivors_getD {j : Nat} (hj : j < data.length) :
    (survivors data lost).getD j none = if lost j then none else some (data.getD j []) := by
  simp [survivors, List.getD_eq_getElem?_getD, hj]

theorem standing_getD {a : Nat} (ha : a < m) :
    (standing d data avail m).getD a none = if avail a then some (redBlock d a data) else none := by
  simp [standing, List.getD_eq_getElem?_getD, ha]

theorem missing_survivors : missing (survivors data lost) = (List.range data.length).filter lost := by
  rw [missing, survivors_length]
  refine List.filter_congr fun j hj => ?_
  rw [survivors_getD (List.mem_range.mp hj)]
  cases lost j <;> rfl

theorem chosen_standing :
    chosen (survivors data lost) (standing d data avail m) =
      ((List.range m).filter avail).take ((List.range data.length).filter lost).length := by
  rw [chosen, missing_survivors, show (standing d data avail m).length = m by simp [standing]]
  congr 1
  refine List.filter_congr fun a ha => ?_
  rw [standing_getD (List.mem_range.mp ha)]
  cases avail a <;> rfl

theorem redPartial_survivors (a : Nat) :
    redPartial d a (survivors data lost) =
      sumUnits (fun j => gfScale (d.coef a j) (data.getD j [])) (zeros blockBytes)
        ((List.range data.length).filter fun j => !lost j) := by
  rw [sumUnits, List.foldl_filter, redPartial, survivors_length]
  refine List.foldl_rel (r := Eq) rfl fun j hj acc _ hacc => ?_
  rw [← hacc, survivors_getD (List.mem_range.mp hj)]
  cases lost j <;> rfl

/-- What the redundancy units hold beyond the known data is the sum over the lost units alone. -/
theorem syndromeOf_standing {a : Nat} (hdata : ∀ b ∈ data, b.length = blockBytes)
    (ha : a ∈ chosen (survivors data lost) (standing d data avail m)) :
    syndromeOf d (survivors data lost) (standing d data avail m) a =
      sumUnits (fun j => gfScale (d.coef a j) (data.getD j [])) (zeros blockBytes) (missing (survivors data lost)) := by
  rw [chosen_standing] at ha
  obtain ⟨hm, hav⟩ := List.mem_filter.mp (List.mem_of_mem_take ha)
  have hzeros : (zeros blockBytes).length = blockBytes := zeros_length _
  rw [syndromeOf, standing_getD (List.mem_range.mp hm), if_pos hav, Option.getD_some, redBlock_eq_sumUnits,
    redPartial_survivors, xorBytes_sumUnits_filter hzeros hzeros (scaledUnit_length hdata d a),
    xorBytes_zeros_left _ _ hzeros, missing_survivors]

/-- A row whose unknowns are filled in with the lost units is the row that was lost. -/
theorem range_map_eq_data {f : Nat → Bytes} (hf : ∀ i < data.length, f i = data.getD i []) :
    (List.range data.length).map f = data := by
  refine List.ext_getElem (by simp) fun i h _ => ?_
  have hi : i < data.length := by simpa using h
  simp [hf i hi, hi]

theorem survivors_getD_of_not_missing {i : Nat} (hi : i < data.length) (h : i ∉ missing (survivors data lost)) :
    ((survivors data lost).getD i none).getD [] = data.getD i [] := by
  have hl : lost i = false := by
    rw [missing_survivors] at h
    simpa [hi] using h
  rw [survivors_getD hi, hl]
  rfl

theorem lt_of_mem_missing {j : Nat} (h : j ∈ missing (survivors data lost)) : j < data.length := by
  rw [missing_survivors] at h
  exact List.mem_range.mp (List.mem_filter.mp h).1

section
variable (hdata : ∀ b ∈ data, b.length = blockBytes)
include hdata

theorem missing_unit_length {j : Nat} (h : j ∈ missing (survivors data lost)) : (data.getD j []).length = blockBytes :=
  getD_length blockBytes j data (lt_of_mem_missing h) hdata

theorem syndromeOf_one {a j : Nat} (hj : missing (survivors data lost) = [j])
    (ha : a ∈ chosen (survivors data lost) (standing d data avail m)) :
    syndromeOf d (survivors data lost) (standing d data avail m) a = gfScale (d.coef a j) (data.getD j []) := by
  have hlen := (gfScale_length (d.coef a j) _).trans (missing_unit_length hdata (hj ▸ List.mem_cons_self))
  rw [syndromeOf_standing hdata ha, hj, sumUnits_cons, sumUnits_nil, xorBytes_zeros_left _ _ hlen]

theorem syndromeOf_two {a j l : Nat} (hj : missing (survivors data lost) = [j, l])
    (ha : a ∈ chosen (survivors data lost) (standing d data avail m)) :
    syndromeOf d (survivors data lost) (standing d data avail m) a =
      xorBytes (gfScale (d.coef a j) (data.getD j [])) (gfScale (d.coef a l) (data.getD l [])) := by
  have hlen := (gfScale_length (d.coef a j) _).trans (missing_unit_length hdata (hj ▸ List.mem_cons_self))
  rw [syndromeOf_standing hdata ha, hj, sumUnits_cons, sumUnits_cons, sumUnits_nil, xorBytes_zeros_left _ _ hlen]

/-- Where the system of the lost units is not singular, what is solved is the row that was lost. -/
theorem solveBlock_survivors
    (hdet : systemDet d (chosen (survivors data lost) (standing d data avail m)) (missing (survivors data lost)) ≠ 0) :
    solveBlock d (survivors data lost) (standing d data avail m) = some data := by
  obtain ⟨ha, hj⟩ | ⟨a, j, ha, hj⟩ | ⟨a, b, j, l, ha, hj⟩ := systemDet_ne_zero hdet
  · rw [solveBlock_zero hj ha, survivors_length]
    exact congrArg some (range_map_eq_data fun i hi => survivors_getD_of_not_missing hi (by simp [hj]))
  · rw [ha, hj, systemDet] at hdet
    rw [solveBlock_one hj ha hdet, survivors_length, syndromeOf_one hdata hj (by simp [ha]),
      gfScale_gfInv_cancel _ _ hdet]
    refine congrArg some (range_map_eq_data fun i hi => ?_)
    split
    next h => rw [h]
    next h => exact survivors_getD_of_not_missing hi (by simp [hj, h])
  · rw [ha, hj] at hdet
    have hmem : j ∈ missing (survivors data lost) ∧ l ∈ missing (survivors data lost) := by simp [hj]
    have same_length : (data.getD j []).length = (data.getD l []).length :=
      (missing_unit_length hdata hmem.1).trans (missing_unit_length hdata hmem.2).symm
    rw [solveBlock_two hj ha hdet, survivors_length, syndromeOf_two hdata hj (by simp [ha]),
      syndromeOf_two hdata hj (by simp [ha])]
    refine congrArg some (range_map_eq_data fun i hi => ?_)
    split
    next h => rw [h]; exact cramer_solves _ _ _ _ _ _ same_length hdet
    next h =>
      split
      next h' => rw [h']; exact cramer_solves_second _ _ _ _ _ _ same_length hdet
      next h' => exact survivors_getD_of_not_missing hi (by simp [hj, h, h'])

end

end

end Sys2Proof.Proofs.Redundancy
end

section
open Sys2Proof Sys2Proof.Machine Sys2Proof.Proofs.Redundancy

/-- Settles O58: the field's laws from the linearity of `gfMul`, the units' bytes from the sum that defines them, and
the lost units by Cramer's rule from what the standing accumulators hold beyond the known data. -/
theorem lostUnitsAreSolvedFromTheRest : Obligations.LostUnitsAreSolvedFromTheRest := by
  refine ⟨fun a b c => ⟨gfMul_xor_left a b c, gfMul_comm a b, gfMul_assoc a b c, gfMul_one_left a,
      (gfMul_two_left a).trans (gfDouble_eq a), gfMul_gfInv a⟩,
    ⟨rfl, gfPow_succ, gfPow_mod, by decide, by decide, by decide, by decide +kernel⟩,
    fun d a data i hdata _ => ⟨redBlock_length hdata d a, redBlock_getD hdata d a i⟩,
    fun d data lost avail m hdata => ?_⟩
  have missing_eq := missing_survivors (data := data) (lost := lost)
  have chosen_eq := chosen_standing (d := d) (data := data) (lost := lost) (avail := avail) (m := m)
  refine ⟨fun ⟨_, hdet⟩ => ?_, fun h => ?_⟩
  · rw [← chosen_eq, ← missing_eq] at hdet
    exact solveBlock_survivors hdata hdet
  · rw [← chosen_eq, ← missing_eq] at h
    exact solveBlock_unsolvable h

end

section
/-! `chunks` and `flatten` undo each other, and so does XOR with one string twice. -/
namespace Sys2Proof.Proofs.Encryption
open Sys2Proof Sys2Proof.Machine Sys2Proof.Laws

theorem xorBytes_length_eq {n : Nat} {x k : Bytes} (hx : x.length = n) (hk : k.length = n) : (xorBytes x k).length = n := by
  rw [xorBytes_length, hx, hk, Nat.min_self]

theorem xorBytes_cancel_eq {n : Nat} {x k : Bytes} (hx : x.length = n) (hk : k.length = n) :
    xorBytes (xorBytes x k) k = x :=
  xorBytes_cancel x k (Nat.le_of_eq (hx.trans hk.symm))

theorem flatten_chunks {n m : Nat} {l : Bytes} (h : l.length ≤ n * m) : (chunks n m l).flatten = l := by
  induction m generalizing l with
  | zero => rw [List.length_eq_zero_iff.mp (Nat.le_zero.mp h)]; rfl
  | succ m ih =>
    cases l with
    | nil => rfl
    | cons a l =>
      have rest : ((a :: l).drop n).length ≤ n * m := by
        rw [Nat.mul_succ] at h
        rw [List.length_drop]
        omega
      rw [chunks, if_neg (by simp), List.flatten_cons, ih rest, List.take_append_drop]

theorem chunks_flatten {n m : Nat} {cs : List Bytes} (hn : 0 < n) (hm : cs.length = m) (h : ∀ c ∈ cs, c.length = n) :
    chunks n m cs.flatten = cs := by
  subst hm
  induction cs with
  | nil => rfl
  | cons c cs ih =>
    obtain ⟨hc, hcs⟩ := List.forall_mem_cons.mp h
    have nonempty : ¬ (c ++ cs.flatten).isEmpty := by
      rw [List.isEmpty_iff_length_eq_zero, List.length_append]
      omega
    rw [List.length_cons, List.flatten_cons, chunks, if_neg nonempty, List.take_left' hc, List.drop_left' hc, ih hcs]

end Sys2Proof.Proofs.Encryption
end

section
/-! AES-256 run backwards (10 R300): each step of a round has its inverse, so a round has, and the inverse rounds in the
opposite order undo the rounds. -/
namespace Sys2Proof.Proofs.Encryption
open Sys2Proof Sys2Proof.Machine Sys2Proof.Laws Sys2Proof.Proofs.Redundancy

/-! SubBytes and ShiftRows. -/

@[simp] theorem invSubByte_subByte (b : Byte) : invSubByte (subByte b) = b := by
  revert b; decide +kernel

theorem map_invSubByte_subByte (s : Bytes) : (s.map subByte).map invSubByte = s := by
  simp [Function.comp_def]

@[simp] theorem shiftRows_length (s : Bytes) : (shiftRows s).length = 16 := by simp [shiftRows]

theorem getB_shiftRows (s : Bytes) {i : Nat} (h : i < 16) : getB (shiftRows s) i = getB s ((i + 4 * (i % 4)) % 16) := by
  simp [getB, shiftRows, List.getD_eq_getElem?_getD, h]

theorem invShiftRows_shiftRows {s : Bytes} (hs : s.length = 16) : invShiftRows (shiftRows s) = s := by
  refine List.ext_getElem (by simp [invShiftRows, hs]) fun i _ hi => ?_
  have back : ((i + 12 * (i % 4)) % 16 + 4 * ((i + 12 * (i % 4)) % 16 % 4)) % 16 = i := by omega
  simp only [invShiftRows, List.getElem_map, List.getElem_range]
  rw [getB_shiftRows s (by omega), back, getB, List.getD_eq_getElem?_getD, List.getElem?_eq_getElem hi, Option.getD_some]

/-! MixColumns. The product in the AES field is additive in its second operand, so the two circulant matrices are inverse
as soon as the coefficient of each byte is. -/

theorem xtime_eq (b : Byte) : xtime b = (b <<< 1) ^^^ (if b.msb then 0x1B else 0) := by
  cases h : b.msb <;> simp [xtime, h]

theorem xtime_xor (a b : Byte) : xtime (a ^^^ b) = xtime a ^^^ xtime b := by
  simp only [xtime_eq, BitVec.msb_xor, BitVec.shiftLeft_xor_distrib, xor_xor_xor_comm (a <<< 1)]
  cases a.msb <;> cases b.msb <;> simp

theorem aesMul_xor (k : Nat) (n b c : Byte) : aesMul k n (b ^^^ c) = aesMul k n b ^^^ aesMul k n c := by
  induction k generalizing n b c with
  | zero => simp [aesMul]
  | succ k ih =>
    simp only [aesMul, xtime_xor, ih]
    rw [xor_xor_xor_comm _ (aesMul k _ _)]
    cases n.getLsbD 0 <;> simp

/-- A row of the circulant matrix times a column that is read from the row's own byte on. -/
def mixRow (m₀ m₁ m₂ m₃ a b c d : Byte) : Byte := aesMul 8 m₀ a ^^^ aesMul 8 m₁ b ^^^ aesMul 8 m₂ c ^^^ aesMul 8 m₃ d

theorem mixColumn_eq (m₀ m₁ m₂ m₃ a b c d : Byte) :
    mixColumn [m₀, m₁, m₂, m₃] [a, b, c, d] =
      [mixRow m₀ m₁ m₂ m₃ a b c d, mixRow m₀ m₁ m₂ m₃ b c d a, mixRow m₀ m₁ m₂ m₃ c d a b, mixRow m₀ m₁ m₂ m₃ d a b c] := by
  have columnOrder : mixColumn [m₀, m₁, m₂, m₃] [a, b, c, d] =
      [0#8 ^^^ aesMul 8 m₀ a ^^^ aesMul 8 m₁ b ^^^ aesMul 8 m₂ c ^^^ aesMul 8 m₃ d,
       0#8 ^^^ aesMul 8 m₃ a ^^^ aesMul 8 m₀ b ^^^ aesMul 8 m₁ c ^^^ aesMul 8 m₂ d,
       0#8 ^^^ aesMul 8 m₂ a ^^^ aesMul 8 m₃ b ^^^ aesMul 8 m₀ c ^^^ aesMul 8 m₁ d,
       0#8 ^^^ aesMul 8 m₁ a ^^^ aesMul 8 m₂ b ^^^ aesMul 8 m₃ c ^^^ aesMul 8 m₀ d] := rfl
  simp only [columnOrder, BitVec.zero_xor, mixRow, List.cons.injEq, and_true, true_and]
  refine ⟨?_, ?_, ?_⟩ <;> ac_rfl

/-- The coefficient with which each byte of a column returns from the first row of the inverse matrix. -/
theorem unmix_coefficients (x : Byte) :
    mixRow 14 11 13 9 (aesMul 8 2 x) (aesMul 8 1 x) (aesMul 8 1 x) (aesMul 8 3 x) = x ∧
    mixRow 14 11 13 9 (aesMul 8 3 x) (aesMul 8 2 x) (aesMul 8 1 x) (aesMul 8 1 x) = 0#8 ∧
    mixRow 14 11 13 9 (aesMul 8 1 x) (aesMul 8 3 x) (aesMul 8 2 x) (aesMul 8 1 x) = 0#8 ∧
    mixRow 14 11 13 9 (aesMul 8 1 x) (aesMul 8 1 x) (aesMul 8 3 x) (aesMul 8 2 x) = 0#8 := by
  revert x; decide +kernel

theorem mixRow_inverse (a b c d : Byte) :
    mixRow 14 11 13 9 (mixRow 2 3 1 1 a b c d) (mixRow 2 3 1 1 b c d a) (mixRow 2 3 1 1 c d a b) (mixRow 2 3 1 1 d a b c) =
      a := by
  obtain ⟨ha, -, -, -⟩ := unmix_coefficients a
  obtain ⟨-, hb, -, -⟩ := unmix_coefficients b
  obtain ⟨-, -, hc, -⟩ := unmix_coefficients c
  obtain ⟨-, -, -, hd⟩ := unmix_coefficients d
  calc
    _ = mixRow 14 11 13 9 (aesMul 8 2 a) (aesMul 8 1 a) (aesMul 8 1 a) (aesMul 8 3 a) ^^^
        mixRow 14 11 13 9 (aesMul 8 3 b) (aesMul 8 2 b) (aesMul 8 1 b) (aesMul 8 1 b) ^^^
        mixRow 14 11 13 9 (aesMul 8 1 c) (aesMul 8 3 c) (aesMul 8 2 c) (aesMul 8 1 c) ^^^
        mixRow 14 11 13 9 (aesMul 8 1 d) (aesMul 8 1 d) (aesMul 8 3 d) (aesMul 8 2 d) := by
      simp only [mixRow, aesMul_xor]
      ac_rfl
    _ = a := by rw [ha, hb, hc, hd, BitVec.xor_zero, BitVec.xor_zero, BitVec.xor_zero]

theorem mixColumn_inverse {c : Bytes} (hc : c.length = 4) : mixColumn [14, 11, 13, 9] (mixColumn [2, 3, 1, 1] c) = c := by
  obtain ⟨a₀, a₁, a₂, a₃, rfl⟩ : ∃ a₀ a₁ a₂ a₃, c = [a₀, a₁, a₂, a₃] := by
    match c, hc with
    | [a₀, a₁, a₂, a₃], _ => exact ⟨a₀, a₁, a₂, a₃, rfl⟩
  rw [mixColumn_eq, mixColumn_eq, mixRow_inverse, mixRow_inverse, mixRow_inverse, mixRow_inverse]

theorem mixColumn_length (m : List Byte) (c : Bytes) : (mixColumn m c).length = 4 := by simp [mixColumn]

theorem mixedColumns_even (m : List Byte) {s : Bytes} (hs : s.length = 16) :
    ((chunks 4 4 s).map (mixColumn m)).length = 4 ∧ ∀ c ∈ (chunks 4 4 s).map (mixColumn m), c.length = 4 :=
  ⟨(List.length_map ..).trans (chunks_even 4 4 s (by decide) hs).1,
    List.forall_mem_map.mpr fun c _ => mixColumn_length m c⟩

/-- A state's columns are mixed one by one. -/
theorem chunks_mixColumns (m : List Byte) {s : Bytes} (hs : s.length = 16) :
    chunks 4 4 (mixColumns m s) = (chunks 4 4 s).map (mixColumn m) :=
  let ⟨count, columns⟩ := mixedColumns_even m hs
  chunks_flatten (by decide) count columns

theorem mixColumns_length (m : List Byte) {s : Bytes} (hs : s.length = 16) : (mixColumns m s).length = 16 := by
  obtain ⟨count, columns⟩ := mixedColumns_even m hs
  rw [mixColumns, List.flatMap_def, flatten_length 4 _ columns, count]

theorem mixColumns_inverse {s : Bytes} (hs : s.length = 16) :
    mixColumns [14, 11, 13, 9] (mixColumns [2, 3, 1, 1] s) = s := by
  have inverse : ∀ c ∈ chunks 4 4 s, mixColumn [14, 11, 13, 9] (mixColumn [2, 3, 1, 1] c) = c :=
    fun c hc => mixColumn_inverse ((chunks_even 4 4 s (by decide) hs).2 c hc)
  rw [mixColumns, chunks_mixColumns _ hs, List.flatMap_map, List.flatMap_def, List.map_congr_left inverse, List.map_id',
    flatten_chunks (Nat.le_of_eq hs)]

/-! The rounds. -/

/-- One of the 13 middle rounds under its key. -/
def aesRound (s k : Bytes) : Bytes := xorBytes (mixColumns [2, 3, 1, 1] (shiftRows (s.map subByte))) k

/-- One of the 13 middle rounds backwards. -/
def aesInvRound (s k : Bytes) : Bytes := (invShiftRows (mixColumns [14, 11, 13, 9] (xorBytes s k))).map invSubByte

theorem aesRounds_eq (rk : List Bytes) (b : Bytes) :
    aesRounds rk b =
      xorBytes (shiftRows ((((rk.drop 1).take 13).foldl aesRound (xorBytes b (rk.headD []))).map subByte)) (rk.getD 14 []) :=
  rfl

theorem aesInvRounds_eq (rk : List Bytes) (b : Bytes) :
    aesInvRounds rk b =
      xorBytes (((rk.drop 1).take 13).reverse.foldl aesInvRound
        ((invShiftRows (xorBytes b (rk.getD 14 []))).map invSubByte)) (rk.headD []) :=
  rfl

theorem invShiftRows_shiftRows_subBytes {s : Bytes} (hs : s.length = 16) :
    (invShiftRows (shiftRows (s.map subByte))).map invSubByte = s := by
  rw [invShiftRows_shiftRows (by rw [List.length_map, hs]), map_invSubByte_subByte]

theorem aesRound_length {s k : Bytes} (hk : k.length = 16) : (aesRound s k).length = 16 :=
  xorBytes_length_eq (mixColumns_length _ (shiftRows_length _)) hk

theorem aesInvRound_aesRound {s k : Bytes} (hs : s.length = 16) (hk : k.length = 16) : aesInvRound (aesRound s k) k = s := by
  have mixed := mixColumns_length [2, 3, 1, 1] (shiftRows_length (s.map subByte))
  rw [aesInvRound, aesRound, xorBytes_cancel_eq mixed hk, mixColumns_inverse (shiftRows_length _),
    invShiftRows_shiftRows_subBytes hs]

theorem foldl_aesRound_length {ks : List Bytes} {s : Bytes} (hks : ∀ k ∈ ks, k.length = 16) (hs : s.length = 16) :
    (ks.foldl aesRound s).length = 16 := by
  induction ks generalizing s with
  | nil => exact hs
  | cons k ks ih =>
    obtain ⟨hk, hks⟩ := List.forall_mem_cons.mp hks
    exact ih hks (aesRound_length hk)

theorem foldl_aesInvRound_foldl_aesRound {ks : List Bytes} {s : Bytes} (hks : ∀ k ∈ ks, k.length = 16)
    (hs : s.length = 16) : ks.reverse.foldl aesInvRound (ks.foldl aesRound s) = s := by
  induction ks generalizing s with
  | nil => rfl
  | cons k ks ih =>
    obtain ⟨hk, hks⟩ := List.forall_mem_cons.mp hks
    have inner : ks.reverse.foldl aesInvRound ((k :: ks).foldl aesRound s) = aesRound s k := ih hks (aesRound_length hk)
    rw [List.reverse_cons, List.foldl_append, inner]
    exact aesInvRound_aesRound hs hk

theorem aesInvRounds_aesRounds {rk : List Bytes} {b : Bytes} (hlen : rk.length = 15) (hrk : ∀ k ∈ rk, k.length = 16)
    (hb : b.length = 16) : aesInvRounds rk (aesRounds rk b) = b := by
  obtain ⟨k₀, ks, rfl⟩ := List.exists_cons_of_length_eq_add_one hlen
  have first : k₀.length = 16 := hrk k₀ List.mem_cons_self
  have last : ((k₀ :: ks).getD 14 []).length = 16 := getD_length 16 14 _ (by omega) hrk
  have middle : ∀ k ∈ ((k₀ :: ks).drop 1).take 13, k.length = 16 :=
    fun k hk => hrk k (List.mem_of_mem_drop (List.mem_of_mem_take hk))
  have whitened : (xorBytes b k₀).length = 16 := xorBytes_length_eq hb first
  rw [aesRounds_eq, aesInvRounds_eq, List.headD_cons, xorBytes_cancel_eq (shiftRows_length _) last,
    invShiftRows_shiftRows_subBytes (foldl_aesRound_length middle whitened),
    foldl_aesInvRound_foldl_aesRound middle whitened, xorBytes_cancel_eq hb first]

theorem aesInvRounds_roundKeys {key b : Bytes} (hkey : key.length = 32) (hb : b.length = 16) :
    aesInvRounds (roundKeys key) (aesRounds (roundKeys key) b) = b :=
  let ⟨hlen, hrk⟩ := roundKeys_even key hkey
  aesInvRounds_aesRounds hlen hrk hb

end Sys2Proof.Proofs.Encryption
end

section
/-! XTS over the pieces of a block (10 R311), and the keystream of a wrap (10 R302). -/
namespace Sys2Proof.Proofs.Encryption
open Sys2Proof Sys2Proof.Machine Sys2Proof.Laws

@[simp] theorem leBytes_length (n v : Nat) : (leBytes n v).length = n := by
  induction n generalizing v with
  | zero => rfl
  | succ n ih => simp [leBytes, ih]

theorem xtsTweak_length {k : VolKeys} (lbn : Nat) (h : k.xts2.length = 32) : (xtsTweak k lbn).length = 16 :=
  aesRounds_length k.xts2 _ h

theorem xtsDouble_length (t : Bytes) : (xtsDouble t).length = 16 := leBytes_length 16 _

@[simp] theorem xtsPass_length (f : Bytes → Bytes) (t : Bytes) (bs : List Bytes) : (xtsPass f t bs).length = bs.length := by
  induction bs generalizing t with
  | nil => rfl
  | cons b bs ih => simp [xtsPass, ih]

section
variable {f g : Bytes → Bytes} {t : Bytes} {bs : List Bytes} (hf : ∀ b, (f b).length = 16) (ht : t.length = 16)
include hf ht

theorem xtsPass_pieces : ∀ c ∈ xtsPass f t bs, c.length = 16 := by
  induction bs generalizing t with
  | nil => simp [xtsPass]
  | cons b bs ih =>
    exact List.forall_mem_cons.mpr ⟨xorBytes_length_eq (hf _) ht, ih (xtsDouble_length t)⟩

/-- Both passes run through the same tweaks, and each tweak meets itself on either side of the cipher. -/
theorem xtsPass_inverse (hgf : ∀ b : Bytes, b.length = 16 → g (f b) = b) (hbs : ∀ b ∈ bs, b.length = 16) :
    xtsPass g t (xtsPass f t bs) = bs := by
  induction bs generalizing t with
  | nil => rfl
  | cons b bs ih =>
    obtain ⟨hb, hbs⟩ := List.forall_mem_cons.mp hbs
    have piece : g (f (xorBytes b t)) = xorBytes b t := hgf _ (xorBytes_length_eq hb ht)
    rw [xtsPass, xtsPass, ih (xtsDouble_length t) hbs, xorBytes_cancel_eq (hf _) ht, piece,
      xorBytes_cancel_eq hb ht]

end

section
variable {k : VolKeys} (h₁ : k.xts1.length = 32) (h₂ : k.xts2.length = 32) (lbn : Nat) {b : Bytes}
  (hb : b.length = blockBytes)
include h₁ h₂ hb

theorem xtsPieces_even :
    (xtsPass (aesRounds (roundKeys k.xts1)) (xtsTweak k lbn) (chunks 16 256 b)).length = 256 ∧
      ∀ c ∈ xtsPass (aesRounds (roundKeys k.xts1)) (xtsTweak k lbn) (chunks 16 256 b), c.length = 16 :=
  ⟨(xtsPass_length ..).trans (chunks_even 16 256 b (by decide) hb).1,
    xtsPass_pieces (aesRounds_length _ · h₁) (xtsTweak_length lbn h₂)⟩

/-- The pieces of what is encrypted are the encrypted pieces. -/
theorem chunks_xtsEnc :
    chunks 16 256 (xtsEnc k lbn b) = xtsPass (aesRounds (roundKeys k.xts1)) (xtsTweak k lbn) (chunks 16 256 b) :=
  let ⟨count, pieces⟩ := xtsPieces_even h₁ h₂ lbn hb
  chunks_flatten (by decide) count pieces

theorem xtsEnc_length : (xtsEnc k lbn b).length = blockBytes := by
  obtain ⟨count, pieces⟩ := xtsPieces_even h₁ h₂ lbn hb
  rw [xtsEnc, flatten_length 16 _ pieces, count]

theorem xtsDec_xtsEnc : xtsDec k lbn (xtsEnc k lbn b) = b := by
  have pieces := xtsPass_inverse (aesRounds_length _ · h₁) (xtsTweak_length lbn h₂)
    (fun _ => aesInvRounds_roundKeys h₁) (chunks_even 16 256 b (by decide) hb).2
  rw [xtsDec, chunks_xtsEnc h₁ h₂ lbn hb, pieces, flatten_chunks (Nat.le_of_eq hb)]

end

/-- The keystream begins at the tag, filled up with zero bytes. -/
theorem ctrWrap_eq (key x : Bytes) {tag : Bytes} {t : Nat} (htag : tag.length = t) (ht : t ≤ 16) :
    ctrWrap key tag x =
      xorBytes x (aesEnc key (tag ++ zeros (16 - t)) ++
        aesEnc key (beBytes 16 ((beNat (tag ++ zeros (16 - t)) + 1) % 2 ^ 128))) := by
  have block : padTo 16 tag = tag ++ zeros (16 - t) := by rw [padTo, List.take_of_length_le (by omega), htag]
  rw [ctrWrap, block]
  rfl

theorem ctrWrap_length {key x : Bytes} (tag : Bytes) (hkey : key.length = 32) (hx : x.length = 32) :
    (ctrWrap key tag x).length = 32 := by
  simp [ctrWrap, aesRounds_length _ _ hkey, hx]

section
variable {t : Nat} {k : Bytes} (ctx : Bytes) {x : Bytes} (hk : k.length = 32) (ht : t ≤ 16)
include hk ht

theorem wrapTag_length (x : Bytes) : ((cmac (kdf k (label "WMC") ctx) x).take t).length = t := by
  rw [List.length_take, cmac_length _ _ (kdf_length _ _ _ hk), Nat.min_eq_left ht]

theorem wrap_length (hx : x.length = 32) : (wrap t k ctx x).length = 32 + t := by
  rw [wrap, List.length_append, ctrWrap_length _ (kdf_length _ _ _ hk) hx, wrapTag_length ctx hk ht]

end

end Sys2Proof.Proofs.Encryption
end

section
open Sys2Proof Sys2Proof.Machine Sys2Proof.Laws Sys2Proof.Proofs.Encryption

/-- Settles O59: a wrap by the lengths of its parts and the keystream XORed twice, AES-256 by the inverse of each step of
its rounds, and XTS piece by piece, each tweak meeting itself again. -/
theorem whatIsEncryptedIsDecryptedAgain : Obligations.WhatIsEncryptedIsDecryptedAgain := by
  refine ⟨fun t k ctx x hk hx ht => ⟨?_, wrap_length ctx hk ht hx, unwrap_wrap t k ctx x hk hx ht⟩,
    fun t k ctx w hk hw ht => ?_,
    fun f u cred amk hf hamk => wrap_length _ (kdf_length _ _ _ (kdf_length _ _ _ hf)) (by decide) hamk,
    fun amk u v vs hamk hvs => wrap_length _ (kdf_length _ _ _ hamk) (by decide) hvs,
    fun key b hkey hb => aesInvRounds_roundKeys hkey hb,
    fun k lbn b h₁ h₂ hb => ⟨xtsEnc_length h₁ h₂ lbn hb, xtsDec_xtsEnc h₁ h₂ lbn hb⟩⟩
  · rw [wrap, ctrWrap_eq _ _ (wrapTag_length ctx hk ht x) ht]
  · have tag_length : (w.drop 32).length = t := by rw [List.length_drop, hw, Nat.add_sub_cancel_left]
    have tag_eq : slice w 32 t = w.drop 32 := List.take_of_length_le (Nat.le_of_eq tag_length)
    rw [unwrap, tag_eq, ctrWrap_eq _ _ tag_length ht]

end

section
/-! The supply and the always-on domain (03 R67, 14 R437, R443): at the loss of VIN the commits under way reach the root
store and the journal only, and a dead always-on domain loses its comparators, latch and clock only. -/
namespace Sys2Proof.Proofs.Supply
open Sys2Proof Sys2Proof.Machine

/-! ## The commits under way -/

/-- Only the root store and the journal may differ. -/
def TouchesJournal (s t : State) : Prop := ∃ r j, t = { s with root := r, jnl := j }

theorem TouchesJournal.refl (s : State) : TouchesJournal s s := ⟨_, _, rfl⟩

theorem TouchesJournal.trans {s t u : State} : TouchesJournal s t → TouchesJournal t u → TouchesJournal s u := by
  rintro ⟨_, _, rfl⟩ ⟨_, _, rfl⟩
  exact ⟨_, _, rfl⟩

theorem modJnl_touches (s : State) (f : JnlSt → JnlSt) : TouchesJournal s (s.modJnl f) := ⟨_, _, rfl⟩

/-- What a loss of VIN reads of the state once the writes have landed. -/
theorem TouchesJournal.stands {s t : State} : TouchesJournal s t →
    t.supply = s.supply ∧ t.fuse = s.fuse ∧ t.fw = s.fw ∧ t.pending = s.pending ∧ t.out = s.out := by
  rintro ⟨_, _, rfl⟩
  exact ⟨rfl, rfl, rfl, rfl, rfl⟩

theorem bumpCounters_touches (s : State) (c : JCommit) : TouchesJournal s (bumpCounters s c) := by
  refine TouchesJournal.trans (t := c.writes.foldl _ s) ?_ ⟨_, _, rfl⟩
  exact foldl_keeps TouchesJournal.refl (fun _ _ _ => TouchesJournal.trans) _ (fun s _ => modJnl_touches s _) _ _

theorem completeRecs_touches (s : State) (c : JCommit) : TouchesJournal s (completeRecs s c) := ⟨_, _, rfl⟩

theorem landCommit_touches (s : State) (c : JCommit) (rest : List JCommit) : TouchesJournal s (landCommit s c rest) := by
  have lines : TouchesJournal s (landLines (s.modJnl fun j => { j with inflight := rest }) c.writes) := ⟨_, _, rfl⟩
  exact (lines.trans (bumpCounters_touches _ c)).trans (completeRecs_touches _ c)

theorem tearCommit_touches (s : State) (c : JCommit) (n : Nat) : TouchesJournal s (tearCommit s c n) := ⟨_, _, rfl⟩

theorem landCommits_touches (s : State) (n : Nat) (cs : List JCommit) : TouchesJournal s (landCommits s n cs) := by
  induction cs generalizing s n with
  | nil => cases n <;> exact TouchesJournal.refl s
  | cons c cs ih =>
    cases n with
    | zero => exact TouchesJournal.refl s
    | succ n =>
      rw [landCommits]
      split
      · exact (landCommit_touches s c cs).trans (ih _ _)
      · exact tearCommit_touches s c _

theorem landWrites_touches (s : State) (n : Nat) : TouchesJournal s (landWrites s n) := landCommits_touches s n _

theorem landWrites_of_idle {s : State} (n : Nat) (h : s.jnl.inflight = []) : landWrites s n = s := by
  rw [landWrites, h]
  cases n <;> rfl

/-! ## The always-on domain without its supply -/

/-- The device as VIN leaves it, before the always-on domain answers to VBAT (14 R437). -/
def vaultSession (s : State) (landed : Nat) (reversed : Bool) : State :=
  let t := freshSession (landWrites s landed)
  { t with
    supply := { t.supply with vin := false, vinReversed := t.supply.vinReversed || reversed },
    clock := { t.clock with phase := .stopped },
    mode := { t.mode with
      mode := .vault, prior := s.mode.mode, auxOwn := #v[vaultAux (s.mode.auxOwn.toList.getD 0 0), 0, 0, 0] } }

theorem exec_vinLost {s : State} (n : Nat) (rev : Bool) (h : s.mode.mode ≠ .vault) :
    exec (.vinLost n rev) s =
      .next (if aonAlive (vaultSession s n rev) then vaultSession s n rev else loseAon (vaultSession s n rev)) :=
  if_neg h

/-- Whether the always-on domain holds or not, only its comparators, the SEC block and its clock may differ. -/
theorem aonUnlessDead_touches (s : State) : ∃ a c r l, (if aonAlive s then s else loseAon s) =
    { s with mode := { s.mode with acmp := a }, sec := c, clock := { s.clock with rtc := r, aonLost := l } } := by
  split
  · exact ⟨_, _, _, _, rfl⟩
  · exact ⟨_, _, _, _, rfl⟩

theorem loseAon_acmp (s : State) : ∀ x ∈ (loseAon s).mode.acmp.toList, x = none := by
  have all : (loseAon s).mode.acmp = s.mode.acmp.map fun _ => none := by
    refine congrArg (s.mode.acmp.map ·) (funext fun a => ?_)
    cases a <;> rfl
  rw [all]
  simp

theorem exec_vbatLost {s : State} (hvin : s.supply.vin = false) (hvbat : s.supply.vbat = true) :
    exec .vbatLost s = .next (loseAon { s with supply := { s.supply with vbat := false } }) :=
  if_neg (by simp [hvin, hvbat])

theorem exec_vbatRestored {s : State} (hvin : s.supply.vin = false) (hvbat : s.supply.vbat = false) :
    exec .vbatRestored s =
      .next { s with supply := { s.supply with vbat := true, vbatReversed := false },
                     clock := { s.clock with rtc := 0, aonLost := true } } :=
  if_neg (by simp [aonAlive, hvin, hvbat])

/-! ## F0 -/

theorem exec_powerOnEnd {s : State} (strap : Bool) (hm : s.mode.mode = .start) (hs : s.start.stage = .h) :
    exec (.powerOnEnd strap) s = .next (freshSession { s with supply := { s.supply with strap := strap } }) :=
  if_neg (by simp [hm, hs])

/-! ## WAKE_IN (02 R48) -/

theorem exec_wakeIn_vault {s : State} (haux : s.mode.auxOwn.toList.getD 0 0 = 7) (hm : s.mode.mode = .vault) :
    exec .wakeIn s = .next (powerStage s) := by
  change execWakeIn s = _
  rw [execWakeIn, if_neg (not_not_intro haux), hm]

theorem exec_wakeIn_drowse {s : State} (haux : s.mode.auxOwn.toList.getD 0 0 = 7) (hm : s.mode.mode = .drowse) :
    exec .wakeIn s = .next (wakeDrowse s 0) := by
  change execWakeIn s = _
  rw [execWakeIn, if_neg (not_not_intro haux), hm]

/-- With no transition planned, Drowse plans the wake and stands until it takes effect. -/
theorem wakeDrowse_plans {s : State} (src : Nat) (hm : s.mode.mode = .drowse) (hp : s.mode.plan = none) :
    ((wakeDrowse s src).mode.plan.map fun m => (m.kind, m.cause)) = some (.wake, 0x0D) ∧
      (wakeDrowse s src).mode.mode = .drowse := by
  rw [wakeDrowse, if_neg (not_not_intro hm)]
  refine ⟨by rw [planMode_plan _ _ _ _ _ _ _ _ hp]; rfl, ?_⟩
  obtain ⟨p, hplan⟩ := planMode_touches s
    (if isCondition s.mode.drowseFrom then condMode s.mode.cond else s.mode.drowseFrom) .wake 0x0D src 7 none false
  rw [hplan]
  exact hm

end Sys2Proof.Proofs.Supply
end

section
/-! The test port (14 R449, R450). The capture is a number whose binary digits are the cells; a scan of as many bits as
there are cells sends the capture out and leaves what came in. -/
namespace Sys2Proof.Proofs.TestPort
open Sys2Proof Sys2Proof.Machine

/-! ## Capture -/

/-- The number whose digits 2i and 2i + 1 are `f i` and `g i`, for i below n. -/
def cellSum (f g : Nat → Bool) (n : Nat) : Nat :=
  ((List.range n).map fun i => 2 ^ (2 * i) * bit (f i) + 2 ^ (2 * i + 1) * bit (g i)).sum

theorem cellSum_succ (f g : Nat → Bool) (n : Nat) :
    cellSum f g (n + 1) = 2 ^ (2 * n) * (bit (f n) + 2 * bit (g n)) + cellSum f g n := by
  simp only [cellSum, List.range_succ, List.map_append, List.sum_append, List.map_cons, List.map_nil, List.sum_cons,
    List.sum_nil]
  rw [Nat.pow_succ, Nat.mul_add, Nat.mul_assoc, Nat.add_zero, Nat.add_comm]

theorem cellSum_lt (f g : Nat → Bool) (n : Nat) : cellSum f g n < 2 ^ (2 * n) := by
  induction n with
  | zero => exact Nat.one_pos
  | succ n ih =>
    have pair : bit (f n) + 2 * bit (g n) ≤ 3 := by cases f n <;> cases g n <;> decide
    have step : 2 ^ (2 * (n + 1)) = 2 ^ (2 * n) * 3 + 2 ^ (2 * n) := by
      rw [Nat.mul_succ, Nat.pow_add]
      omega
    rw [cellSum_succ, step]
    exact Nat.add_lt_add_of_le_of_lt (Nat.mul_le_mul_left _ pair) ih

theorem testBit_pair (a b : Bool) : (bit a + 2 * bit b).testBit 0 = a ∧ (bit a + 2 * bit b).testBit 1 = b := by
  cases a <;> cases b <;> decide

theorem testBit_cellSum (f g : Nat → Bool) {n i : Nat} (h : i < n) :
    (cellSum f g n).testBit (2 * i) = f i ∧ (cellSum f g n).testBit (2 * i + 1) = g i := by
  induction n with
  | zero => omega
  | succ n ih =>
    simp only [cellSum_succ, Nat.testBit_two_pow_mul_add _ (cellSum_lt f g n)]
    obtain hi | rfl := Nat.lt_succ_iff_lt_or_eq.mp h
    · rw [if_pos (by omega), if_pos (by omega)]
      exact ih hi
    · rw [if_neg (by omega), if_neg (by omega), Nat.sub_self, Nat.add_sub_cancel_left]
      exact testBit_pair _ _

theorem scanCapture_getLsbD (s : State) (lv : BitVec 29) {i : Nat} (h : i < 29) :
    (scanCapture s lv).getLsbD (2 * i) = (ballDrives s i).getD (lv.getLsbD i) ∧
      (scanCapture s lv).getLsbD (2 * i + 1) = (coreDrives s i).isSome := by
  obtain ⟨level, enable⟩ :=
    testBit_cellSum (fun i => (ballDrives s i).getD (lv.getLsbD i)) (fun i => (coreDrives s i).isSome) h
  have cells : scanCapture s lv = BitVec.ofNat 58
      (cellSum (fun i => (ballDrives s i).getD (lv.getLsbD i)) (fun i => (coreDrives s i).isSome) 29) := rfl
  rw [cells, BitVec.getLsbD_ofNat, BitVec.getLsbD_ofNat, level, enable]
  simp only [show 2 * i < 58 by omega, show 2 * i + 1 < 58 by omega, decide_true, Bool.true_and, and_self]

/-! ## Shift -/

/-- One bit enters the last cell, and every other cell takes the next one's bit. -/
theorem getLsbD_shiftIn (b : Bool) (c : BitVec 58) (i : Nat) :
    ((c >>> 1) ||| BitVec.ofNat 58 (bit b * 2 ^ 57)).getLsbD i = if i = 57 then b else c.getLsbD (i + 1) := by
  have entry : (bit b * 2 ^ 57).testBit i = (decide (i = 57) && b) := by
    cases b
    · simp [bit]
    · rw [bit, if_pos rfl, Nat.one_mul, Nat.testBit_two_pow, Bool.and_true, decide_eq_decide]
      exact eq_comm
  rw [BitVec.getLsbD_or, BitVec.getLsbD_ushiftRight, BitVec.getLsbD_ofNat, entry, Nat.add_comm 1 i]
  split
  next e => simp [e]
  next e => simp [e]

theorem scanShift_length (bs : List Bool) (c : BitVec 58) : (scanShift bs c).1.length = bs.length := by
  induction bs generalizing c with
  | nil => rfl
  | cons b bs ih => exact congrArg (· + 1) (ih _)

/-- The cells leave in their order. -/
theorem scanShift_out {bs : List Bool} (c : BitVec 58) {i : Nat} (hi : i < 58) (h : i < bs.length) :
    (scanShift bs c).1.getD i false = c.getLsbD i := by
  induction bs generalizing c i with
  | nil => exact absurd h (Nat.not_lt_zero i)
  | cons b bs ih =>
    cases i with
    | zero => rfl
    | succ i =>
      have rest := ih (c >>> 1 ||| BitVec.ofNat 58 (bit b * 2 ^ 57)) (by omega) (Nat.lt_of_succ_lt_succ h)
      rw [getLsbD_shiftIn, if_neg (by omega)] at rest
      exact rest

/-- After a scan of at most 58 bits the last cells hold them in their order, and the others what was that far behind. -/
theorem scanShift_cells {bs : List Bool} (c : BitVec 58) {i : Nat} (hi : i < 58) (h : bs.length ≤ 58) :
    (scanShift bs c).2.getLsbD i =
      if i + bs.length < 58 then c.getLsbD (i + bs.length) else bs.getD (i + bs.length - 58) false := by
  induction bs generalizing c with
  | nil => exact (if_pos hi).symm
  | cons b bs ih =>
    rw [List.length_cons] at h ⊢
    have rest := ih (c >>> 1 ||| BitVec.ofNat 58 (bit b * 2 ^ 57)) (by omega)
    refine rest.trans ?_
    obtain before | entering | behind := Nat.lt_trichotomy (i + bs.length) 57
    · rw [if_pos (by omega), if_pos (by omega), getLsbD_shiftIn, if_neg (by omega), Nat.add_assoc]
    · rw [if_pos (by omega), if_neg (by omega), getLsbD_shiftIn, if_pos entering, ← Nat.add_assoc, entering]
      rfl
    · have next : i + (bs.length + 1) - 58 = i + bs.length - 58 + 1 := by omega
      rw [if_neg (by omega), if_neg (by omega), next, List.getD_cons_succ]

theorem scanShift_full {bs : List Bool} (c : BitVec 58) (h : bs.length = 58) {i : Nat} (hi : i < 58) :
    (scanShift bs c).2.getLsbD i = bs.getD i false := by
  rw [scanShift_cells c hi (Nat.le_of_eq h), h, if_neg (by omega), Nat.add_sub_cancel]

/-! ## The selected register -/

theorem dataScan_nil (s : State) (lv : BitVec 29) : dataScan s [] lv = s := if_pos rfl

theorem dataScan_boundary {s : State} {tdi : List Bool} (lv : BitVec 29) (htdi : tdi.length = 58)
    (hir : s.scanIr = 0 ∨ s.scanIr = 1) :
    dataScan s tdi lv =
      { s with scanCells := (scanShift tdi (scanCapture s lv)).2, scanHold := (scanShift tdi (scanCapture s lv)).2 }.emit
        (.tdo (scanShift tdi (scanCapture s lv)).1) := by
  have nonempty : tdi ≠ [] := List.ne_nil_of_length_eq_add_one htdi
  rw [dataScan, if_neg nonempty, if_pos hir]

theorem dataScan_bypass {s : State} (b : Bool) (tdi : List Bool) (lv : BitVec 29) (hir : s.scanIr = 0xFF) :
    dataScan s (b :: tdi) lv = s.emit (.tdo (false :: (b :: tdi).dropLast)) := by
  rw [dataScan, if_neg (List.cons_ne_nil b tdi), if_neg (by rw [hir]; decide), if_neg (by rw [hir]; decide)]

/-- What one data scan of the boundary register does under the instruction that stands (14 R450). -/
def ScansBoundary (s : State) (tdi : List Bool) (lv : BitVec 29) (t : State) : Prop :=
  (∀ i, i < 58 → t.scanHold.getLsbD i = tdi.getD i false) ∧ t.portA = s.portA ∧ t.portB = s.portB ∧ t.slots = s.slots ∧
    ∃ x, t.out = s.out ++ [.tdo x] ∧ x.length = 58 ∧ ∀ i, i < 29 →
      x.getD (2 * i) false = (ballDrives { s with scanIr := t.scanIr } i).getD (lv.getLsbD i) ∧
      x.getD (2 * i + 1) false = (coreDrives s i).isSome

theorem dataScan_scansBoundary (s : State) {c : BitVec 8} {tdi : List Bool} (lv : BitVec 29) (htdi : tdi.length = 58)
    (hc : c = 0 ∨ c = 1) : ScansBoundary s tdi lv (dataScan { s with scanIr := c } tdi lv) := by
  rw [dataScan_boundary lv htdi hc]
  refine ⟨fun i hi => scanShift_full _ htdi hi, rfl, rfl, rfl, _, rfl, (scanShift_length _ _).trans htdi, fun i hi => ?_⟩
  rw [scanShift_out _ (by omega) (by omega), scanShift_out _ (by omega) (by omega)]
  exact scanCapture_getLsbD _ lv hi

/-! ## The instruction -/

theorem pinsMode_iff (s : State) : pinsMode s = true ↔
    s.mode.mode = .service ∨ s.mode.mode = .factory ∨ (s.mode.mode = .start ∧ s.start.halt = true) := by
  simp [pinsMode, or_assoc]

theorem pinsMode_eq_false {s : State} (hs : s.mode.mode ≠ .service) (hf : s.mode.mode ≠ .factory)
    (hh : s.mode.mode = .start → s.start.halt = false) : pinsMode s = false := by
  rw [Bool.eq_false_iff, ne_eq, pinsMode_iff]
  rintro (service | factory | ⟨start, halt⟩)
  · exact hs service
  · exact hf factory
  · exact Bool.false_ne_true ((hh start).symm.trans halt)

theorem openLifecycle_iff (s : State) : openLifecycle s = true ↔ lifecycle s.fuse = .white ∨ lifecycle s.fuse = .red := by
  simp [openLifecycle]

section
variable (s : State) {c : BitVec 8}

theorem scanAct_pins (hc : c = 0 ∨ c = 2 ∨ c = 3) : scanAct s c = if pinsMode s then c else 0xFF := by
  rw [scanAct, if_neg (by rintro rfl; revert hc; decide), if_pos hc]

theorem not_pins_of_lt (hlo : 0x03 < c.toNat) : c ≠ 1 ∧ ¬ (c = 0 ∨ c = 2 ∨ c = 3) := by bv_omega

/-- An instruction that is not one of the pins' is carried out as its code selects, with no note. -/
theorem exec_scan_of_not_pins (tdi : List Bool) (lv : BitVec 29) (hc : ¬ (c = 0 ∨ c = 2 ∨ c = 3)) :
    exec (.boundaryScanInstruction ⟨c, tdi, lv⟩) s = .next (dataScan { s with scanIr := scanAct s c } tdi lv) := by
  change execBoundaryScanInstruction _ s = _
  simp only [execBoundaryScanInstruction, hc, false_and, if_false]

theorem exec_scan_sample (tdi : List Bool) (lv : BitVec 29) :
    exec (.boundaryScanInstruction ⟨1, tdi, lv⟩) s = .next (dataScan { s with scanIr := 1 } tdi lv) :=
  exec_scan_of_not_pins s tdi lv (by decide)

theorem exec_scan_internal (tdi : List Bool) (lv : BitVec 29) (hlo : 0x80 ≤ c.toNat) (hhi : c.toNat ≤ 0x8F) :
    exec (.boundaryScanInstruction ⟨c, tdi, lv⟩) s = .next (dataScan
      { s with scanIr := if lifecycle s.fuse = .white ∨ lifecycle s.fuse = .red then c else 0xFF } tdi lv) := by
  obtain ⟨notSample, notPins⟩ := not_pins_of_lt (c := c) (by omega)
  have act : scanAct s c = if lifecycle s.fuse = .white ∨ lifecycle s.fuse = .red then c else 0xFF := by
    rw [scanAct, if_neg notSample, if_neg notPins, if_pos ⟨hlo, hhi⟩]
    simp only [openLifecycle_iff]
  rw [exec_scan_of_not_pins s tdi lv notPins, act]

theorem exec_scan_other (tdi : List Bool) (lv : BitVec 29) (hlo : 0x03 < c.toNat) (hout : c.toNat < 0x80 ∨ 0x8F < c.toNat) :
    exec (.boundaryScanInstruction ⟨c, tdi, lv⟩) s = .next (dataScan { s with scanIr := 0xFF } tdi lv) := by
  obtain ⟨notSample, notPins⟩ := not_pins_of_lt hlo
  have act : scanAct s c = 0xFF := by rw [scanAct, if_neg notSample, if_neg notPins, if_neg (by omega)]
  rw [exec_scan_of_not_pins s tdi lv notPins, act]

theorem exec_scan_pins (tdi : List Bool) (lv : BitVec 29) (hc : c = 0 ∨ c = 2 ∨ c = 3) (hp : pinsMode s = true) :
    exec (.boundaryScanInstruction ⟨c, tdi, lv⟩) s = .next (dataScan { s with scanIr := c } tdi lv) := by
  have act : scanAct s c = c := (scanAct_pins s hc).trans (if_pos hp)
  have notBypass : c ≠ 0xFF := by rintro rfl; revert hc; decide
  change execBoundaryScanInstruction _ s = _
  simp only [execBoundaryScanInstruction, act, notBypass, and_false, if_false]

theorem exec_scan_pins_refused (tdi : List Bool) (lv : BitVec 29) (hc : c = 0 ∨ c = 2 ∨ c = 3) (hp : pinsMode s = false) :
    exec (.boundaryScanInstruction ⟨c, tdi, lv⟩) s =
      .next (dataScan (logNote { s with scanIr := 0xFF } 0 0xF07 7) tdi lv) := by
  have act : scanAct s c = 0xFF := by rw [scanAct_pins s hc, hp]; rfl
  change execBoundaryScanInstruction _ s = _
  simp only [execBoundaryScanInstruction, act, hc, true_and, if_true]

end

/-! ## The balls -/

theorem ballOut_lt {i : Nat} (h : ballOut i = true) : i < 29 := by
  simp [ballOut] at h
  omega

section
variable {s : State} {i : Nat} (hp : pinsMode s = true) (hi : ballOut i = true)
include hp hi

theorem ballDrives_extest (hir : s.scanIr = 0) : ballDrives s i =
    if s.scanHold.getLsbD (2 * i + 1) then some (s.scanHold.getLsbD (2 * i)) else none := by
  rw [ballDrives, if_neg (by simp [hp, hi]), if_pos (.inl hir)]

theorem ballDrives_highz (hir : s.scanIr = 2) : ballDrives s i = none := by
  rw [ballDrives, if_neg (by simp [hp, hi]), if_neg (by rw [hir]; decide), if_pos hir]

theorem extest_drives_scanned {tdi : List Bool} (lv : BitVec 29) (htdi : tdi.length = 58) :
    ballDrives (dataScan { s with scanIr := 0 } tdi lv) i =
      if tdi.getD (2 * i + 1) false then some (tdi.getD (2 * i) false) else none := by
  have hlt := ballOut_lt hi
  obtain ⟨held, -⟩ := dataScan_scansBoundary s lv htdi (.inl rfl)
  have scanned := dataScan_boundary (s := { s with scanIr := 0 }) lv htdi (.inl rfl)
  have pins : pinsMode (dataScan { s with scanIr := 0 } tdi lv) = true := by
    rw [scanned]
    exact hp
  have extest : (dataScan { s with scanIr := 0 } tdi lv).scanIr = 0 := by
    rw [scanned]
    rfl
  rw [ballDrives_extest pins hi extest, held _ (by omega), held _ (by omega)]

end

end Sys2Proof.Proofs.TestPort
end

section
open Sys2Proof Sys2Proof.Machine Sys2Proof.Proofs.Supply Sys2Proof.Proofs.TestPort

/-- Settles O51: the loss of VIN by what the commits under way and a dead always-on domain can touch, WAKE_IN by the plan
of the wake, and the boundary register by the digits of its capture, which 58 shifts send out for the bits that came in. -/
theorem supplyAndAlwaysOnDomain : Obligations.SupplyAndAlwaysOnDomain := by
  refine ⟨⟨fun s hm => ⟨powerStage s, if_pos hm, rfl, rfl, rfl, rfl, rfl, rfl, rfl, rfl, rfl, rfl⟩,
      fun s n rev hm => ⟨_, exec_vinLost n rev hm, ?_⟩,
      fun s strap hm hs => ⟨_, exec_powerOnEnd strap hm hs, rfl, rfl, rfl, rfl, rfl, rfl, rfl, rfl⟩⟩,
    fun s hvin hvbat => ⟨_, exec_vbatLost hvin hvbat, rfl, rfl, rfl, rfl, loseAon_acmp _, rfl, rfl, rfl⟩,
    fun s hvin hvbat => ⟨_, exec_vbatRestored hvin hvbat, rfl⟩,
    fun s haux => ⟨fun hm => ⟨_, exec_wakeIn_vault haux hm, rfl, rfl, rfl, rfl⟩,
      fun hm hp => ⟨_, exec_wakeIn_drowse haux hm, wakeDrowse_plans 0 hm hp⟩⟩,
    fun s lv => ⟨_, exec_scan_sample s [] lv, dataScan_nil _ lv⟩,
    fun s c lv hc => ⟨fun hm => ⟨_, exec_scan_pins s [] lv hc ((pinsMode_iff s).mpr hm), dataScan_nil _ lv⟩,
      fun hs hf hh =>
        ⟨_, exec_scan_pins_refused s [] lv hc (pinsMode_eq_false hs hf hh), _, rfl, rfl, dataScan_nil _ lv⟩⟩,
    fun s lv c hlo hhi => ⟨_, exec_scan_internal s [] lv hlo hhi, dataScan_nil _ lv⟩,
    fun s lv c hlo hout => ⟨_, exec_scan_other s [] lv hlo hout, dataScan_nil _ lv⟩,
    fun s tdi lv htdi => ⟨⟨_, exec_scan_sample s tdi lv, dataScan_scansBoundary s lv htdi (.inr rfl)⟩,
      fun hp => ⟨_, exec_scan_pins s tdi lv (.inl rfl) hp, dataScan_scansBoundary s lv htdi (.inl rfl)⟩,
      fun hp => ⟨_, exec_scan_pins s tdi lv (.inl rfl) hp, fun i hi => extest_drives_scanned hp hi lv htdi⟩,
      fun hp => ⟨_, exec_scan_pins s [] lv (.inr (.inl rfl)) hp, fun i hi => ?_⟩⟩,
    fun s b tdi lv => ⟨_, exec_scan_other s (b :: tdi) lv (by decide) (by decide), dataScan_bypass b tdi lv rfl⟩,
    fun s => ⟨_, rfl, rfl⟩⟩
  · obtain ⟨a, c, r, l, session⟩ := aonUnlessDead_touches (vaultSession s n rev)
    obtain ⟨hsupply, hfuse, hfw, hpending, hout⟩ := (landWrites_touches s n).stands
    rw [session]
    refine ⟨rfl, rfl, rfl, rfl, rfl, ?_, rfl, rfl, rfl, rfl, rfl, rfl, fun idle => ?_, hfuse, hfw, hpending, hout⟩
    · exact congrArg (fun x => CacheSt.init x.strap) hsupply
    · have landed := landWrites_of_idle n idle
      exact ⟨congrArg (·.root) landed, congrArg (·.jnl.mem) landed⟩
  · rw [dataScan_nil]
    exact ballDrives_highz hp hi rfl

end
